-- ==== Sys2Proof/Word.lean ====
section
/-! DEFINITION. The word types of the machine and their plainest readings. -/

namespace Sys2Proof

/-- A byte of memory (R11). -/
abbrev Byte := BitVec 8

/-- A scalar register, a vector element or a code word (R49, R50). -/
abbrev Word := BitVec 32

/-- A register pair, an address or a device time. -/
abbrev DWord := BitVec 64

end Sys2Proof
end

