-- ==== Sys2Proof/Syntax.lean ====
section
/-! DEFINITION. The abstract syntax: one constructor for every row of the opcode table, instructions and events. -/

namespace Sys2Proof

/-- The fields of a V-format instruction (R26) apart from OP and FN, which the constructor fixes. -/
structure VForm where
  ty : BitVec 3
  vd : BitVec 8
  va : BitVec 8
  vb : BitVec 8
  perm : BitVec 4
  ppar : BitVec 7
  sb : BitVec 6
  pred : BitVec 4
  pneg : BitVec 1
  rm : BitVec 2
  deriving DecidableEq, Repr

/-- The fields of an M-format instruction (R26, R33) apart from OP. -/
structure MForm where
  sz : BitVec 3
  vd : BitVec 8
  sbase : BitVec 6
  path : BitVec 2
  qual : BitVec 6
  vidx : BitVec 8
  off : BitVec 17
  pred : BitVec 4
  pneg : BitVec 1
  deriving DecidableEq, Repr

/-- The fields of an atomic (format Matom of R26) apart from OP and AOP. -/
structure AForm where
  sz : BitVec 3
  vd : BitVec 8
  sbase : BitVec 6
  path : BitVec 2
  qual : BitVec 6
  vidx : BitVec 8
  off : BitVec 13
  pred : BitVec 4
  pneg : BitVec 1
  deriving DecidableEq, Repr

/-- The fields of an X-format instruction (R26, R34) apart from OP and FN. -/
structure XForm where
  sa : BitVec 6
  sb : BitVec 6
  sc : BitVec 6
  sf : BitVec 6
  ss : BitVec 6
  pair : BitVec 1
  zero : BitVec 1
  cmp : BitVec 1
  deriving DecidableEq, Repr

/-- The fields of an E-format instruction (R26, R35) apart from OP and FN. -/
structure EForm where
  sa : BitVec 6
  sb : BitVec 6
  sc : BitVec 6
  imm : BitVec 32
  deriving DecidableEq, Repr

/-- A unit of the part that works on its own: the subject of an engine event. -/
inductive EngineUnit
  /-- the copy engine of a core (R231) -/
  | copy (core : Nat)
  /-- the weight loader of a core (R219) -/
  | loader (core : Nat)
  /-- the matrix queue of a core (R199) -/
  | matrix (core : Nat)
  /-- the table loader of a core (R240) -/
  | table (core : Nat)
  /-- the selection unit of a cluster (R265) -/
  | selection (cluster : Nat)
  /-- the attention engine of a cluster (R279) -/
  | attention (cluster : Nat)
  /-- the fabric engine of a cluster (R381) -/
  | fabric (cluster : Nat)
  deriving DecidableEq, Repr

/-- A slot of the boot flash: its firmware image and the signature of the image's digest (R365). -/
structure FirmwareSlot where
  image : List (BitVec 8)
  signature : List (BitVec 8)
  deriving DecidableEq, Repr

/-- What the boot ROM meets at power-on (R3, R365, R366): the memory PHY groups that are populated and train, the boot flash, and the
features the part carries (R369). -/
structure PowerOnInput where
  trained : BitVec 8
  slot0 : FirmwareSlot
  slot1 : FirmwareSlot
  offer : BitVec 128
  deriving DecidableEq, Repr

/-- A contribution to a collective, or its result, with its header (R378). -/
structure Contribution where
  fn : Nat
  oper : Nat
  count : Nat
  flags : BitVec 11
  thr : Bool
  mismatch : Bool
  bytes : List (BitVec 8)
  deriving DecidableEq, Repr

/-- A child's contribution as it reaches the router. `secure` says that it came under the transport security sublayer (R373). -/
structure ContributionPacket where
  secure : Bool
  content : Contribution
  deriving DecidableEq, Repr

/-- What reaches a member of a convoy from another (R378, R384): a synchronous collective's result, or for `reduce` the
parent's acceptance; or the data of an `mcast` with its note, from the member with the peer index. `secure` says that it came under
the transport security sublayer (R373). -/
inductive CollectiveArrival
  | result (secure : Bool) (seq : Nat) (c : Contribution)
  | multicast (secure : Bool) (source : Nat) (dst note : Nat) (value : BitVec 64) (bytes : List (BitVec 8))
  deriving DecidableEq, Repr

/-- What a peer sends back to the fabric engine (R382, R384). -/
inductive FabricReply
  /-- nothing yet: the engine goes on with its own part -/
  | none
  /-- the acknowledgement of every put of the operation, with the status the peer met -/
  | ack (status : BitVec 8)
  /-- the bytes of a get, with the status the peer met -/
  | data (status : BitVec 8) (bytes : List (BitVec 8))
  deriving DecidableEq, Repr

/-- Every row of opcode_table.json: the instructions, with their operand fields, and the part's events, with
what each event acts on. -/
inductive Instr
  -- one-word instructions (R37)
  /-- ADD_REG: Adds two scalar registers modulo 2^32 into SD (R93). -/
  | addReg (sd sa sb : BitVec 6)
  /-- ADD_IMM: Adds a scalar register and a sign-extended immediate modulo 2^32 (R93). -/
  | addImm (sd sa : BitVec 6) (imm : BitVec 12)
  /-- SUB_REG: Subtracts scalar register SB from SA modulo 2^32 (R93). -/
  | subReg (sd sa sb : BitVec 6)
  /-- SUB_IMM: Subtracts a sign-extended immediate from SA modulo 2^32 (R93). -/
  | subImm (sd sa : BitVec 6) (imm : BitVec 12)
  /-- MUL_REG: Writes the low 32 bits of the product of two scalars (R93). -/
  | mulReg (sd sa sb : BitVec 6)
  /-- MUL_IMM: Writes the low 32 bits of a scalar times a sign-extended immediate (R93). -/
  | mulImm (sd sa : BitVec 6) (imm : BitVec 12)
  /-- MULHS_REG: Writes the high word of the signed 64-bit product of two scalars (R93). -/
  | mulhsReg (sd sa sb : BitVec 6)
  /-- MULHS_IMM: Writes the high word of the signed product with an immediate (R93). -/
  | mulhsImm (sd sa : BitVec 6) (imm : BitVec 12)
  /-- MULHU_REG: Writes the high word of the unsigned 64-bit product of two scalars (R93). -/
  | mulhuReg (sd sa sb : BitVec 6)
  /-- MULHU_IMM: Writes the high word of the unsigned product with an extended immediate (R93). -/
  | mulhuImm (sd sa : BitVec 6) (imm : BitVec 12)
  /-- DIVS_REG: Signed division truncating toward zero, with defined results for zero and overflow (R94). -/
  | divsReg (sd sa sb : BitVec 6)
  /-- DIVS_IMM: Signed division by a sign-extended immediate (R94). -/
  | divsImm (sd sa : BitVec 6) (imm : BitVec 12)
  /-- DIVU_REG: Unsigned division of two scalars (R94). -/
  | divuReg (sd sa sb : BitVec 6)
  /-- DIVU_IMM: Unsigned division by an extended immediate (R94). -/
  | divuImm (sd sa : BitVec 6) (imm : BitVec 12)
  /-- REMS_REG: Signed remainder taking the sign of the dividend (R94). -/
  | remsReg (sd sa sb : BitVec 6)
  /-- REMS_IMM: Signed remainder by a sign-extended immediate (R94). -/
  | remsImm (sd sa : BitVec 6) (imm : BitVec 12)
  /-- REMU_REG: Unsigned remainder of two scalars (R94). -/
  | remuReg (sd sa sb : BitVec 6)
  /-- REMU_IMM: Unsigned remainder by an extended immediate (R94). -/
  | remuImm (sd sa : BitVec 6) (imm : BitVec 12)
  /-- AND_REG: Bitwise AND of two scalars (R93). -/
  | andReg (sd sa sb : BitVec 6)
  /-- AND_IMM: Bitwise AND with a zero-extended immediate (R93). -/
  | andImm (sd sa : BitVec 6) (imm : BitVec 12)
  /-- OR_REG: Bitwise OR of two scalars (R93). -/
  | orReg (sd sa sb : BitVec 6)
  /-- OR_IMM: Bitwise OR with a zero-extended immediate (R93). -/
  | orImm (sd sa : BitVec 6) (imm : BitVec 12)
  /-- XOR_REG: Bitwise XOR of two scalars (R93). -/
  | xorReg (sd sa sb : BitVec 6)
  /-- XOR_IMM: Bitwise XOR with a zero-extended immediate (R93). -/
  | xorImm (sd sa : BitVec 6) (imm : BitVec 12)
  /-- ANDN_REG: SA AND NOT SB (R93). -/
  | andnReg (sd sa sb : BitVec 6)
  /-- ANDN_IMM: SA AND NOT a zero-extended immediate (R93). -/
  | andnImm (sd sa : BitVec 6) (imm : BitVec 12)
  /-- SHL_REG: Shifts SA left by SB mod 32 (R93). -/
  | shlReg (sd sa sb : BitVec 6)
  /-- SHL_IMM: Shifts SA left by an immediate mod 32 (R93). -/
  | shlImm (sd sa : BitVec 6) (imm : BitVec 12)
  /-- SHR_REG: Logical right shift by SB mod 32 (R93). -/
  | shrReg (sd sa sb : BitVec 6)
  /-- SHR_IMM: Logical right shift by an immediate mod 32 (R93). -/
  | shrImm (sd sa : BitVec 6) (imm : BitVec 12)
  /-- SAR_REG: Arithmetic right shift by SB mod 32 (R93). -/
  | sarReg (sd sa sb : BitVec 6)
  /-- SAR_IMM: Arithmetic right shift by an immediate mod 32 (R93). -/
  | sarImm (sd sa : BitVec 6) (imm : BitVec 12)
  /-- ROL_REG: Rotates SA left by SB mod 32 (R93). -/
  | rolReg (sd sa sb : BitVec 6)
  /-- ROL_IMM: Rotates SA left by an immediate mod 32 (R93). -/
  | rolImm (sd sa : BitVec 6) (imm : BitVec 12)
  /-- MIN_REG: Signed minimum of two scalars (R93). -/
  | minReg (sd sa sb : BitVec 6)
  /-- MIN_IMM: Signed minimum with a sign-extended immediate (R93). -/
  | minImm (sd sa : BitVec 6) (imm : BitVec 12)
  /-- MAX_REG: Signed maximum of two scalars (R93). -/
  | maxReg (sd sa sb : BitVec 6)
  /-- MAX_IMM: Signed maximum with a sign-extended immediate (R93). -/
  | maxImm (sd sa : BitVec 6) (imm : BitVec 12)
  /-- MINU_REG: Unsigned minimum of two scalars (R93). -/
  | minuReg (sd sa sb : BitVec 6)
  /-- MINU_IMM: Unsigned minimum with a sign-extended immediate (R93). -/
  | minuImm (sd sa : BitVec 6) (imm : BitVec 12)
  /-- MAXU_REG: Unsigned maximum of two scalars (R93). -/
  | maxuReg (sd sa sb : BitVec 6)
  /-- MAXU_IMM: Unsigned maximum with a sign-extended immediate (R93). -/
  | maxuImm (sd sa : BitVec 6) (imm : BitVec 12)
  /-- SLT_REG: Writes 1 if SA is signed-less than SB (R93). -/
  | sltReg (sd sa sb : BitVec 6)
  /-- SLT_IMM: Writes 1 if SA is signed-less than the immediate (R93). -/
  | sltImm (sd sa : BitVec 6) (imm : BitVec 12)
  /-- SLTU_REG: Writes 1 if SA is unsigned-less than SB (R93). -/
  | sltuReg (sd sa sb : BitVec 6)
  /-- SLTU_IMM: Writes 1 if SA is unsigned-less than the sign-extended immediate (R93). -/
  | sltuImm (sd sa : BitVec 6) (imm : BitVec 12)
  /-- SEQ_REG: Writes 1 if two scalars are equal (R93). -/
  | seqReg (sd sa sb : BitVec 6)
  /-- SEQ_IMM: Writes 1 if SA equals the immediate (R93). -/
  | seqImm (sd sa : BitVec 6) (imm : BitVec 12)
  /-- SNE_REG: Writes 1 if two scalars differ (R93). -/
  | sneReg (sd sa sb : BitVec 6)
  /-- SNE_IMM: Writes 1 if SA differs from the immediate (R93). -/
  | sneImm (sd sa : BitVec 6) (imm : BitVec 12)
  /-- CLZ: Counts leading zero bits of SA (R93). -/
  | clz (sd sa : BitVec 6)
  /-- POPC: Counts one bits of SA (R93). -/
  | popc (sd sa : BitVec 6)
  /-- BREV: Reverses the bits of SA (R93). -/
  | brev (sd sa : BitVec 6)
  /-- ADDP_REG: Adds two 64-bit register pairs (R95). -/
  | addpReg (sd sa sb : BitVec 6)
  /-- ADDP_IMM: Adds a sign-extended immediate to a 64-bit register pair (R95). -/
  | addpImm (sd sa : BitVec 6) (imm : BitVec 12)
  /-- RDSR: Reads a special register into SD, latching 64-bit registers on the low index (R97). -/
  | rdsr (sd : BitVec 6) (index : BitVec 12)
  /-- WRSR: Writes SA to a special register, honouring read-only and reserved bits (R97). -/
  | wrsr (sa : BitVec 6) (index : BitVec 12)
  /-- BRA: Unconditional relative branch to a run header (R99). -/
  | bra (off : BitVec 19)
  /-- BZ: Branches when the scalar is zero (R99). -/
  | bz (sa : BitVec 6) (off : BitVec 19)
  /-- BNZ: Branches when the scalar is nonzero (R99). -/
  | bnz (sa : BitVec 6) (off : BitVec 19)
  /-- CALL: Writes the return offset to s60 and branches (R100). -/
  | call (off : BitVec 19)
  /-- RET: Continues at the code offset held in s60 (R100). -/
  | ret
  /-- JMPR: Continues at the code offset held in SA (R100). -/
  | jmpr (sa : BitVec 6)
  /-- RCV: Pops the reconvergence stack and restores a mask or runs a pending path (R103). -/
  | rcv
  /-- EXIT: Ends the current path's threads and continues on a remaining path or retires the warp (R104). -/
  | exit
  /-- BAR: Arrives at a party and waits for the phase to complete (R250). -/
  | bar (slot : BitVec 2)
  /-- BAR_ARRIVE: Arrives at a party without waiting (R250). -/
  | barArrive (slot : BitVec 2)
  /-- BAR_WAIT: Waits for the phase of the warp's earlier arrival to complete (R250). -/
  | barWait (slot : BitVec 2)
  /-- WAITM: Sleeps until an armed watch fires, a time limit passes or a halt line rises (R154). -/
  | waitm (sa : BitVec 6)
  /-- TRAP: Raises a software trap with a code (R108). -/
  | trap (code : BitVec 12)
  /-- TRET: Leaves a trap handler and resumes by cause or redirect target (R163). -/
  | tret
  /-- TMSK: Sets or clears the warp's trap mask (R111). -/
  | tmsk (mask : BitVec 1)
  /-- SETTMR: Writes the timer comparator and discards a pending timer trap (R112). -/
  | settmr (sa : BitVec 6)
  /-- PERF: Sets the context's performance request on the cluster (R258). -/
  | perf (level : BitVec 2)
  /-- BRK: Raises a breakpoint trap, or halts the warp when a debugger has claimed breakpoints (R109). -/
  | brk (code : BitVec 12)
  /-- FENCE_REL: Performs a release at the given scope (R156). -/
  | fenceRel (scope : BitVec 2)
  /-- FENCE_ACQ: Performs an acquire at the given scope (R156). -/
  | fenceAcq (scope : BitVec 2)
  /-- FENCE_FULL: Performs a release and then an acquire (R156). -/
  | fenceFull (scope : BitVec 2)
  /-- FENCE_PATH: Releases, discards the named path caches and advances HORIZON for the generic path (R157). -/
  | fencePath (scope : BitVec 2) (paths : BitVec 3)
  /-- MWAIT: Waits until every batch up to the given number is complete (R210). -/
  | mwait (sa : BitVec 6)
  /-- MFENCE: Closes the open matrix operations into a new batch and returns its number (R210). -/
  | mfence (sd : BitVec 6)
  /-- EVPOP: Removes and returns the oldest completion record, or zero (R236). -/
  | evpop (sd : BitVec 6)
  /-- EVWAIT: Waits for a completion record when one is due and returns it (R236). -/
  | evwait (sd : BitVec 6)
  /-- VGROW: Claims registers to raise the vector quota, blocking when the claim is not granted (R174). -/
  | vgrow (count : BitVec 12)
  /-- VSHRK: Lowers the vector quota and frees registers at once (R174). -/
  | vshrk (count : BitVec 12)
  /-- CRD: Reads the visible value of a shared register (R195). -/
  | crd (sd : BitVec 6) (index : BitVec 12)
  /-- CWR: Writes a shared register (R195). -/
  | cwr (sa : BitVec 6) (index : BitVec 12)
  /-- CADD: Atomically adds to a shared register and returns the old value (R195). -/
  | cadd (sd sa : BitVec 6) (index : BitVec 12)
  /-- CCAS: Compare-and-swap on a shared register (R195). -/
  | ccas (sd sa : BitVec 6) (index : BitVec 12)
  /-- YIELD: Gives up the active position to a waiting warp at run end, or restarts aging (R106). -/
  | yield
  /-- CLK: Writes the device time to a scalar pair (R107). -/
  | clk (sd : BitVec 6)
  /-- HREL: Relays a handoff track early (R190). -/
  | hrel (track : BitVec 12)
  -- two-word instructions (R38)
  /-- SLI: Loads a 32-bit immediate into a scalar (R96). -/
  | sli (sd : BitVec 6) (imm : BitVec 32)
  /-- VADD_INTEGER: Wrapping integer add per element (R117). -/
  | vaddInteger (f : VForm)
  /-- VSUB_INTEGER: Wrapping integer subtract per element (R117). -/
  | vsubInteger (f : VForm)
  /-- VMUL_INTEGER: Wrapping integer multiply per element (R117). -/
  | vmulInteger (f : VForm)
  /-- VMULH: High half of the integer product per element (R117). -/
  | vmulh (f : VForm)
  /-- VMAD: Integer multiply-add into the destination (R117). -/
  | vmad (f : VForm)
  /-- VMIN_INTEGER: Integer minimum per element (R117). -/
  | vminInteger (f : VForm)
  /-- VMAX_INTEGER: Integer maximum per element (R117). -/
  | vmaxInteger (f : VForm)
  /-- VABS_INTEGER: Integer absolute value per element (R117). -/
  | vabsInteger (f : VForm)
  /-- VNEG_INTEGER: Integer negation per element (R117). -/
  | vnegInteger (f : VForm)
  /-- VADDS: Saturating integer add (R117). -/
  | vadds (f : VForm)
  /-- VSUBS: Saturating integer subtract (R117). -/
  | vsubs (f : VForm)
  /-- VAND: Bitwise AND per element (R118). -/
  | vand (f : VForm)
  /-- VOR: Bitwise OR per element (R118). -/
  | vor (f : VForm)
  /-- VXOR: Bitwise XOR per element (R118). -/
  | vxor (f : VForm)
  /-- VANDN: A AND NOT B per element (R118). -/
  | vandn (f : VForm)
  /-- VNOT: Bitwise NOT per element (R118). -/
  | vnot (f : VForm)
  /-- VSHL: Left shift per element (R118). -/
  | vshl (f : VForm)
  /-- VSHR: Logical right shift per element (R118). -/
  | vshr (f : VForm)
  /-- VSAR: Arithmetic right shift per element (R118). -/
  | vsar (f : VForm)
  /-- VROL: Rotate left per element (R118). -/
  | vrol (f : VForm)
  /-- VCLZ: Leading zero count per element (R118). -/
  | vclz (f : VForm)
  /-- VPOPC: Population count per element (R118). -/
  | vpopc (f : VForm)
  /-- VBREV: Bit reversal per element (R118). -/
  | vbrev (f : VForm)
  /-- VBFE: Extracts a bit field with optional sign extension (R119). -/
  | vbfe (f : VForm)
  /-- VADD_FLOAT: Float add rounded once under RM (R120). -/
  | vaddFloat (f : VForm)
  /-- VSUB_FLOAT: Float subtract rounded once under RM (R120). -/
  | vsubFloat (f : VForm)
  /-- VMUL_FLOAT: Float multiply rounded once under RM (R120). -/
  | vmulFloat (f : VForm)
  /-- VFMA: Fused multiply-add into the destination (R120). -/
  | vfma (f : VForm)
  /-- VFMS: Fused multiply-subtract of the destination (R120). -/
  | vfms (f : VForm)
  /-- VMIN_FLOAT: Float minimum with NaN and signed-zero rules (R121). -/
  | vminFloat (f : VForm)
  /-- VMAX_FLOAT: Float maximum with NaN and signed-zero rules (R121). -/
  | vmaxFloat (f : VForm)
  /-- VABS_FLOAT: Clears the sign of a float (R120). -/
  | vabsFloat (f : VForm)
  /-- VNEG_FLOAT: Inverts the sign of a float (R120). -/
  | vnegFloat (f : VForm)
  /-- VRND: Rounds a float to an integral value under RM (R122). -/
  | vrnd (f : VForm)
  /-- VCEQ: Sets a predicate where a equals b (R123). -/
  | vceq (f : VForm)
  /-- VCNE: Sets a predicate where a differs from b (R123). -/
  | vcne (f : VForm)
  /-- VCLT: Sets a predicate where a is less than b (R123). -/
  | vclt (f : VForm)
  /-- VCLE: Sets a predicate where a is at most b (R123). -/
  | vcle (f : VForm)
  /-- VCGT: Sets a predicate where a is greater than b (R123). -/
  | vcgt (f : VForm)
  /-- VCGE: Sets a predicate where a is at least b (R123). -/
  | vcge (f : VForm)
  /-- VCORD: Sets a predicate where neither float is NaN (R123). -/
  | vcord (f : VForm)
  /-- VCUNO: Sets a predicate where either float is NaN (R123). -/
  | vcuno (f : VForm)
  /-- VCVT: Converts each element between formats with rounding, saturation or stochastic rounding (R125). -/
  | vcvt (fn : BitVec 6) (f : VForm)
  /-- VQBLK_E4: Quantises 16-thread blocks to E4M3 with a shared scale (R126). -/
  | vqblkE4 (f : VForm)
  /-- VQBLK_E5: Quantises 16-thread blocks to E5M2 with a shared scale (R126). -/
  | vqblkE5 (f : VForm)
  /-- VQBLK_F4: Quantises 16-thread blocks to FP4 with a shared scale (R126). -/
  | vqblkF4 (f : VForm)
  /-- VQBLK_LG: Quantises 16-thread blocks to LG6 with a shared scale (R126). -/
  | vqblkLg (f : VForm)
  /-- VDQBLK_E4: Decodes a scaled E4M3 word to f32 (R127). -/
  | vdqblkE4 (f : VForm)
  /-- VDQBLK_E5: Decodes a scaled E5M2 word to f32 (R127). -/
  | vdqblkE5 (f : VForm)
  /-- VDQBLK_F4: Decodes a scaled FP4 word to f32 (R127). -/
  | vdqblkF4 (f : VForm)
  /-- VDQBLK_LG: Decodes a scaled LG6 word to f32 (R127). -/
  | vdqblkLg (f : VForm)
  /-- VEXP2: Correctly rounded 2^x (R128). -/
  | vexp2 (f : VForm)
  /-- VLOG2: Correctly rounded log2 x (R128). -/
  | vlog2 (f : VForm)
  /-- VRCP: Correctly rounded reciprocal (R128). -/
  | vrcp (f : VForm)
  /-- VRSQRT: Correctly rounded reciprocal square root (R128). -/
  | vrsqrt (f : VForm)
  /-- VSQRT: Square root rounded under RM (R128). -/
  | vsqrt (f : VForm)
  /-- VSIN: Correctly rounded sine of an argument in turns (R128). -/
  | vsin (f : VForm)
  /-- VCOS: Correctly rounded cosine of an argument in turns (R128). -/
  | vcos (f : VForm)
  /-- VTANH: Correctly rounded hyperbolic tangent (R128). -/
  | vtanh (f : VForm)
  /-- VTBL: Evaluates the current copy of an activation table slot (R130). -/
  | vtbl (slot : BitVec 3) (f : VForm)
  /-- VMOV: Copies a possibly permuted or broadcast source (R131). -/
  | vmov (f : VForm)
  /-- VSEL: Selects between two sources by predicate (R131). -/
  | vsel (f : VForm)
  /-- VBCAST: Broadcasts the lowest active thread's element (R131). -/
  | vbcast (f : VForm)
  /-- VRDL: Reads one thread's element into a scalar (R131). -/
  | vrdl (f : VForm)
  /-- VWRL: Writes a scalar into one thread's element (R131). -/
  | vwrl (f : VForm)
  /-- VIOTA: Writes the thread index plus an offset (R131). -/
  | viota (f : VForm)
  /-- VRADD: Integer sum reduction to a scalar (R132). -/
  | vradd (f : VForm)
  /-- VRMIN: Integer minimum reduction (R132). -/
  | vrmin (f : VForm)
  /-- VRMAX: Integer maximum reduction (R132). -/
  | vrmax (f : VForm)
  /-- VRAND: Bitwise AND reduction (R132). -/
  | vrand (f : VForm)
  /-- VROR: Bitwise OR reduction (R132). -/
  | vror (f : VForm)
  /-- VRXOR: Bitwise XOR reduction (R132). -/
  | vrxor (f : VForm)
  /-- VRFADD: Float sum reduction in a fixed tree (R133). -/
  | vrfadd (f : VForm)
  /-- VRFMAX: Float maximum reduction in a fixed tree (R133). -/
  | vrfmax (f : VForm)
  /-- VRFMIN: Float minimum reduction in a fixed tree (R133). -/
  | vrfmin (f : VForm)
  /-- VSCAN_ADD: Inclusive add scan over taking-part threads (R134). -/
  | vscanAdd (f : VForm)
  /-- VSCANX_ADD: Exclusive add scan (R134). -/
  | vscanxAdd (f : VForm)
  /-- VSCAN_XOR: Inclusive XOR scan (R134). -/
  | vscanXor (f : VForm)
  /-- VSCANX_XOR: Exclusive XOR scan (R134). -/
  | vscanxXor (f : VForm)
  /-- VSCAN_MAX: Inclusive maximum scan (R134). -/
  | vscanMax (f : VForm)
  /-- VSCAN_FADD: Inclusive float add scan in thread order (R134). -/
  | vscanFadd (f : VForm)
  /-- VCLMUL: Low word of the carry-less product (R135). -/
  | vclmul (f : VForm)
  /-- VCLMULH: High word of the carry-less product (R135). -/
  | vclmulh (f : VForm)
  /-- VPXOR: Prefix XOR of the bits of each element (R135). -/
  | vpxor (f : VForm)
  /-- PAND: AND of two predicates (R136). -/
  | pand (f : VForm)
  /-- POR: OR of two predicates (R136). -/
  | por (f : VForm)
  /-- PXOR: XOR of two predicates (R136). -/
  | pxor (f : VForm)
  /-- PNOT: Negation of a predicate (R136). -/
  | pnot (f : VForm)
  /-- PFROMS: Loads a predicate from three scalars (R136). -/
  | pfroms (f : VForm)
  /-- PTOS: Stores a predicate, restricted to taking-part threads, into three scalars (R136). -/
  | ptos (f : VForm)
  /-- PCNT: Counts taking-part threads where the predicate holds (R136). -/
  | pcnt (f : VForm)
  /-- PFIRST: Finds the lowest taking-part thread where the predicate holds (R136). -/
  | pfirst (f : VForm)
  /-- VBR: Splits the current path by predicate and pushes JOIN and PENDING entries (R102). -/
  | vbr (pred : BitVec 4) (neg : BitVec 1) (target reconv : BitVec 16)
  /-- VLGMUL: Log-domain multiply of LG6 bytes (R137). -/
  | vlgmul (f : VForm)
  /-- VLGADD: Log-domain add of LG6 bytes (R137). -/
  | vlgadd (f : VForm)
  /-- VPERF: Sets the performance request from the largest thread value (R258). -/
  | vperf (f : VForm)
  /-- LD: Loads from memory through a path, under leases or at the home (R147). -/
  | ld (f : MForm)
  /-- ST: Sends each thread's bytes to the line's home (R148). -/
  | st (f : MForm)
  /-- LDS: Loads from the core's scratchpad (R151). -/
  | lds (f : MForm)
  /-- STS: Stores to the core's scratchpad (R151). -/
  | sts (f : MForm)
  /-- ATOM_ADD: Atomic add at the home slice (R152). -/
  | atomAdd (f : AForm)
  /-- ATOM_SUB: Atomic subtract at the home slice (R152). -/
  | atomSub (f : AForm)
  /-- ATOM_MIN: Atomic signed minimum at the home slice (R152). -/
  | atomMin (f : AForm)
  /-- ATOM_MAX: Atomic signed maximum at the home slice (R152). -/
  | atomMax (f : AForm)
  /-- ATOM_MINU: Atomic unsigned minimum at the home slice (R152). -/
  | atomMinu (f : AForm)
  /-- ATOM_MAXU: Atomic unsigned maximum at the home slice (R152). -/
  | atomMaxu (f : AForm)
  /-- ATOM_AND: Atomic AND at the home slice (R152). -/
  | atomAnd (f : AForm)
  /-- ATOM_OR: Atomic OR at the home slice (R152). -/
  | atomOr (f : AForm)
  /-- ATOM_XOR: Atomic XOR at the home slice (R152). -/
  | atomXor (f : AForm)
  /-- ATOM_XCHG: Atomic exchange at the home slice (R152). -/
  | atomXchg (f : AForm)
  /-- ATOM_CAS: Atomic compare-and-swap at the home slice (R152). -/
  | atomCas (f : AForm)
  /-- ATOM_FADD_F32: Atomic binary32 add at the home slice (R152). -/
  | atomFaddF32 (f : AForm)
  /-- ATOM_FMAX_F32: Atomic binary32 maximum at the home slice (R152). -/
  | atomFmaxF32 (f : AForm)
  /-- ATOMS_ADD: Atomic add in scratchpad (R152). -/
  | atomsAdd (f : AForm)
  /-- ATOMS_SUB: Atomic subtract in scratchpad (R152). -/
  | atomsSub (f : AForm)
  /-- ATOMS_MIN: Atomic signed minimum in scratchpad (R152). -/
  | atomsMin (f : AForm)
  /-- ATOMS_MAX: Atomic signed maximum in scratchpad (R152). -/
  | atomsMax (f : AForm)
  /-- ATOMS_MINU: Atomic unsigned minimum in scratchpad (R152). -/
  | atomsMinu (f : AForm)
  /-- ATOMS_MAXU: Atomic unsigned maximum in scratchpad (R152). -/
  | atomsMaxu (f : AForm)
  /-- ATOMS_AND: Atomic AND in scratchpad (R152). -/
  | atomsAnd (f : AForm)
  /-- ATOMS_OR: Atomic OR in scratchpad (R152). -/
  | atomsOr (f : AForm)
  /-- ATOMS_XOR: Atomic XOR in scratchpad (R152). -/
  | atomsXor (f : AForm)
  /-- ATOMS_XCHG: Atomic exchange in scratchpad (R152). -/
  | atomsXchg (f : AForm)
  /-- ATOMS_CAS: Atomic compare-and-swap in scratchpad (R152). -/
  | atomsCas (f : AForm)
  /-- ATOMS_FADD_F32: Atomic binary32 add in scratchpad (R152). -/
  | atomsFaddF32 (f : AForm)
  /-- ATOMS_FMAX_F32: Atomic binary32 maximum in scratchpad (R152). -/
  | atomsFmaxF32 (f : AForm)
  /-- MON: Fresh load that arms a watch set of up to four lines (R153). -/
  | mon (f : MForm)
  /-- PREF: Prefetches lines toward the core without trapping (R155). -/
  | pref (f : MForm)
  /-- CPY_MS: Copies memory to scratchpad on the copy engine (R237). -/
  | cpyMs (f : EForm)
  /-- CPY_SM: Copies scratchpad to memory on the copy engine (R237). -/
  | cpySm (f : EForm)
  /-- CPY_MM: Copies memory to memory on the copy engine (R237). -/
  | cpyMm (f : EForm)
  /-- CPY_PP: Copies scratchpad to a peer caravan's scratchpad (R237). -/
  | cpyPp (f : EForm)
  /-- GATH: Gathers scattered memory elements into scratchpad (R238). -/
  | gath (f : EForm)
  /-- SCAT: Scatters scratchpad elements to memory addresses (R238). -/
  | scat (f : EForm)
  /-- PROM: Queues a promotion of a page to HBM4E (R335). -/
  | prom (f : EForm)
  /-- DMOT: Queues a demotion of a page to LPDDR 6 (R335). -/
  | dmot (f : EForm)
  /-- WBLD: Packs a B matrix into a weight-buffer region (R218). -/
  | wbld (f : EForm)
  /-- MMA: Queues a dense matrix multiply-accumulate into a tile (R217). -/
  | mma (f : XForm)
  /-- MMAS: Queues a seeded-sparse matrix multiply-accumulate (R217). -/
  | mmas (f : XForm)
  /-- ACLD: Queues a load of a matrix into an accumulator tile (R220). -/
  | acld (space : BitVec 1) (f : XForm)
  /-- ACST: Queues a store of an accumulator tile to a matrix (R220). -/
  | acst (space : BitVec 1) (f : XForm)
  /-- ACRD: Reads one tile column into a vector (R221). -/
  | acrd (f : VForm)
  /-- ACWR: Writes a vector into one tile column (R221). -/
  | acwr (f : VForm)
  /-- ACOP_ZERO: Queues zeroing of tile rows (R222). -/
  | acopZero (f : VForm)
  /-- ACOP_MULROW: Queues a per-row multiply of a tile (R222). -/
  | acopMulrow (f : VForm)
  /-- ACOP_ADDROW: Queues a per-row add to a tile (R222). -/
  | acopAddrow (f : VForm)
  /-- ACOP_FOLD: Sums each tile row into a vector (R222). -/
  | acopFold (f : VForm)
  /-- ACOP_MAXROW: Takes each tile row's maximum into a vector (R222). -/
  | acopMaxrow (f : VForm)
  /-- TBLLD: Loads the non-current copy of a table slot from memory (R240). -/
  | tblld (slot : BitVec 3) (f : EForm)
  /-- TBLSW: Makes the other copy of a table slot current (R241). -/
  | tblsw (slot : BitVec 3) (f : EForm)
  /-- KAPP: Appends tokens to a key/value page and updates its summary (R270). -/
  | kapp (f : EForm)
  /-- KSEL: Bounds pages against queries and writes a waybill (R274). -/
  | ksel (f : EForm)
  /-- KATT: Queues an exact attention request on the attention engine (R278). -/
  | katt (f : EForm)
  /-- KSUM: Rebuilds a key/value page's summary (R271). -/
  | ksum (f : EForm)
  /-- SPAWN: Submits a child caravan of the issuing launch (R349). -/
  | spawn (f : EForm)
  /-- JOIN: Waits until the warp has no open children (R350). -/
  | join (f : EForm)
  /-- QPUSH: Pushes each thread's task to a task queue (R353). -/
  | qpush (f : VForm)
  /-- QPOP: Pops head tasks of the warp's launch from a task queue (R353). -/
  | qpop (f : VForm)
  /-- FPUT: Puts local bytes to a peer package (R382). -/
  | fput (f : EForm)
  /-- FGET: Gets bytes from a peer package (R382). -/
  | fget (f : EForm)
  /-- FCOLL_ALLREDUCE: Combines every member's contribution and writes it to all (R384). -/
  | fcollAllreduce (f : EForm)
  /-- FCOLL_REDUCE: Combines contributions and writes the result at member 0 (R384). -/
  | fcollReduce (f : EForm)
  /-- FCOLL_BCAST: Broadcasts member 0's data to every member (R384). -/
  | fcollBcast (f : EForm)
  /-- FCOLL_MCAST: Multicasts the issuer's data and a note along the tree (R384). -/
  | fcollMcast (f : EForm)
  /-- FCOLL_ALLGATHER: Gathers every member's words at every member (R384). -/
  | fcollAllgather (f : EForm)
  /-- DBG_SETBRK: Adds a breakpoint entry for the target context (R306). -/
  | dbgSetbrk (f : EForm)
  /-- DBG_CLRBRK: Removes a breakpoint entry (R314). -/
  | dbgClrbrk (f : EForm)
  /-- DBG_HALT: Requests a debug halt of a target warp or raises the target partition's halt line (R314). -/
  | dbgHalt (f : EForm)
  /-- DBG_RESUME: Releases a debug halt or lowers the target partition's line (R314). -/
  | dbgResume (f : EForm)
  /-- DBG_STEP: Steps a debug-halted warp, optionally focused on one thread (R308). -/
  | dbgStep (f : EForm)
  /-- DBG_WATCH: Sets a scratchpad watchpoint entry (R310). -/
  | dbgWatch (f : EForm)
  /-- DBG_UNWATCH: Frees a watchpoint entry (R314). -/
  | dbgUnwatch (f : EForm)
  /-- DBG_RDREG: Reads a register of a debug-halted warp (R315). -/
  | dbgRdreg (f : EForm)
  /-- DBG_WRREG: Writes a register of a debug-halted warp (R315). -/
  | dbgWrreg (f : EForm)
  /-- TRC_ON: Turns trace on for named warps with a ring (R320). -/
  | trcOn (f : EForm)
  /-- TRC_OFF: Turns trace off for named warps (R320). -/
  | trcOff (f : EForm)
  /-- TRC_ANCHOR: Requests an anchor at the next safe point (R320). -/
  | trcAnchor (f : EForm)
  /-- TRC_MARK: Emits a MARK trace record (R320). -/
  | trcMark (f : EForm)
  /-- SAMP_CFG: Configures the cluster sampler and takes ownership (R324). -/
  | sampCfg (f : EForm)
  /-- SAMP_START: Starts the sampler's counters and rows (R324). -/
  | sampStart (f : EForm)
  /-- SAMP_STOP: Stops the sampler and releases ownership (R324). -/
  | sampStop (f : EForm)
  /-- SYS_TLBINV: Invalidates translations, caches and watches of a range or context (R301). -/
  | sysTlbinv (f : EForm)
  /-- SYS_FEAT: Reads a half of FEAT_OFFER or FEAT_ACCEPT (R302). -/
  | sysFeat (f : EForm)
  /-- RUN_FETCH: Fetches and checks a run header, taking bad run header when it fails (R20). -/
  | runFetch (w : Nat)
  /-- RUN_ISSUE: A scheduler chooses an eligible run, charges the bucket and executes it whole (R170). -/
  | runIssue (core sched cycles : Nat)
  /-- TERMINATE_COMPLETE: After outstanding work drains, relays tracks, adjusts parties, writes exit status and frees the quota (R166). -/
  | terminateComplete (w : Nat)
  /-- RETIRE_COMPLETE: Once stores, batches and engine records are done, the warp releases its quota (R105). -/
  | retireComplete (w : Nat)
  /-- TIMER: The timer comparator is reached and the timer trap becomes due (R112). -/
  | timer (w : Nat)
  /-- WARP_STOP: A warp stops at a run boundary under a raised halt line and saves its state (R65). -/
  | warpStop (w : Nat)
  /-- HALT_DEFER_TIMEOUT: After 20 us a warp in a masked handler stops at its next boundary (R165). -/
  | haltDeferTimeout (w : Nat)
  /-- CLAIM_SERVE: The oldest register claim that fits is served from the free store (R173). -/
  | claimServe (core : Nat)
  /-- QUOTA_ARBITER: Spills warps until the oldest blocked vgrow claim fits, then grants it (R176). -/
  | quotaArbiter (core : Nat)
  /-- RELAY_COPY: When the predecessor's value is present, it is copied into the relayed slot (R189). -/
  | relayCopy (caravan pass track : Nat)
  /-- CARAVAN_COMPLETE: All passes ended, relays filled and slots written; the front end is told (R178). -/
  | caravanComplete (caravan : Nat)
  /-- SHARED_REGISTER_VISIBLE: Four cycles after its operations, a shared register's current value becomes visible (R194). -/
  | sharedRegisterVisible (caravan index : Nat)
  /-- LOAD_RETURN: Load data arrives and is written to the destination (R147). -/
  | loadReturn (w load count : Nat)
  /-- STORE_ARRIVAL: A store reaches its home, is applied and a completion time is computed (R148). -/
  | storeArrival (w store : Nat)
  /-- STORE_ACK: A store acknowledgement arrives and WMAX is raised (R148). -/
  | storeAck (w store : Nat)
  /-- MATRIX_QUEUE_START: The next queued matrix operation begins on the array (R199). -/
  | matrixQueueStart (core : Nat)
  /-- MATRIX_OP_COMPLETE: A matrix operation finishes its tile writes and lock use (R209). -/
  | matrixOpComplete (core : Nat)
  /-- MWAIT_RETURN: A waiting mwait returns when its batches are complete (R210). -/
  | mwaitReturn (w : Nat)
  /-- EVWAIT_RETURN: A waiting evwait returns a newly queued record (R236). -/
  | evwaitReturn (w : Nat)
  /-- WAITM_WAKE: A sleeping waitm returns on a fired watch or halt line (R154). -/
  | waitmWake (w : Nat)
  /-- WAITM_TIMEOUT: A sleeping waitm returns when its time limit is reached (R154). -/
  | waitmTimeout (w : Nat)
  /-- BAR_RELEASE: When a party's phase completes, waiting warps issue their run remainder (R251). -/
  | barRelease (w : Nat)
  /-- JOIN_RETURN: A waiting join returns when the warp's last child finishes (R350). -/
  | joinReturn (w : Nat)
  /-- WEIGHT_LOADER_RUN: The weight loader packs the next wbld block by block (R219). -/
  | weightLoaderRun (core count : Nat)
  /-- COPY_ENGINE_RUN: The copy engine performs the next cpy, gath or scat (R231). -/
  | copyEngineRun (core count : Nat)
  /-- COMPLETION_RECORD_QUEUE: A finished engine operation queues its completion record and releases its locks (R230). -/
  | completionRecordQueue (unit : EngineUnit) (place : Nat)
  /-- TABLE_COPY_WRITE: A tblld writes its table copy once no run holds it (R240). -/
  | tableCopyWrite (core : Nat)
  /-- SELECTION_UNIT_RUN: The selection unit performs the next kapp, ksum or ksel (R265). -/
  | selectionUnitRun (cluster : Nat)
  /-- ATTENTION_ENGINE_RUN: The attention engine processes a request tile by tile and key block by key block (R279). -/
  | attentionEngineRun (cluster : Nat)
  /-- HOLD: A hold entry reaching both queues' heads gives the engine both arrays (R284). -/
  | hold (cluster : Nat)
  /-- CHAIN_PREFETCH: The chain prefetcher translates, promotes and fills the next pages (R284). -/
  | chainPrefetch (cluster ahead : Nat)
  /-- PAGE_MOVE: Moves a page between tiers with an optional tag check (R332). -/
  | pageMove (unit : EngineUnit)
  /-- RATE_UPDATE: Each microsecond the refill rate moves toward TARGET (R256). -/
  | rateUpdate (cluster : Nat)
  /-- RAIL_SWITCH: A cluster switches rail, after its dwell, within 16 ns (R260). -/
  | railSwitch (cluster rail : Nat)
  /-- TABLE_WALK: A walker translates a missed address through three table levels (R289). -/
  | tableWalk (core ctx : Nat) (va : BitVec 64)
  /-- PLACEMENT: The work distributor places a caravan whole on a fitting core (R298). -/
  | placement (die place : Nat)
  /-- TOKEN_REFILL: Each microsecond a context's bandwidth balance gains B tokens (R299). -/
  | tokenRefill (die ctx : Nat)
  /-- MAILBOX_POST: The part claims a mailbox slot, waits for room and writes a report (R312). -/
  | mailboxPost (ctx : Nat)
  /-- SAMPLE_ROW: Every INTERVAL ticks the sampler writes a row of counters (R322). -/
  | sampleRow (cluster : Nat) (timed : List Nat)
  /-- TAGGED_RECORD: A tagged instruction's record is written after write-back (R323). -/
  | taggedRecord (cluster level : Nat) (cycles : List Nat)
  /-- DOORBELL: A doorbell message makes the front end read a queue's TAIL (R375). -/
  | doorbell (ctx : Nat) (message : BitVec 64)
  /-- NOP: A NOP packet completes at once (R342). -/
  | nop (queue : Nat)
  /-- LAUNCH: A LAUNCH packet checks a launch record and starts a launch (R342). -/
  | launch (queue : Nat)
  /-- COPY: A COPY packet copies bytes through the homes (R342). -/
  | copy (queue : Nat)
  /-- SIGNAL: A SIGNAL packet stores a value with system release (R342). -/
  | signal (queue : Nat)
  /-- CTXLOAD: Loads a context from its context record (R343). -/
  | ctxload (queue : Nat)
  /-- CTXFREE: Frees a context that holds no caravan (R343). -/
  | ctxfree (queue : Nat)
  /-- QBIND: Binds a host queue to a context and sets its weight (R343). -/
  | qbind (queue : Nat)
  /-- PARTITION: Assigns clusters and a world to a partition (R343). -/
  | partition (queue : Nat)
  /-- TQBIND: Binds a task queue with its ring and template (R351). -/
  | tqbind (queue : Nat)
  /-- TQFLUSH: Dispatches a task queue's partial warp at once (R343). -/
  | tqflush (queue : Nat)
  /-- TQUNBIND: Unbinds an empty task queue (R343). -/
  | tqunbind (queue : Nat)
  /-- RESOLVE: Answers a fault entry with RETRY or FAIL for its waiters (R297). -/
  | resolve (queue : Nat)
  /-- PREEMPT: Raises a partition's halt line and saves its caravans (R357). -/
  | preempt (queue : Nat)
  /-- RESUME: Restores a partition's caravans and lowers its halt line (R359). -/
  | resume (queue : Nat)
  /-- ATTACH: Attaches or detaches a debug context to a target (R343). -/
  | attach (queue : Nat)
  /-- ABORT: Ends one launch, terminating and discarding its caravans (R360). -/
  | abort (queue : Nat)
  /-- LAUNCH_COMPLETE: A launch's spawn-tree counter returns to zero and its completion word is written (R345). -/
  | launchComplete (launch : Nat)
  /-- ARBITER_VISIT: The deficit arbiter visits the next active queue and may hand over a caravan (R346). -/
  | arbiterVisit (die : Nat)
  /-- DISPATCH: A task queue's dispatcher launches a warp of head tasks (R354). -/
  | dispatch (taskQueue : Nat)
  /-- ENGINE_STOP: An engine finishes its unit of work after the halt line and writes a stop record (R357). -/
  | engineStop (unit : EngineUnit) (amount : Nat)
  /-- POWER_ON: The boot ROM trains memory, makes the page key and verifies firmware (R365). -/
  | powerOn (input : PowerOnInput)
  /-- SUPPLY_VOLTAGE_FAULT: Supply voltage out of window for 1 us raises alarm level 2 (R363). -/
  | supplyVoltageFault (duration : Nat)
  /-- CLOCK_GLITCH: The glitch detector raises alarm level 2 (R363). -/
  | clockGlitch
  /-- TAMPER: The tamper mesh opens or a sensor fails self-test, raising alarm level 3 (R363). -/
  | tamper
  /-- QUOTE_REQUEST: A write of 1 to REQ makes the security processor sign a quote (R368). -/
  | quoteRequest (nonce : BitVec 256)
  /-- FEAT_ACCEPT_WRITE: The one write of FEAT_ACCEPT is masked, stored and measured (R370). -/
  | featAcceptWrite (mask : BitVec 128)
  /-- HEADROOM_UPDATE: Every 100 us the power manager sets each context's headroom bit (R372). -/
  | headroomUpdate (total : Nat) (loads : List (Nat × Nat))
  /-- PUT: A remote write is applied at the homes and acknowledged (R374). -/
  | put (secure : Bool) (ctx : Nat) (va : BitVec 64) (bytes : List (BitVec 8))
  /-- GET: A remote read is served fresh at the homes (R374). -/
  | get (secure : Bool) (ctx : Nat) (va : BitVec 64) (length : Nat)
  /-- UNRELIABLE_PACKET: An unreliable unordered delivery packet is dropped and counted (R373). -/
  | unreliablePacket
  /-- CONTRIBUTION_ARRIVAL: A contribution reaches a router, which combines once all are present (R378). -/
  | contributionArrival (partition convoy child seq : Nat) (c : ContributionPacket)
  /-- COLLECTIVE_RESULT: A collective's result reaches a member and is written (R384). -/
  | collectiveResult (partition convoy : Nat) (arrival : CollectiveArrival)
  /-- PEER_TABLE_WRITE: The driver writes a peer entry through the management exchange (R376). -/
  | peerTableWrite (partition index : Nat) (words : List (BitVec 32))
  /-- CONVOY_TABLE_WRITE: The driver writes a convoy entry through the management exchange (R377). -/
  | convoyTableWrite (partition index : Nat) (words : List (BitVec 32))
  /-- CAP_WRITE: A write to CAP clamps every context's bucket level (R254). -/
  | capWrite (cluster : Nat) (value : BitVec 32)
  /-- POWER_BLOCK_WRITE: A firmware write to another cluster power block register (R254). -/
  | powerBlockWrite (cluster register : Nat) (value : BitVec 32)
  /-- PEER_DOWN: No port reaches a peer any longer; its transport operations wait and the firmware reports the peer as down (R373). -/
  | peerDown (partition peer : Nat)
  /-- PEER_RETURN: A peer that was down becomes reachable again, and the transport operations waiting on it go on (R373). -/
  | peerReturn (partition peer : Nat)
  /-- FABRIC_ENGINE_RUN: The cluster's fabric engine performs queued fput, fget and fcoll transfers and takes in the peer's acknowledgements and get responses (R382). -/
  | fabricEngineRun (cluster place : Nat) (reply : FabricReply)
  /-- RESTART: A restart of the package resets device time and the per-boot key, lowers the alarm and reruns start (R363). -/
  | restart (input : PowerOnInput)
  deriving DecidableEq, Repr

end Sys2Proof
end

