-- ==== Sys2Proof/Decode.lean ====
section
/-! DEFINITION. The decoder and the encoder: the formats of R25 and R26, the opcode map of R37 and R38, and the
static field rules that make a word an illegal instruction (R26, R29, R31, R32, R33, R115 and each entry). -/

namespace Sys2Proof

/-- Why a word is no instruction. Every one of these is the trap *illegal instruction* where the words are fetched. -/
inductive Reject
  /-- OP is reserved in R37 or R38. -/
  | reservedOp
  /-- FN, AOP or a kind field lies beyond the last value the map gives its OP (R38, R33). -/
  | reservedFn
  /-- A field the instruction does not use is nonzero, or a field has a value its entry forbids (R26). -/
  | badField
  /-- The bytes end before the instruction does. -/
  | truncated
  deriving DecidableEq, Repr

/-- A word or pair of words cut into the fields of its format (R25, R26). -/
inductive Raw
  | s (op : BitVec 7) (sd sa : BitVec 6) (i : BitVec 1) (lo : BitVec 12)
  | b (op : BitVec 7) (sa : BitVec 6) (off : BitVec 19)
  | l (op : BitVec 7) (sd : BitVec 6) (zero : BitVec 19) (imm : BitVec 32)
  | v (op : BitVec 7) (fn : BitVec 6) (f : VForm)
  | m (op : BitVec 7) (f : MForm) (zero : BitVec 2)
  | a (op : BitVec 7) (aop : BitVec 4) (f : AForm) (zero : BitVec 2)
  | x (op : BitVec 7) (fn : BitVec 7) (f : XForm) (zhi : BitVec 4) (zlo : BitVec 13)
  | e (op : BitVec 7) (fn : BitVec 7) (f : EForm)
  | r (op : BitVec 7) (pred : BitVec 4) (neg : BitVec 1) (zero : BitVec 20) (target reconv : BitVec 16)
  deriving DecidableEq, Repr

/-- The OP field of a first word. -/
def opOf (w0 : Word) : BitVec 7 := w0.extractLsb' 25 7

/-- How many words an instruction with this first word has (R21): one for OP 0x00 to 0x3F, else two. -/
def wordCount (w0 : Word) : Nat := if (opOf w0).toNat < 0x40 then 1 else 2

def parseS (w0 : Word) : Raw :=
  .s (opOf w0) (w0.extractLsb' 19 6) (w0.extractLsb' 13 6) (w0.extractLsb' 12 1) (w0.extractLsb' 0 12)

def parseB (w0 : Word) : Raw := .b (opOf w0) (w0.extractLsb' 19 6) (w0.extractLsb' 0 19)

def parseL (w0 w1 : Word) : Raw := .l (opOf w0) (w0.extractLsb' 19 6) (w0.extractLsb' 0 19) w1

def parseV (w0 w1 : Word) : Raw :=
  .v (opOf w0) (w0.extractLsb' 0 6)
    { ty := w0.extractLsb' 22 3, vd := w0.extractLsb' 14 8, va := w0.extractLsb' 6 8,
      vb := w1.extractLsb' 24 8, perm := w1.extractLsb' 20 4, ppar := w1.extractLsb' 13 7,
      sb := w1.extractLsb' 7 6, pred := w1.extractLsb' 3 4, pneg := w1.extractLsb' 2 1, rm := w1.extractLsb' 0 2 }

def parseM (w0 w1 : Word) : Raw :=
  .m (opOf w0)
    { sz := w0.extractLsb' 22 3, vd := w0.extractLsb' 14 8, sbase := w0.extractLsb' 8 6,
      path := w0.extractLsb' 6 2, qual := w0.extractLsb' 0 6, vidx := w1.extractLsb' 24 8,
      off := w1.extractLsb' 7 17, pred := w1.extractLsb' 3 4, pneg := w1.extractLsb' 2 1 }
    (w1.extractLsb' 0 2)

def parseA (w0 w1 : Word) : Raw :=
  .a (opOf w0) (w1.extractLsb' 20 4)
    { sz := w0.extractLsb' 22 3, vd := w0.extractLsb' 14 8, sbase := w0.extractLsb' 8 6,
      path := w0.extractLsb' 6 2, qual := w0.extractLsb' 0 6, vidx := w1.extractLsb' 24 8,
      off := w1.extractLsb' 7 13, pred := w1.extractLsb' 3 4, pneg := w1.extractLsb' 2 1 }
    (w1.extractLsb' 0 2)

def parseX (w0 w1 : Word) : Raw :=
  .x (opOf w0) (w0.extractLsb' 0 7)
    { sa := w0.extractLsb' 19 6, sb := w0.extractLsb' 13 6, sc := w0.extractLsb' 7 6,
      sf := w1.extractLsb' 26 6, ss := w1.extractLsb' 20 6, pair := w1.extractLsb' 15 1,
      zero := w1.extractLsb' 14 1, cmp := w1.extractLsb' 13 1 }
    (w1.extractLsb' 16 4) (w1.extractLsb' 0 13)

def parseE (w0 w1 : Word) : Raw :=
  .e (opOf w0) (w0.extractLsb' 0 7)
    { sa := w0.extractLsb' 19 6, sb := w0.extractLsb' 13 6, sc := w0.extractLsb' 7 6, imm := w1 }

def parseR (w0 w1 : Word) : Raw :=
  .r (opOf w0) (w0.extractLsb' 21 4) (w0.extractLsb' 20 1) (w0.extractLsb' 0 20)
    (w1.extractLsb' 16 16) (w1.extractLsb' 0 16)

/-- The format of an OP (the Fmt column of R37 and R38), applied to the words. -/
def parse (w0 w1 : Word) : Raw :=
  let op := (opOf w0).toNat
  if op < 0x20 then parseS w0
  else if op < 0x24 then parseB w0
  else if op < 0x40 then parseS w0
  else if op = 0x40 then parseL w0 w1
  else if op = 0x4E then parseR w0 w1
  else if op < 0x51 then parseV w0 w1
  else if op < 0x55 then parseM w0 w1
  else if op < 0x57 then parseA w0 w1
  else if op < 0x59 then parseM w0 w1
  else if op < 0x60 then parseE w0 w1
  else if op < 0x64 then parseX w0 w1
  else if op < 0x67 then parseV w0 w1
  else if op < 0x6F then parseE w0 w1
  else if op < 0x71 then parseV w0 w1
  else parseE w0 w1

/-- The words of a cut instruction: each format of R25 and R26 put together again, most significant field first. -/
def Raw.words : Raw → List Word
  | .s op sd sa i lo => [op ++ sd ++ sa ++ i ++ lo]
  | .b op sa off => [op ++ sa ++ off]
  | .l op sd zero imm => [op ++ sd ++ zero, imm]
  | .v op fn f => [op ++ f.ty ++ f.vd ++ f.va ++ fn,
      f.vb ++ f.perm ++ f.ppar ++ f.sb ++ f.pred ++ f.pneg ++ f.rm]
  | .m op f zero => [op ++ f.sz ++ f.vd ++ f.sbase ++ f.path ++ f.qual,
      f.vidx ++ f.off ++ f.pred ++ f.pneg ++ zero]
  | .a op aop f zero => [op ++ f.sz ++ f.vd ++ f.sbase ++ f.path ++ f.qual,
      f.vidx ++ aop ++ f.off ++ f.pred ++ f.pneg ++ zero]
  | .x op fn f zhi zlo => [op ++ f.sa ++ f.sb ++ f.sc ++ fn,
      f.sf ++ f.ss ++ zhi ++ f.pair ++ f.zero ++ f.cmp ++ zlo]
  | .e op fn f => [op ++ f.sa ++ f.sb ++ f.sc ++ fn, f.imm]
  | .r op pred neg zero target reconv => [op ++ pred ++ neg ++ zero, target ++ reconv]


/-! ### Which words are no instruction -/

/-- The one-word instructions of format S (R37): a field the table does not give the instruction must be zero, and
I is 1 exactly where the entry takes an immediate or a field word. -/
def legalS (op : Nat) (sd sa : BitVec 6) (i : BitVec 1) (lo : BitVec 12) : Bool :=
  if op ≤ 0x19 || op == 0x1D then i == 1 || lo.extractLsb' 6 6 == 0
  else if op ≤ 0x1C then i == 0 && lo == 0
  else match op with
    | 0x1E => i == 1 && sa == 0
    | 0x1F => i == 1 && sd == 0
    | 0x25 | 0x29 | 0x2D | 0x31 => i == 0 && sd == 0 && lo == 0
    | 0x28 => i == 1 && sd == 0 && sa == 0 && lo.extractLsb' 4 8 == 0 && lo.extractLsb' 2 2 != 3
    | 0x2A | 0x2F | 0x35 | 0x36 | 0x3D => i == 1 && sd == 0 && sa == 0
    | 0x2C => i == 1 && sd == 0 && sa == 0 && lo.extractLsb' 1 11 == 0
    | 0x2E => i == 1 && sd == 0 && sa == 0 && lo.extractLsb' 2 10 == 0
    | 0x30 => i == 1 && sd == 0 && sa == 0 && lo.extractLsb' 7 5 == 0
        && ((lo.extractLsb' 2 2 == 3) != (lo.extractLsb' 4 3 == 0))
    | 0x32 | 0x33 | 0x34 | 0x3C => i == 0 && sa == 0 && lo == 0
    | 0x37 => i == 1 && sa == 0
    | 0x38 => i == 1 && sd == 0
    | 0x39 | 0x3A => i == 1
    | _ => i == 0 && sd == 0 && sa == 0 && lo == 0

/-! ### Field rules: which field values make a V-, M-, X- or E-format word an illegal instruction -/

/-- The TY field is one of those the group accepts (R115, R38). -/
def tyIn (f : VForm) (tys : List Nat) : Bool := tys.contains f.ty.toNat

/-- RM is zero, as it must be where the instruction does not round (R31). -/
def rmZero (f : VForm) : Bool := f.rm == 0

/-- SB is used only where VA or VB is the broadcast code 0x7F, and is zero elsewhere (R26, R28). -/
def sbIfBroadcast (f : VForm) : Bool := f.va == 0x7F || f.vb == 0x7F || f.sb == 0

/-- A V-format instruction whose SB is only the broadcast operand: TY in `tys`, RM zero unless `rounds`. -/
def legalV (f : VForm) (tys : List Nat) (rounds : Bool) : Bool :=
  tyIn f tys && (rounds || rmZero f) && sbIfBroadcast f

/-- A compare (group 0x44): VD[7:3] is zero (R32). -/
def legalCompare (f : VForm) (tys : List Nat) : Bool := legalV f tys false && f.vd.extractLsb' 3 5 == 0

/-- A reduction to a scalar, or `vrdl`: VD[7:6] is zero (R32). -/
def legalToScalar (f : VForm) (tys : List Nat) (rounds : Bool) : Bool :=
  legalV f tys rounds && f.vd.extractLsb' 6 2 == 0

/-- A predicate operation (R136, R32): TY and RM zero, source predicates in VA[2:0] and VB[2:0], the fields it
does not use zero. -/
def legalPredicate (f : VForm) (toPredicate usesVa usesVb usesSb : Bool) : Bool :=
  tyIn f [0] && rmZero f
    && (if toPredicate then f.vd.extractLsb' 3 5 == 0 else f.vd.extractLsb' 6 2 == 0)
    && (if usesVa then f.va.extractLsb' 3 5 == 0 else f.va == 0)
    && (if usesVb then f.vb.extractLsb' 3 5 == 0 else f.vb == 0)
    && (usesSb || f.sb == 0)

/-- An accumulator access (R38): TY is 2, RM is 0, and SB names the descriptor pair. -/
def legalAcc (f : VForm) : Bool := tyIn f [2] && rmZero f

/-- `qpush` and `qpop` (R352): the fields their entry marks zero are zero, and VB, which it gives as 0x7C, is 0x7C (assumption
log 18). -/
def legalQueue (f : VForm) : Bool :=
  tyIn f [0] && rmZero f && f.vb == 0x7C && f.perm == 0 && f.ppar == 0 && f.vd.extractLsb' 3 5 == 0

/-- The integer types of R17 and R39: i32, n32, i16, i8, n8. -/
def isIntFormat (n : Nat) : Bool := n == 0 || n == 1 || n == 5 || n == 6 || n == 7

/-- `vcvt` (R39, R124): a defined destination, stochastic only into a float format with RM 0, and RM 0 when
both formats are integer. -/
def legalVcvt (fn : BitVec 6) (f : VForm) : Bool :=
  let dst := (fn.extractLsb' 0 4).toNat
  let stochastic := fn.extractLsb' 5 1 == 1
  dst ≤ 11 && !(stochastic && isIntFormat dst) && !(stochastic && f.rm != 0)
    && !(isIntFormat dst && isIntFormat f.ty.toNat && f.rm != 0) && sbIfBroadcast f

/-- The qualifier bits of QUAL (R33). -/
def qualFresh (q : BitVec 6) : Bool := q.getLsbD 0
def qualAcq (q : BitVec 6) : Bool := q.getLsbD 1
def qualRel (q : BitVec 6) : Bool := q.getLsbD 2
def qualStream (q : BitVec 6) : Bool := q.getLsbD 3
def qualScope (q : BitVec 6) : BitVec 2 := q.extractLsb' 4 2

/-- QUAL holds only the qualifiers given, and a scope only beside `.acq` or `.rel` (R33, R138). -/
def legalQual (q : BitVec 6) (fresh acq rel stream : Bool) : Bool :=
  (fresh || !qualFresh q) && (acq || !qualAcq q) && (rel || !qualRel q) && (stream || !qualStream q)
    && (qualAcq q || qualRel q || qualScope q == 0)

/-- The accesses of R138, by instruction: SZ, PATH and QUAL, and VD of `pref`. -/
def legalLd (f : MForm) : Bool :=
  f.sz != 7 && f.path != 3 && legalQual f.qual (f.path == 0) (f.path == 0) false true
def legalSt (f : MForm) : Bool := f.sz != 7 && f.path == 0 && legalQual f.qual false false true true
def legalLds (f : MForm) : Bool := f.sz != 7 && f.path == 0 && legalQual f.qual false true false false
def legalSts (f : MForm) : Bool := f.sz != 7 && f.path == 0 && legalQual f.qual false false true false
def legalMon (f : MForm) : Bool := f.sz == 4 && f.path == 0 && f.qual == 0
def legalPref (f : MForm) : Bool :=
  f.sz == 0 && f.vd == 0x7C && f.path != 3 && legalQual f.qual false false false true

/-- An atomic (R138, R152): SZ 4, or 5 except for the float forms, and `.acq` with `.rel` only on `atom`. -/
def legalAtom (f : AForm) (wide inMemory : Bool) : Bool :=
  (f.sz == 4 || (wide && f.sz == 5)) && f.path == 0 && legalQual f.qual false true true false
    && (inMemory || !(qualAcq f.qual && qualRel f.qual))

/-- Zero-field rules of the E format: which of SA, SB and SC the entry uses, and which bits of word 1. -/
def legalE (f : EForm) (sa sb sc : Bool) (immMask : BitVec 32) : Bool :=
  (sa || f.sa == 0) && (sb || f.sb == 0) && (sc || f.sc == 0) && f.imm &&& ~~~immMask == 0

/-- The register selector of `dbg.rdreg` and `dbg.wrreg` (R315). -/
def legalSelector (s : BitVec 32) : Bool :=
  match (s.extractLsb' 0 3).toNat with
  | 0 => s &&& ~~~0x3F7#32 == 0
  | 1 => s &&& ~~~0x7F07F7#32 == 0 && (s.extractLsb' 4 7).toNat < 120 && (s.extractLsb' 16 7).toNat < 96
  | 2 => s &&& ~~~0x30077#32 == 0 && (s.extractLsb' 4 3).toNat < 7 && (s.extractLsb' 16 2).toNat < 3
  | 3 => s &&& ~~~0xFFF7#32 == 0
  | 4 => s &&& ~~~0x33FF7#32 == 0
  | 5 => s &&& ~~~0x1FF0FF7#32 == 0 && (s.extractLsb' 16 7).toNat < 96 && (s.extractLsb' 23 2).toNat < 3
  | _ => false



/-- How many FN values the map gives a V-format OP (R38); `vcvt` uses FN as fields. -/
def vFnCount : Nat → Nat
  | 0x41 => 11
  | 0x42 => 13
  | 0x43 => 10
  | 0x44 => 8
  | 0x45 => 64
  | 0x46 => 8
  | 0x47 => 8
  | 0x48 => 8
  | 0x49 => 6
  | 0x4a => 9
  | 0x4b => 6
  | 0x4c => 3
  | 0x4d => 8
  | 0x4f => 2
  | 0x50 => 1
  | 0x64 => 1
  | 0x65 => 1
  | 0x66 => 5
  | 0x6f => 1
  | 0x70 => 1
  | _ => 0

/-- How many FN values the map gives an E-format OP (R38). -/
def eFnCount : Nat → Nat
  | 0x59 => 4
  | 0x5a => 2
  | 0x5b => 2
  | 0x5c => 1
  | 0x67 => 8
  | 0x68 => 8
  | 0x69 => 1
  | 0x6a => 1
  | 0x6b => 1
  | 0x6c => 1
  | 0x6d => 1
  | 0x6e => 1
  | 0x71 => 1
  | 0x72 => 1
  | 0x73 => 5
  | 0x74 => 9
  | 0x75 => 4
  | 0x76 => 3
  | 0x77 => 2
  | _ => 0

/-- The V-format field rules by OP and FN (R115, R131, R136, R39, R221, R222, R258, R352). -/
def legalVOp (op : Nat) (fn : BitVec 6) (f : VForm) : Bool :=
  let n := fn.toNat
  match op with
  | 0x41 => legalV f (if n == 7 || n == 8 then [0, 5, 6] else [0, 1, 5, 6, 7]) false
  | 0x42 => legalV f [0] false
  | 0x43 => legalV f [2, 3, 4] (n < 5 || n == 9)
  | 0x44 => legalCompare f (if n == 6 || n == 7 then [2] else [0, 1, 2])
  | 0x45 => legalVcvt fn f
  | 0x46 => legalV f [2] true
  | 0x47 => legalV f [2] (n == 4)
  | 0x48 => legalV f [2] false
  | 0x49 =>
    if n == 3 then legalToScalar f [0] false
    else legalV f [0] false
  | 0x4A =>
    if n < 3 then legalToScalar f [0, 1] false
    else if n < 6 then legalToScalar f [0] false
    else legalToScalar f [2] (n == 6)
  | 0x4B => if n == 4 then legalV f [0, 1] false else if n == 5 then legalV f [2] true else legalV f [0] false
  | 0x4C => legalV f [0] false
  | 0x4D =>
    if n < 3 then legalPredicate f true true true false
    else if n == 3 then legalPredicate f true true false false
    else if n == 4 then legalPredicate f true false false true
    else legalPredicate f false true false false
  | 0x4F => legalV f [7] false
  | 0x50 => legalV f [0] false
  | 0x64 | 0x65 | 0x66 => legalAcc f
  | 0x6F | 0x70 => legalQueue f
  | _ => false

/-- The M-format field rules by OP (R138). -/
def legalMOp (op : Nat) (f : MForm) : Bool :=
  match op with
  | 0x51 => legalLd f
  | 0x52 => legalSt f
  | 0x53 => legalLds f
  | 0x54 => legalSts f
  | 0x57 => legalMon f
  | 0x58 => legalPref f
  | _ => false

/-- The E-format field rules by OP and FN: the fields each entry uses. -/
def legalEOp (op : Nat) (fn : BitVec 7) (f : EForm) : Bool :=
  match op, fn.toNat with
  | 0x59, _ | 0x5A, _ | 0x71, _ | 0x72, _ => true
  | 0x5B, _ | 0x67, _ | 0x6A, _ | 0x6B, _ | 0x6D, _ | 0x73, _ => legalE f true false false 0xFFFFFFFF
  | 0x5C, _ => legalE f true true true 0x3FFFF
  | 0x68, _ | 0x6E, _ => legalE f false false false 0
  | 0x69, _ | 0x6C, _ => legalE f true true false 0xFFFFFFFF
  | 0x74, 0 | 0x74, 1 => legalE f true false true 0xFFF
  | 0x74, 2 | 0x74, 3 => legalE f true false true 1 && (f.imm == 0 || f.sa == 0)
  | 0x74, 4 => legalE f true false true 0xFF && (f.imm.extractLsb' 0 7).toNat < 96
  | 0x74, 5 => legalE f true true true 0xF
  | 0x74, 6 => legalE f true false true 3
  | 0x74, 7 => legalE f true false true 0xFFFFFFFF && legalSelector f.imm
  | 0x74, 8 => legalSelector f.imm
  | 0x75, 0 => legalE f true true true 1 && (f.imm == 0 || f.sb == 0)
  | 0x75, 1 | 0x75, 2 => legalE f false true true 1 && (f.imm == 0 || f.sb == 0)
  | 0x75, 3 => legalE f false true false 0xFFFFFFFF
  | 0x76, 0 => legalE f true false true 0
  | 0x76, 1 | 0x76, 2 => legalE f false false true 0
  | 0x77, 0 => legalE f true true false 1 && (f.imm == 0 || (f.sa == 0 && f.sb == 0))
  | 0x77, 1 => legalE f true false false 3
  | _, _ => false

/-- `none` where the test holds, and otherwise a field with a forbidden value. -/
def badUnless (ok : Bool) : Option Reject := if ok then none else some .badField

/-- Why the fields stand for no instruction, or none where they stand for one (R37, R38, R41). -/
def Raw.reject : Raw → Option Reject
  | .s op sd sa i lo =>
    if op.toNat = 0 ∨ op.toNat ≥ 0x3E then some .reservedOp else badUnless (legalS op.toNat sd sa i lo)
  | .b op sa _ => badUnless (op == 0x21 || op == 0x22 || sa == 0)
  | .l _ _ zero _ => badUnless (zero == 0)
  | .v op fn f =>
    if fn.toNat ≥ vFnCount op.toNat then some .reservedFn else badUnless (legalVOp op.toNat fn f)
  | .m op f zero => badUnless (zero == 0 && legalMOp op.toNat f)
  | .a op aop f zero =>
    if aop.toNat ≥ 13 then some .reservedFn
    else badUnless (zero == 0 && legalAtom f (aop.toNat < 11) (op == 0x55))
  | .x op fn f zhi zlo =>
    if op.toNat > 0x63 then some .reservedOp
    else if (if op.toNat < 0x62 then fn else fn >>> 1) != 0 then some .reservedFn
    else badUnless (zhi == 0 && zlo == 0 && (op == 0x61 || f.ss == 0) && (op.toNat < 0x62 || f.zero == 0))
  | .e op fn f =>
    if eFnCount op.toNat = 0 then some .reservedOp
    else if fn.toNat ≥ eFnCount op.toNat then some .reservedFn
    else badUnless (legalEOp op.toNat fn f)
  | .r _ _ _ zero _ _ => badUnless (zero == 0)


/-! ### From the fields to the instruction -/

/-- The instruction of a one-word S-format word that `Raw.reject` lets pass (R37). -/
noncomputable def sInstr (op : Nat) (sd sa : BitVec 6) (i : BitVec 1) (lo : BitVec 12) : Instr :=
  match op with
  | 0x01 => if i = 1 then .addImm sd sa lo else .addReg sd sa (lo.extractLsb' 0 6)
  | 0x02 => if i = 1 then .subImm sd sa lo else .subReg sd sa (lo.extractLsb' 0 6)
  | 0x03 => if i = 1 then .mulImm sd sa lo else .mulReg sd sa (lo.extractLsb' 0 6)
  | 0x04 => if i = 1 then .mulhsImm sd sa lo else .mulhsReg sd sa (lo.extractLsb' 0 6)
  | 0x05 => if i = 1 then .mulhuImm sd sa lo else .mulhuReg sd sa (lo.extractLsb' 0 6)
  | 0x06 => if i = 1 then .divsImm sd sa lo else .divsReg sd sa (lo.extractLsb' 0 6)
  | 0x07 => if i = 1 then .divuImm sd sa lo else .divuReg sd sa (lo.extractLsb' 0 6)
  | 0x08 => if i = 1 then .remsImm sd sa lo else .remsReg sd sa (lo.extractLsb' 0 6)
  | 0x09 => if i = 1 then .remuImm sd sa lo else .remuReg sd sa (lo.extractLsb' 0 6)
  | 0x0a => if i = 1 then .andImm sd sa lo else .andReg sd sa (lo.extractLsb' 0 6)
  | 0x0b => if i = 1 then .orImm sd sa lo else .orReg sd sa (lo.extractLsb' 0 6)
  | 0x0c => if i = 1 then .xorImm sd sa lo else .xorReg sd sa (lo.extractLsb' 0 6)
  | 0x0d => if i = 1 then .andnImm sd sa lo else .andnReg sd sa (lo.extractLsb' 0 6)
  | 0x0e => if i = 1 then .shlImm sd sa lo else .shlReg sd sa (lo.extractLsb' 0 6)
  | 0x0f => if i = 1 then .shrImm sd sa lo else .shrReg sd sa (lo.extractLsb' 0 6)
  | 0x10 => if i = 1 then .sarImm sd sa lo else .sarReg sd sa (lo.extractLsb' 0 6)
  | 0x11 => if i = 1 then .rolImm sd sa lo else .rolReg sd sa (lo.extractLsb' 0 6)
  | 0x12 => if i = 1 then .minImm sd sa lo else .minReg sd sa (lo.extractLsb' 0 6)
  | 0x13 => if i = 1 then .maxImm sd sa lo else .maxReg sd sa (lo.extractLsb' 0 6)
  | 0x14 => if i = 1 then .minuImm sd sa lo else .minuReg sd sa (lo.extractLsb' 0 6)
  | 0x15 => if i = 1 then .maxuImm sd sa lo else .maxuReg sd sa (lo.extractLsb' 0 6)
  | 0x16 => if i = 1 then .sltImm sd sa lo else .sltReg sd sa (lo.extractLsb' 0 6)
  | 0x17 => if i = 1 then .sltuImm sd sa lo else .sltuReg sd sa (lo.extractLsb' 0 6)
  | 0x18 => if i = 1 then .seqImm sd sa lo else .seqReg sd sa (lo.extractLsb' 0 6)
  | 0x19 => if i = 1 then .sneImm sd sa lo else .sneReg sd sa (lo.extractLsb' 0 6)
  | 0x1d => if i = 1 then .addpImm sd sa lo else .addpReg sd sa (lo.extractLsb' 0 6)
  | 0x1a => .clz sd sa
  | 0x1b => .popc sd sa
  | 0x1c => .brev sd sa
  | 0x1E => .rdsr sd lo
  | 0x1F => .wrsr sa lo
  | 0x24 => .ret
  | 0x25 => .jmpr sa
  | 0x26 => .rcv
  | 0x27 => .exit
  | 0x28 =>
    if lo.extractLsb' 2 2 = 0 then .bar (lo.extractLsb' 0 2)
    else if lo.extractLsb' 2 2 = 1 then .barArrive (lo.extractLsb' 0 2)
    else .barWait (lo.extractLsb' 0 2)
  | 0x29 => .waitm sa
  | 0x2A => .trap lo
  | 0x2B => .tret
  | 0x2C => .tmsk (lo.extractLsb' 0 1)
  | 0x2D => .settmr sa
  | 0x2E => .perf (lo.extractLsb' 0 2)
  | 0x2F => .brk lo
  | 0x30 =>
    if lo.extractLsb' 2 2 = 0 then .fenceRel (lo.extractLsb' 0 2)
    else if lo.extractLsb' 2 2 = 1 then .fenceAcq (lo.extractLsb' 0 2)
    else if lo.extractLsb' 2 2 = 2 then .fenceFull (lo.extractLsb' 0 2)
    else .fencePath (lo.extractLsb' 0 2) (lo.extractLsb' 4 3)
  | 0x31 => .mwait sa
  | 0x32 => .mfence sd
  | 0x33 => .evpop sd
  | 0x34 => .evwait sd
  | 0x35 => .vgrow lo
  | 0x36 => .vshrk lo
  | 0x37 => .crd sd lo
  | 0x38 => .cwr sa lo
  | 0x39 => .cadd sd sa lo
  | 0x3A => .ccas sd sa lo
  | 0x3B => .yield
  | 0x3C => .clk sd
  | 0x3D => .hrel lo
  | _ => .ret

/-- The branch of a B-format word (R37). -/
noncomputable def bInstr (op : Nat) (sa : BitVec 6) (off : BitVec 19) : Instr :=
  match op with
  | 0x20 => .bra off
  | 0x21 => .bz sa off
  | 0x22 => .bnz sa off
  | _ => .call off

/-- The V-format instruction of an OP and FN (R38). -/
noncomputable def vInstr (op : Nat) (fn : BitVec 6) (f : VForm) : Instr :=
  match op, fn.toNat with
  | 0x41, 0 => .vaddInteger f
  | 0x41, 1 => .vsubInteger f
  | 0x41, 2 => .vmulInteger f
  | 0x41, 3 => .vmulh f
  | 0x41, 4 => .vmad f
  | 0x41, 5 => .vminInteger f
  | 0x41, 6 => .vmaxInteger f
  | 0x41, 7 => .vabsInteger f
  | 0x41, 8 => .vnegInteger f
  | 0x41, 9 => .vadds f
  | 0x41, 10 => .vsubs f
  | 0x42, 0 => .vand f
  | 0x42, 1 => .vor f
  | 0x42, 2 => .vxor f
  | 0x42, 3 => .vandn f
  | 0x42, 4 => .vnot f
  | 0x42, 5 => .vshl f
  | 0x42, 6 => .vshr f
  | 0x42, 7 => .vsar f
  | 0x42, 8 => .vrol f
  | 0x42, 9 => .vclz f
  | 0x42, 10 => .vpopc f
  | 0x42, 11 => .vbrev f
  | 0x42, 12 => .vbfe f
  | 0x43, 0 => .vaddFloat f
  | 0x43, 1 => .vsubFloat f
  | 0x43, 2 => .vmulFloat f
  | 0x43, 3 => .vfma f
  | 0x43, 4 => .vfms f
  | 0x43, 5 => .vminFloat f
  | 0x43, 6 => .vmaxFloat f
  | 0x43, 7 => .vabsFloat f
  | 0x43, 8 => .vnegFloat f
  | 0x43, 9 => .vrnd f
  | 0x44, 0 => .vceq f
  | 0x44, 1 => .vcne f
  | 0x44, 2 => .vclt f
  | 0x44, 3 => .vcle f
  | 0x44, 4 => .vcgt f
  | 0x44, 5 => .vcge f
  | 0x44, 6 => .vcord f
  | 0x44, 7 => .vcuno f
  | 0x45, _ => .vcvt fn f
  | 0x46, 0 => .vqblkE4 f
  | 0x46, 1 => .vqblkE5 f
  | 0x46, 2 => .vqblkF4 f
  | 0x46, 3 => .vqblkLg f
  | 0x46, 4 => .vdqblkE4 f
  | 0x46, 5 => .vdqblkE5 f
  | 0x46, 6 => .vdqblkF4 f
  | 0x46, 7 => .vdqblkLg f
  | 0x47, 0 => .vexp2 f
  | 0x47, 1 => .vlog2 f
  | 0x47, 2 => .vrcp f
  | 0x47, 3 => .vrsqrt f
  | 0x47, 4 => .vsqrt f
  | 0x47, 5 => .vsin f
  | 0x47, 6 => .vcos f
  | 0x47, 7 => .vtanh f
  | 0x48, _ => .vtbl (fn.extractLsb' 0 3) f
  | 0x49, 0 => .vmov f
  | 0x49, 1 => .vsel f
  | 0x49, 2 => .vbcast f
  | 0x49, 3 => .vrdl f
  | 0x49, 4 => .vwrl f
  | 0x49, 5 => .viota f
  | 0x4a, 0 => .vradd f
  | 0x4a, 1 => .vrmin f
  | 0x4a, 2 => .vrmax f
  | 0x4a, 3 => .vrand f
  | 0x4a, 4 => .vror f
  | 0x4a, 5 => .vrxor f
  | 0x4a, 6 => .vrfadd f
  | 0x4a, 7 => .vrfmax f
  | 0x4a, 8 => .vrfmin f
  | 0x4b, 0 => .vscanAdd f
  | 0x4b, 1 => .vscanxAdd f
  | 0x4b, 2 => .vscanXor f
  | 0x4b, 3 => .vscanxXor f
  | 0x4b, 4 => .vscanMax f
  | 0x4b, 5 => .vscanFadd f
  | 0x4c, 0 => .vclmul f
  | 0x4c, 1 => .vclmulh f
  | 0x4c, 2 => .vpxor f
  | 0x4d, 0 => .pand f
  | 0x4d, 1 => .por f
  | 0x4d, 2 => .pxor f
  | 0x4d, 3 => .pnot f
  | 0x4d, 4 => .pfroms f
  | 0x4d, 5 => .ptos f
  | 0x4d, 6 => .pcnt f
  | 0x4d, 7 => .pfirst f
  | 0x4f, 0 => .vlgmul f
  | 0x4f, 1 => .vlgadd f
  | 0x50, 0 => .vperf f
  | 0x64, 0 => .acrd f
  | 0x65, 0 => .acwr f
  | 0x66, 0 => .acopZero f
  | 0x66, 1 => .acopMulrow f
  | 0x66, 2 => .acopAddrow f
  | 0x66, 3 => .acopFold f
  | 0x66, 4 => .acopMaxrow f
  | 0x6f, 0 => .qpush f
  | 0x70, 0 => .qpop f
  | _, _ => .ret

/-- The M-format instruction of an OP (R38). -/
noncomputable def mInstr (op : Nat) (f : MForm) : Instr :=
  match op with
  | 0x51 => .ld f
  | 0x52 => .st f
  | 0x53 => .lds f
  | 0x54 => .sts f
  | 0x57 => .mon f
  | _ => .pref f

/-- The atomic of an OP and AOP (R33). -/
noncomputable def aInstr (op : Nat) (aop : BitVec 4) (f : AForm) : Instr :=
  match op, aop.toNat with
  | 0x55, 0 => .atomAdd f
  | 0x55, 1 => .atomSub f
  | 0x55, 2 => .atomMin f
  | 0x55, 3 => .atomMax f
  | 0x55, 4 => .atomMinu f
  | 0x55, 5 => .atomMaxu f
  | 0x55, 6 => .atomAnd f
  | 0x55, 7 => .atomOr f
  | 0x55, 8 => .atomXor f
  | 0x55, 9 => .atomXchg f
  | 0x55, 10 => .atomCas f
  | 0x55, 11 => .atomFaddF32 f
  | 0x55, 12 => .atomFmaxF32 f
  | 0x56, 0 => .atomsAdd f
  | 0x56, 1 => .atomsSub f
  | 0x56, 2 => .atomsMin f
  | 0x56, 3 => .atomsMax f
  | 0x56, 4 => .atomsMinu f
  | 0x56, 5 => .atomsMaxu f
  | 0x56, 6 => .atomsAnd f
  | 0x56, 7 => .atomsOr f
  | 0x56, 8 => .atomsXor f
  | 0x56, 9 => .atomsXchg f
  | 0x56, 10 => .atomsCas f
  | 0x56, 11 => .atomsFaddF32 f
  | 0x56, 12 => .atomsFmaxF32 f
  | _, _ => .ret

/-- The X-format instruction of an OP (R34). -/
noncomputable def xInstr (op : Nat) (fn : BitVec 7) (f : XForm) : Instr :=
  match op with
  | 0x60 => .mma f
  | 0x61 => .mmas f
  | 0x62 => .acld (fn.extractLsb' 0 1) f
  | _ => .acst (fn.extractLsb' 0 1) f

/-- The E-format instruction of an OP and FN (R35, R38). -/
noncomputable def eInstr (op : Nat) (fn : BitVec 7) (f : EForm) : Instr :=
  match op, fn.toNat with
  | 0x59, 0 => .cpyMs f
  | 0x59, 1 => .cpySm f
  | 0x59, 2 => .cpyMm f
  | 0x59, 3 => .cpyPp f
  | 0x5a, 0 => .gath f
  | 0x5a, 1 => .scat f
  | 0x5b, 0 => .prom f
  | 0x5b, 1 => .dmot f
  | 0x5c, 0 => .wbld f
  | 0x67, _ => .tblld (fn.extractLsb' 0 3) f
  | 0x68, _ => .tblsw (fn.extractLsb' 0 3) f
  | 0x69, 0 => .kapp f
  | 0x6a, 0 => .ksel f
  | 0x6b, 0 => .katt f
  | 0x6c, 0 => .ksum f
  | 0x6d, 0 => .spawn f
  | 0x6e, 0 => .join f
  | 0x71, 0 => .fput f
  | 0x72, 0 => .fget f
  | 0x73, 0 => .fcollAllreduce f
  | 0x73, 1 => .fcollReduce f
  | 0x73, 2 => .fcollBcast f
  | 0x73, 3 => .fcollMcast f
  | 0x73, 4 => .fcollAllgather f
  | 0x74, 0 => .dbgSetbrk f
  | 0x74, 1 => .dbgClrbrk f
  | 0x74, 2 => .dbgHalt f
  | 0x74, 3 => .dbgResume f
  | 0x74, 4 => .dbgStep f
  | 0x74, 5 => .dbgWatch f
  | 0x74, 6 => .dbgUnwatch f
  | 0x74, 7 => .dbgRdreg f
  | 0x74, 8 => .dbgWrreg f
  | 0x75, 0 => .trcOn f
  | 0x75, 1 => .trcOff f
  | 0x75, 2 => .trcAnchor f
  | 0x75, 3 => .trcMark f
  | 0x76, 0 => .sampCfg f
  | 0x76, 1 => .sampStart f
  | 0x76, 2 => .sampStop f
  | 0x77, 0 => .sysTlbinv f
  | 0x77, 1 => .sysFeat f
  | _, _ => .ret

/-- The instruction the fields stand for, where `Raw.reject` finds no fault with them. -/
noncomputable def Raw.instr : Raw → Instr
  | .s op sd sa i lo => sInstr op.toNat sd sa i lo
  | .b op sa off => bInstr op.toNat sa off
  | .l _ sd _ imm => .sli sd imm
  | .v op fn f => vInstr op.toNat fn f
  | .m op f _ => mInstr op.toNat f
  | .a op aop f _ => aInstr op.toNat aop f
  | .x op fn f _ _ => xInstr op.toNat fn f
  | .e op fn f => eInstr op.toNat fn f
  | .r _ pred neg _ target reconv => .vbr pred neg target reconv
/-- The fields of an instruction's words, or none for an event, which has no words. -/
def rawOf : Instr → Option Raw
  | .addReg sd sa sb => some (.s 0x01 sd sa 0 ((0 : BitVec 6) ++ sb))
  | .addImm sd sa imm => some (.s 0x01 sd sa 1 imm)
  | .subReg sd sa sb => some (.s 0x02 sd sa 0 ((0 : BitVec 6) ++ sb))
  | .subImm sd sa imm => some (.s 0x02 sd sa 1 imm)
  | .mulReg sd sa sb => some (.s 0x03 sd sa 0 ((0 : BitVec 6) ++ sb))
  | .mulImm sd sa imm => some (.s 0x03 sd sa 1 imm)
  | .mulhsReg sd sa sb => some (.s 0x04 sd sa 0 ((0 : BitVec 6) ++ sb))
  | .mulhsImm sd sa imm => some (.s 0x04 sd sa 1 imm)
  | .mulhuReg sd sa sb => some (.s 0x05 sd sa 0 ((0 : BitVec 6) ++ sb))
  | .mulhuImm sd sa imm => some (.s 0x05 sd sa 1 imm)
  | .divsReg sd sa sb => some (.s 0x06 sd sa 0 ((0 : BitVec 6) ++ sb))
  | .divsImm sd sa imm => some (.s 0x06 sd sa 1 imm)
  | .divuReg sd sa sb => some (.s 0x07 sd sa 0 ((0 : BitVec 6) ++ sb))
  | .divuImm sd sa imm => some (.s 0x07 sd sa 1 imm)
  | .remsReg sd sa sb => some (.s 0x08 sd sa 0 ((0 : BitVec 6) ++ sb))
  | .remsImm sd sa imm => some (.s 0x08 sd sa 1 imm)
  | .remuReg sd sa sb => some (.s 0x09 sd sa 0 ((0 : BitVec 6) ++ sb))
  | .remuImm sd sa imm => some (.s 0x09 sd sa 1 imm)
  | .andReg sd sa sb => some (.s 0x0a sd sa 0 ((0 : BitVec 6) ++ sb))
  | .andImm sd sa imm => some (.s 0x0a sd sa 1 imm)
  | .orReg sd sa sb => some (.s 0x0b sd sa 0 ((0 : BitVec 6) ++ sb))
  | .orImm sd sa imm => some (.s 0x0b sd sa 1 imm)
  | .xorReg sd sa sb => some (.s 0x0c sd sa 0 ((0 : BitVec 6) ++ sb))
  | .xorImm sd sa imm => some (.s 0x0c sd sa 1 imm)
  | .andnReg sd sa sb => some (.s 0x0d sd sa 0 ((0 : BitVec 6) ++ sb))
  | .andnImm sd sa imm => some (.s 0x0d sd sa 1 imm)
  | .shlReg sd sa sb => some (.s 0x0e sd sa 0 ((0 : BitVec 6) ++ sb))
  | .shlImm sd sa imm => some (.s 0x0e sd sa 1 imm)
  | .shrReg sd sa sb => some (.s 0x0f sd sa 0 ((0 : BitVec 6) ++ sb))
  | .shrImm sd sa imm => some (.s 0x0f sd sa 1 imm)
  | .sarReg sd sa sb => some (.s 0x10 sd sa 0 ((0 : BitVec 6) ++ sb))
  | .sarImm sd sa imm => some (.s 0x10 sd sa 1 imm)
  | .rolReg sd sa sb => some (.s 0x11 sd sa 0 ((0 : BitVec 6) ++ sb))
  | .rolImm sd sa imm => some (.s 0x11 sd sa 1 imm)
  | .minReg sd sa sb => some (.s 0x12 sd sa 0 ((0 : BitVec 6) ++ sb))
  | .minImm sd sa imm => some (.s 0x12 sd sa 1 imm)
  | .maxReg sd sa sb => some (.s 0x13 sd sa 0 ((0 : BitVec 6) ++ sb))
  | .maxImm sd sa imm => some (.s 0x13 sd sa 1 imm)
  | .minuReg sd sa sb => some (.s 0x14 sd sa 0 ((0 : BitVec 6) ++ sb))
  | .minuImm sd sa imm => some (.s 0x14 sd sa 1 imm)
  | .maxuReg sd sa sb => some (.s 0x15 sd sa 0 ((0 : BitVec 6) ++ sb))
  | .maxuImm sd sa imm => some (.s 0x15 sd sa 1 imm)
  | .sltReg sd sa sb => some (.s 0x16 sd sa 0 ((0 : BitVec 6) ++ sb))
  | .sltImm sd sa imm => some (.s 0x16 sd sa 1 imm)
  | .sltuReg sd sa sb => some (.s 0x17 sd sa 0 ((0 : BitVec 6) ++ sb))
  | .sltuImm sd sa imm => some (.s 0x17 sd sa 1 imm)
  | .seqReg sd sa sb => some (.s 0x18 sd sa 0 ((0 : BitVec 6) ++ sb))
  | .seqImm sd sa imm => some (.s 0x18 sd sa 1 imm)
  | .sneReg sd sa sb => some (.s 0x19 sd sa 0 ((0 : BitVec 6) ++ sb))
  | .sneImm sd sa imm => some (.s 0x19 sd sa 1 imm)
  | .addpReg sd sa sb => some (.s 0x1d sd sa 0 ((0 : BitVec 6) ++ sb))
  | .addpImm sd sa imm => some (.s 0x1d sd sa 1 imm)
  | .clz sd sa => some (.s 0x1a sd sa 0 0)
  | .popc sd sa => some (.s 0x1b sd sa 0 0)
  | .brev sd sa => some (.s 0x1c sd sa 0 0)
  | .rdsr sd index => some (.s 0x1E sd 0 1 index)
  | .wrsr sa index => some (.s 0x1F 0 sa 1 index)
  | .bra off => some (.b 0x20 0 off)
  | .bz sa off => some (.b 0x21 sa off)
  | .bnz sa off => some (.b 0x22 sa off)
  | .call off => some (.b 0x23 0 off)
  | .ret => some (.s 0x24 0 0 0 0)
  | .jmpr sa => some (.s 0x25 0 sa 0 0)
  | .rcv => some (.s 0x26 0 0 0 0)
  | .exit => some (.s 0x27 0 0 0 0)
  | .bar slot => some (.s 0x28 0 0 1 ((0 : BitVec 10) ++ slot))
  | .barArrive slot => some (.s 0x28 0 0 1 ((1 : BitVec 10) ++ slot))
  | .barWait slot => some (.s 0x28 0 0 1 ((2 : BitVec 10) ++ slot))
  | .waitm sa => some (.s 0x29 0 sa 0 0)
  | .trap code => some (.s 0x2A 0 0 1 code)
  | .tret => some (.s 0x2B 0 0 0 0)
  | .tmsk mask => some (.s 0x2C 0 0 1 ((0 : BitVec 11) ++ mask))
  | .settmr sa => some (.s 0x2D 0 sa 0 0)
  | .perf level => some (.s 0x2E 0 0 1 ((0 : BitVec 10) ++ level))
  | .brk code => some (.s 0x2F 0 0 1 code)
  | .fenceRel scope => some (.s 0x30 0 0 1 ((0 : BitVec 10) ++ scope))
  | .fenceAcq scope => some (.s 0x30 0 0 1 ((1 : BitVec 10) ++ scope))
  | .fenceFull scope => some (.s 0x30 0 0 1 ((2 : BitVec 10) ++ scope))
  | .fencePath scope paths => some (.s 0x30 0 0 1 ((0 : BitVec 5) ++ paths ++ (3 : BitVec 2) ++ scope))
  | .mwait sa => some (.s 0x31 0 sa 0 0)
  | .mfence sd => some (.s 0x32 sd 0 0 0)
  | .evpop sd => some (.s 0x33 sd 0 0 0)
  | .evwait sd => some (.s 0x34 sd 0 0 0)
  | .vgrow count => some (.s 0x35 0 0 1 count)
  | .vshrk count => some (.s 0x36 0 0 1 count)
  | .crd sd index => some (.s 0x37 sd 0 1 index)
  | .cwr sa index => some (.s 0x38 0 sa 1 index)
  | .cadd sd sa index => some (.s 0x39 sd sa 1 index)
  | .ccas sd sa index => some (.s 0x3A sd sa 1 index)
  | .yield => some (.s 0x3B 0 0 0 0)
  | .clk sd => some (.s 0x3C sd 0 0 0)
  | .hrel track => some (.s 0x3D 0 0 1 track)
  | .sli sd imm => some (.l 0x40 sd 0 imm)
  | .vcvt fn f => some (.v 0x45 fn f)
  | .vtbl slot f => some (.v 0x48 ((0 : BitVec 3) ++ slot) f)
  | .vbr pred neg target reconv => some (.r 0x4E pred neg 0 target reconv)
  | .ld f => some (.m 0x51 f 0)
  | .st f => some (.m 0x52 f 0)
  | .lds f => some (.m 0x53 f 0)
  | .sts f => some (.m 0x54 f 0)
  | .mon f => some (.m 0x57 f 0)
  | .pref f => some (.m 0x58 f 0)
  | .mma f => some (.x 0x60 0 f 0 0)
  | .mmas f => some (.x 0x61 0 f 0 0)
  | .acld space f => some (.x 0x62 ((0 : BitVec 6) ++ space) f 0 0)
  | .acst space f => some (.x 0x63 ((0 : BitVec 6) ++ space) f 0 0)
  | .tblld slot f => some (.e 0x67 ((0 : BitVec 4) ++ slot) f)
  | .tblsw slot f => some (.e 0x68 ((0 : BitVec 4) ++ slot) f)
  | .vaddInteger f => some (.v 0x41 0 f)
  | .vsubInteger f => some (.v 0x41 1 f)
  | .vmulInteger f => some (.v 0x41 2 f)
  | .vmulh f => some (.v 0x41 3 f)
  | .vmad f => some (.v 0x41 4 f)
  | .vminInteger f => some (.v 0x41 5 f)
  | .vmaxInteger f => some (.v 0x41 6 f)
  | .vabsInteger f => some (.v 0x41 7 f)
  | .vnegInteger f => some (.v 0x41 8 f)
  | .vadds f => some (.v 0x41 9 f)
  | .vsubs f => some (.v 0x41 10 f)
  | .vand f => some (.v 0x42 0 f)
  | .vor f => some (.v 0x42 1 f)
  | .vxor f => some (.v 0x42 2 f)
  | .vandn f => some (.v 0x42 3 f)
  | .vnot f => some (.v 0x42 4 f)
  | .vshl f => some (.v 0x42 5 f)
  | .vshr f => some (.v 0x42 6 f)
  | .vsar f => some (.v 0x42 7 f)
  | .vrol f => some (.v 0x42 8 f)
  | .vclz f => some (.v 0x42 9 f)
  | .vpopc f => some (.v 0x42 10 f)
  | .vbrev f => some (.v 0x42 11 f)
  | .vbfe f => some (.v 0x42 12 f)
  | .vaddFloat f => some (.v 0x43 0 f)
  | .vsubFloat f => some (.v 0x43 1 f)
  | .vmulFloat f => some (.v 0x43 2 f)
  | .vfma f => some (.v 0x43 3 f)
  | .vfms f => some (.v 0x43 4 f)
  | .vminFloat f => some (.v 0x43 5 f)
  | .vmaxFloat f => some (.v 0x43 6 f)
  | .vabsFloat f => some (.v 0x43 7 f)
  | .vnegFloat f => some (.v 0x43 8 f)
  | .vrnd f => some (.v 0x43 9 f)
  | .vceq f => some (.v 0x44 0 f)
  | .vcne f => some (.v 0x44 1 f)
  | .vclt f => some (.v 0x44 2 f)
  | .vcle f => some (.v 0x44 3 f)
  | .vcgt f => some (.v 0x44 4 f)
  | .vcge f => some (.v 0x44 5 f)
  | .vcord f => some (.v 0x44 6 f)
  | .vcuno f => some (.v 0x44 7 f)
  | .vqblkE4 f => some (.v 0x46 0 f)
  | .vqblkE5 f => some (.v 0x46 1 f)
  | .vqblkF4 f => some (.v 0x46 2 f)
  | .vqblkLg f => some (.v 0x46 3 f)
  | .vdqblkE4 f => some (.v 0x46 4 f)
  | .vdqblkE5 f => some (.v 0x46 5 f)
  | .vdqblkF4 f => some (.v 0x46 6 f)
  | .vdqblkLg f => some (.v 0x46 7 f)
  | .vexp2 f => some (.v 0x47 0 f)
  | .vlog2 f => some (.v 0x47 1 f)
  | .vrcp f => some (.v 0x47 2 f)
  | .vrsqrt f => some (.v 0x47 3 f)
  | .vsqrt f => some (.v 0x47 4 f)
  | .vsin f => some (.v 0x47 5 f)
  | .vcos f => some (.v 0x47 6 f)
  | .vtanh f => some (.v 0x47 7 f)
  | .vmov f => some (.v 0x49 0 f)
  | .vsel f => some (.v 0x49 1 f)
  | .vbcast f => some (.v 0x49 2 f)
  | .vrdl f => some (.v 0x49 3 f)
  | .vwrl f => some (.v 0x49 4 f)
  | .viota f => some (.v 0x49 5 f)
  | .vradd f => some (.v 0x4a 0 f)
  | .vrmin f => some (.v 0x4a 1 f)
  | .vrmax f => some (.v 0x4a 2 f)
  | .vrand f => some (.v 0x4a 3 f)
  | .vror f => some (.v 0x4a 4 f)
  | .vrxor f => some (.v 0x4a 5 f)
  | .vrfadd f => some (.v 0x4a 6 f)
  | .vrfmax f => some (.v 0x4a 7 f)
  | .vrfmin f => some (.v 0x4a 8 f)
  | .vscanAdd f => some (.v 0x4b 0 f)
  | .vscanxAdd f => some (.v 0x4b 1 f)
  | .vscanXor f => some (.v 0x4b 2 f)
  | .vscanxXor f => some (.v 0x4b 3 f)
  | .vscanMax f => some (.v 0x4b 4 f)
  | .vscanFadd f => some (.v 0x4b 5 f)
  | .vclmul f => some (.v 0x4c 0 f)
  | .vclmulh f => some (.v 0x4c 1 f)
  | .vpxor f => some (.v 0x4c 2 f)
  | .pand f => some (.v 0x4d 0 f)
  | .por f => some (.v 0x4d 1 f)
  | .pxor f => some (.v 0x4d 2 f)
  | .pnot f => some (.v 0x4d 3 f)
  | .pfroms f => some (.v 0x4d 4 f)
  | .ptos f => some (.v 0x4d 5 f)
  | .pcnt f => some (.v 0x4d 6 f)
  | .pfirst f => some (.v 0x4d 7 f)
  | .vlgmul f => some (.v 0x4f 0 f)
  | .vlgadd f => some (.v 0x4f 1 f)
  | .vperf f => some (.v 0x50 0 f)
  | .acrd f => some (.v 0x64 0 f)
  | .acwr f => some (.v 0x65 0 f)
  | .acopZero f => some (.v 0x66 0 f)
  | .acopMulrow f => some (.v 0x66 1 f)
  | .acopAddrow f => some (.v 0x66 2 f)
  | .acopFold f => some (.v 0x66 3 f)
  | .acopMaxrow f => some (.v 0x66 4 f)
  | .qpush f => some (.v 0x6f 0 f)
  | .qpop f => some (.v 0x70 0 f)
  | .cpyMs f => some (.e 0x59 0 f)
  | .cpySm f => some (.e 0x59 1 f)
  | .cpyMm f => some (.e 0x59 2 f)
  | .cpyPp f => some (.e 0x59 3 f)
  | .gath f => some (.e 0x5a 0 f)
  | .scat f => some (.e 0x5a 1 f)
  | .prom f => some (.e 0x5b 0 f)
  | .dmot f => some (.e 0x5b 1 f)
  | .wbld f => some (.e 0x5c 0 f)
  | .kapp f => some (.e 0x69 0 f)
  | .ksel f => some (.e 0x6a 0 f)
  | .katt f => some (.e 0x6b 0 f)
  | .ksum f => some (.e 0x6c 0 f)
  | .spawn f => some (.e 0x6d 0 f)
  | .join f => some (.e 0x6e 0 f)
  | .fput f => some (.e 0x71 0 f)
  | .fget f => some (.e 0x72 0 f)
  | .fcollAllreduce f => some (.e 0x73 0 f)
  | .fcollReduce f => some (.e 0x73 1 f)
  | .fcollBcast f => some (.e 0x73 2 f)
  | .fcollMcast f => some (.e 0x73 3 f)
  | .fcollAllgather f => some (.e 0x73 4 f)
  | .dbgSetbrk f => some (.e 0x74 0 f)
  | .dbgClrbrk f => some (.e 0x74 1 f)
  | .dbgHalt f => some (.e 0x74 2 f)
  | .dbgResume f => some (.e 0x74 3 f)
  | .dbgStep f => some (.e 0x74 4 f)
  | .dbgWatch f => some (.e 0x74 5 f)
  | .dbgUnwatch f => some (.e 0x74 6 f)
  | .dbgRdreg f => some (.e 0x74 7 f)
  | .dbgWrreg f => some (.e 0x74 8 f)
  | .trcOn f => some (.e 0x75 0 f)
  | .trcOff f => some (.e 0x75 1 f)
  | .trcAnchor f => some (.e 0x75 2 f)
  | .trcMark f => some (.e 0x75 3 f)
  | .sampCfg f => some (.e 0x76 0 f)
  | .sampStart f => some (.e 0x76 1 f)
  | .sampStop f => some (.e 0x76 2 f)
  | .sysTlbinv f => some (.e 0x77 0 f)
  | .sysFeat f => some (.e 0x77 1 f)
  | .atomAdd f => some (.a 0x55 0 f 0)
  | .atomSub f => some (.a 0x55 1 f 0)
  | .atomMin f => some (.a 0x55 2 f 0)
  | .atomMax f => some (.a 0x55 3 f 0)
  | .atomMinu f => some (.a 0x55 4 f 0)
  | .atomMaxu f => some (.a 0x55 5 f 0)
  | .atomAnd f => some (.a 0x55 6 f 0)
  | .atomOr f => some (.a 0x55 7 f 0)
  | .atomXor f => some (.a 0x55 8 f 0)
  | .atomXchg f => some (.a 0x55 9 f 0)
  | .atomCas f => some (.a 0x55 10 f 0)
  | .atomFaddF32 f => some (.a 0x55 11 f 0)
  | .atomFmaxF32 f => some (.a 0x55 12 f 0)
  | .atomsAdd f => some (.a 0x56 0 f 0)
  | .atomsSub f => some (.a 0x56 1 f 0)
  | .atomsMin f => some (.a 0x56 2 f 0)
  | .atomsMax f => some (.a 0x56 3 f 0)
  | .atomsMinu f => some (.a 0x56 4 f 0)
  | .atomsMaxu f => some (.a 0x56 5 f 0)
  | .atomsAnd f => some (.a 0x56 6 f 0)
  | .atomsOr f => some (.a 0x56 7 f 0)
  | .atomsXor f => some (.a 0x56 8 f 0)
  | .atomsXchg f => some (.a 0x56 9 f 0)
  | .atomsCas f => some (.a 0x56 10 f 0)
  | .atomsFaddF32 f => some (.a 0x56 11 f 0)
  | .atomsFmaxF32 f => some (.a 0x56 12 f 0)
  | .runFetch _ => none
  | .runIssue _ _ _ => none
  | .terminateComplete _ => none
  | .retireComplete _ => none
  | .timer _ => none
  | .warpStop _ => none
  | .haltDeferTimeout _ => none
  | .claimServe _ => none
  | .quotaArbiter _ => none
  | .relayCopy _ _ _ => none
  | .caravanComplete _ => none
  | .sharedRegisterVisible _ _ => none
  | .loadReturn _ _ _ => none
  | .storeArrival _ _ => none
  | .storeAck _ _ => none
  | .matrixQueueStart _ => none
  | .matrixOpComplete _ => none
  | .mwaitReturn _ => none
  | .evwaitReturn _ => none
  | .waitmWake _ => none
  | .waitmTimeout _ => none
  | .barRelease _ => none
  | .joinReturn _ => none
  | .weightLoaderRun _ _ => none
  | .copyEngineRun _ _ => none
  | .completionRecordQueue _ _ => none
  | .tableCopyWrite _ => none
  | .selectionUnitRun _ => none
  | .attentionEngineRun _ => none
  | .hold _ => none
  | .chainPrefetch _ _ => none
  | .pageMove _ => none
  | .rateUpdate _ => none
  | .railSwitch _ _ => none
  | .tableWalk _ _ _ => none
  | .placement _ _ => none
  | .tokenRefill _ _ => none
  | .mailboxPost _ => none
  | .sampleRow _ _ => none
  | .taggedRecord _ _ _ => none
  | .doorbell _ _ => none
  | .nop _ => none
  | .launch _ => none
  | .copy _ => none
  | .signal _ => none
  | .ctxload _ => none
  | .ctxfree _ => none
  | .qbind _ => none
  | .partition _ => none
  | .tqbind _ => none
  | .tqflush _ => none
  | .tqunbind _ => none
  | .resolve _ => none
  | .preempt _ => none
  | .resume _ => none
  | .attach _ => none
  | .abort _ => none
  | .launchComplete _ => none
  | .arbiterVisit _ => none
  | .dispatch _ => none
  | .engineStop _ _ => none
  | .powerOn _ => none
  | .supplyVoltageFault _ => none
  | .clockGlitch => none
  | .tamper => none
  | .quoteRequest _ => none
  | .featAcceptWrite _ => none
  | .headroomUpdate _ _ => none
  | .put _ _ _ _ => none
  | .get _ _ _ _ => none
  | .unreliablePacket => none
  | .contributionArrival _ _ _ _ _ => none
  | .collectiveResult _ _ _ => none
  | .peerTableWrite _ _ _ => none
  | .convoyTableWrite _ _ _ => none
  | .capWrite _ _ => none
  | .powerBlockWrite _ _ _ => none
  | .peerDown _ _ => none
  | .peerReturn _ _ => none
  | .fabricEngineRun _ _ _ => none
  | .restart _ => none

/-- Whether an instruction's fields satisfy the static rules that R23 ranks as *illegal instruction*. An event
is no instruction and is never legal here. -/
def legal (i : Instr) : Bool :=
  match rawOf i with
  | some r => r.reject.isNone
  | none => false

/-- The instruction of the words `w0` and, for OP 0x40 and above, `w1` (R25 to R41), or why there is none. -/
noncomputable def decodeWords (w0 w1 : Word) : Except Reject Instr :=
  match (parse w0 w1).reject with
  | none => .ok (parse w0 w1).instr
  | some r => .error r

/-- The four bytes of a word, lowest address first (R11). -/
def wordBytes (w : Word) : List Byte :=
  [w.extractLsb' 0 8, w.extractLsb' 8 8, w.extractLsb' 16 8, w.extractLsb' 24 8]

/-- The word of four bytes, lowest address first (R11). -/
def bytesWord (b0 b1 b2 b3 : Byte) : Word := b3 ++ b2 ++ b1 ++ b0

/-- The instruction at the front of a byte string and the bytes after it. -/
noncomputable def decode : List Byte → Except Reject (Instr × List Byte)
  | b0 :: b1 :: b2 :: b3 :: rest =>
    let w0 := bytesWord b0 b1 b2 b3
    if wordCount w0 = 1 then (decodeWords w0 0).map (·, rest)
    else
      match rest with
      | c0 :: c1 :: c2 :: c3 :: rest' => (decodeWords w0 (bytesWord c0 c1 c2 c3)).map (·, rest')
      | _ => .error .truncated
  | _ => .error .truncated

/-- The words of an instruction; an event has none. -/
def encode (i : Instr) : List Word :=
  match rawOf i with
  | some r => r.words
  | none => []

/-- The instruction's bytes as memory holds them. -/
def encodeBytes (i : Instr) : List Byte := (encode i).flatMap wordBytes

/-- The words of an instruction whose bits are `w`, numbered from the least significant bit of the first word; a
row of the table may give fewer bits than the instruction has, and those it does not give are zero. -/
def tableWords (nbits w : Nat) : List Word :=
  [BitVec.ofNat 32 (w % 2 ^ nbits), BitVec.ofNat 32 (w % 2 ^ nbits / 2 ^ 32)]

/-- The instruction the decoder reads from the bits `w` of a row of opcode_table.json. -/
noncomputable def decodeTableWord (nbits w : Nat) : Option Instr :=
  match decode ((tableWords nbits w).flatMap wordBytes) with
  | .ok (i, _) => some i
  | .error _ => none

end Sys2Proof
end

