-- ==== Sys2Proof/Config.lean ====
section
/-! DEFINITION. What the part or its environment fixes and the spec does not give: keys and signatures (assumption log 9), and values
that it leaves open (assumption logs 15, 16 and 49). Each is a constant without a body, so that no proof can use a value of it. -/

namespace Sys2Proof.Config

/-- The per-boot page key of each start (R365 step 1). -/
opaque bootKey : Nat → BitVec 256

/-- Whether an ML-DSA-44 signature of a digest verifies against the public key held in fuses (R365). -/
opaque verifies : BitVec 256 → List Byte → Bool

/-- The ML-DSA-44 signature under the device identity key, as a number of 2,420 bytes (R367, R368). -/
opaque signature : List Byte → Nat

/-- The physical address of the attestation window, which the ROM reports in the start status (R368), in units of
4 KiB. -/
opaque attestationPage : Nat

/-- The COUNT field of an append block whose page cannot be read (R269): a free value for each operation (DESIGN CHOICE, assumption log
49). -/
opaque unreadCount : Nat → BitVec 32

/-- A word of a block or of a task ring that the part could not read on a context's behalf (R388), by the number of the read and the
word's place: free values (DESIGN CHOICE, assumption log 49). -/
opaque unreadWord : Nat → Nat → BitVec 32

/-- How a PROGRESS field holds a tile number and a number of key blocks (R286, R358): a free value (DESIGN CHOICE,
assumption log 15). -/
opaque attentionIndex : Nat → Nat → BitVec 32

/-- The fields of the HALT report of a partition for which the spec gives no value (R314), by the time of the report and the
place of the field: free values (DESIGN CHOICE, assumption log 16). -/
opaque haltReportField : Nat → Nat → Nat

/-- Frames that a stop takes beyond those of its warps, by the number of caravans and task queues saved (R356): a free value (DESIGN
CHOICE, assumption log 16). -/
opaque stopFrames : Nat → Nat

end Sys2Proof.Config
end

