-- ==== Sys2Proof/Machine/State.lean ====
section
/-! DEFINITION. The state of the part as plain data: warps, caravans, cores, clusters, dies, contexts, front end, fabric,
memory; and the machine right after reset. -/

namespace Sys2Proof.Machine

/-- Why the machine stops with a fault. -/
inductive Fault
  /-- An instruction is executed while no warp is current: raised by every instruction's meaning through `checked`.
  Safe: in the machine the spec describes an instruction is always some warp's. -/
  | noWarp
  deriving DecidableEq, Repr

/-- Why an instruction has no meaning. -/
inductive Refusal
  /-- The instruction of this mnemonic is not modelled yet: raised by `exec`'s arm for it alone. Safe. -/
  | notModelled (mnemonic : String)
  deriving DecidableEq, Repr

/-! ### Sparse tables -/

/-- A table of records by number: the first pair with the key counts. -/
abbrev Tbl (α : Type) := List (Nat × α)

def Tbl.find (t : Tbl α) (k : Nat) : Option α :=
  match t with
  | [] => none
  | (j, x) :: rest => if j = k then some x else Tbl.find rest k

def Tbl.erase (t : Tbl α) (k : Nat) : Tbl α :=
  match t with
  | [] => []
  | (j, x) :: rest => if j = k then Tbl.erase rest k else (j, x) :: Tbl.erase rest k

/-- Replaces the entry of the key in place, or adds one at the end. -/
def Tbl.put (t : Tbl α) (k : Nat) (x : α) : Tbl α :=
  match t with
  | [] => [(k, x)]
  | (j, y) :: rest => if j = k then (k, x) :: rest else (j, y) :: Tbl.put rest k x

def Tbl.findD (t : Tbl α) (k : Nat) (d : α) : α := (Tbl.find t k).getD d

/-- One 32-bit element for each of the 96 threads (R48, R52); a missing element is 0. -/
abbrev Lanes := List Word

/-- Memory cells: addresses strictly rising, and no cell that holds 0, which is what an unlisted address reads as. -/
abbrev Memory := List Host.Cell

/-! ### Warps -/

inductive EntryKind
  | join
  | pending
  deriving DecidableEq, Repr

/-- An entry of the reconvergence stack (R60). -/
structure StackEntry where
  kind : EntryKind
  offset : BitVec 24
  mask : BitVec 96
  deriving DecidableEq, Repr

/-- A run as fetched (R18, R21, R47): its header's offset, its words from the header on, its header's
fields, and the charge predecode gave it (R253). -/
structure Run where
  header : Nat
  words : List Word
  ord : Nat
  stop : Bool
  tmp : Nat
  eng : BitVec 6
  len : Nat
  cost : Nat
  deriving DecidableEq, Repr

/-- How a warp came to end without an `exit` (R166, R167). -/
structure Ending where
  cause : BitVec 8
  inHandler : Bool
  noHandler : Bool
  fatalTret : Bool
  deriving DecidableEq, Repr

/-- What a warp waits for inside an instruction whose return is an event. -/
inductive Wait
  /-- `mwait` for every batch up to the number (R210) -/
  | mwait (batch : Word)
  /-- `evwait` into a pair (R236) -/
  | evwait (sd : BitVec 6)
  /-- `waitm` until a watch fires or the limit, where there is one (R154) -/
  | waitm (limit : Option Nat)
  /-- `bar` or `bar.wait` at a party slot, for the phase it names (R250) -/
  | bar (slot : Nat) (phase : Word)
  /-- `join` (R350) -/
  | join
  /-- a blocked `vgrow` to a quota (R175) -/
  | vgrow (quota : Nat)
  /-- a translation fault that an entry of the die's fault queue stands for (R295) -/
  | translation (seq : Nat)
  deriving DecidableEq, Repr

/-- Where a warp stands. -/
inductive Phase
  /-- at a run boundary, the next header not yet fetched -/
  | fetch
  /-- at a run boundary with its run fetched and predecoded (R169) -/
  | boundary
  /-- in its issue slot, at an instruction of its run (R59) -/
  | issuing
  /-- inside an instruction that waits -/
  | waiting (what : Wait)
  /-- after its last `exit`, in the run at the offset (R105) -/
  | retiring (header : Nat)
  /-- ended by a cause (R166) -/
  | terminating (how : Ending)
  /-- held at a fault under halt-on-fault (R166 step 1) -/
  | faultStopped (how : Ending)
  /-- stopped and saved (R65) -/
  | stopped
  deriving DecidableEq, Repr

/-- The part of a thread's bytes that a store sends to one line (R148); `done` is the completion time the home gave. -/
structure PendingStore where
  id : Nat
  pa : Nat
  bytes : List Byte
  done : Option Nat
  deriving DecidableEq, Repr

/-- Where a thread's access lies: its virtual and its physical address. -/
structure ThreadAddr where
  thread : Nat
  va : Nat
  pa : Nat
  deriving DecidableEq, Repr

/-- A load whose data is on its way (R147, R150, R153): the accesses not yet served, the values served so far by
thread, and what the load does beyond reading: `fresh` at the home, `acquire` orders every later access, `horizon`
moves HORIZON, `monitor` arms watches. -/
structure PendingLoad where
  id : Nat
  vd : BitVec 8
  sz : BitVec 3
  path : BitVec 2
  fresh : Bool
  stream : Bool
  acquire : Bool
  horizon : Bool
  monitor : Bool
  lines : List Nat
  waiting : List ThreadAddr
  got : List (Nat × Nat)
  deriving DecidableEq, Repr

/-- A line watch of `mon` (R153). -/
structure Watch where
  line : Nat
  fired : Bool
  deriving DecidableEq, Repr

/-- The hits of one debugger watchpoint on a warp (R310): the threads, the offset of the first hit (FIRST) and its
lowest thread. -/
structure WatchHits where
  threads : BitVec 96
  first : Nat
  thread : Nat
  order : Nat
  deriving DecidableEq, Repr

/-- A step requested of a debug-halted warp (R308): the thread followed, or the whole warp. -/
structure StepRequest where
  whole : Bool
  thread : Nat
  deriving DecidableEq, Repr

/-- A completion record on the event queue (R232), with the number of its operation. -/
structure EventRecord where
  tag : Word
  engine : BitVec 8
  status : BitVec 8
  op : Nat
  deriving DecidableEq, Repr

/-- A batch of matrix operations (R209): its number, the operations it was closed with, those still open in it, and the
flags they raised. -/
structure Batch where
  number : Word
  members : List Nat
  ops : List Nat
  flags : BitVec 11
  deriving DecidableEq, Repr

/-- A trace ring (R317): the context whose memory it lies in, the address of its control block, BASE and SIZE. -/
structure TraceRing where
  ctx : Nat
  ring : Nat
  base : Nat
  size : Nat
  deriving DecidableEq, Repr

/-- Trace of a warp (R317 to R319): its ring, WREC, whether an ANCHOR is owed at the next safe point or already at the next
boundary, whether the first ANCHOR has been emitted, whether trace goes off at the next boundary, and records not yet
written, each with the ring it goes to. -/
structure TraceState where
  ring : TraceRing
  wrec : Nat
  anchorSafe : Bool
  anchorNext : Bool
  started : Bool
  off : Bool
  waiting : List (TraceRing × List Byte)
  deriving DecidableEq, Repr

structure Warp where
  -- identity (R50, R168, R183)
  ctx : Nat
  core : Nat
  caravan : Nat
  pass : Nat
  ordinal : Word
  sched : Nat
  widx : Nat
  frame : Nat
  -- registers (R50, R52, R53, R54)
  scalars : List Word
  vregs : List Lanes
  temps : List Lanes
  preds : List (BitVec 96)
  quota : Nat
  -- special registers (R36)
  flags : BitVec 11
  fpctl : Word
  tcause : Word
  trun : Word
  tidx : Word
  tinfo : Word
  tvec : Word
  progress : Word
  stepState : Word
  wmax : DWord
  horizon : DWord
  wmaxLatch : Option DWord
  horizonLatch : Option DWord
  baseLatch : Option DWord
  /-- the latches whose low index the present run has read, and those of a run that a trap left in its middle (R98) -/
  readLow : BitVec 3
  readLowHeld : BitVec 3
  -- trap state (R161, R162, R112)
  trapMask : Bool
  handlerActive : Bool
  timerPending : Bool
  watchPending : Option Word
  timer : DWord
  -- control (R59 to R63)
  tblSel : BitVec 8
  stack : List StackEntry
  spilled : Nat
  next : Nat
  resume : Option Nat
  run : Option Run
  /-- the index at which the present issue of the run began -/
  startIdx : Nat
  idx : Nat
  pos : Nat
  target : Option Nat
  remainder : Bool
  wroteTemps : BitVec 4
  /-- the scratchpad as the instruction in issue first read its operand blocks, while it waits to complete its issue (R202) -/
  operands : Option Memory
  phase : Phase
  -- scheduling (R170, R171, R176)
  active : Bool
  aging : Nat
  /-- the cycle of its cluster in which its run was last seen eligible, or in which it entered its position (R171) -/
  eligibleAt : Int
  yielded : Bool
  spilledRegs : Bool
  -- memory (R147, R148, R153, R158)
  loads : List PendingLoad
  stores : List PendingStore
  watches : List Watch
  -- engines and records (R209, R235, R348)
  batch : Word
  /-- every operation issued since the last `mfence`, and those of them not yet complete -/
  openAll : List Nat
  openOps : List Nat
  openFlags : BitVec 11
  batches : List Batch
  records : List EventRecord
  overrun : Nat
  /-- the operations whose records an overrun has dropped since the last record returned (R235, R278) -/
  lostOps : List Nat
  inFlight : Nat
  children : Nat
  recChildren : Nat
  puts : Nat
  -- parties (R249)
  arrival : List (Option Word)
  -- debug (R304 to R310), trace (R317), safe points (R167)
  debugHalted : Bool
  haltPending : Bool
  skipBreak : Bool
  step : Option StepRequest
  stepRuns : Nat
  watchHits : List (Option WatchHits)
  trace : Option TraceState
  lastOrd : Nat
  -- stop bookkeeping (R165, R65), birth for the arbiter's charge (R346)
  deferred : Bool
  wasDeferred : Bool
  /-- the warp's most recently stopped operation and its PROGRESS (R358) -/
  stoppedOp : Option (Nat × Word)
  stopWait : Option Wait
  /-- a debugger's last write of TINFO while the warp was held at a fault set REDIRECT (R166) -/
  redirected : Bool
  /-- its status slot has been written, or the write dropped (R181, R388) -/
  slotDone : Bool
  /-- its relays are recorded and it has left its parties, the steps before its status slot (R105, R166) -/
  departed : Bool
  bornCycle : Int
  /-- the device time at which its present run issued (R323) -/
  issuedAt : Nat
  deriving DecidableEq, Repr

/-! ### Caravans -/

/-- A slot of a handoff track (R184). -/
structure Slot where
  value : Lanes
  present : Bool
  filled : Bool
  tag : Nat
  relayPending : Bool
  deriving DecidableEq, Repr

/-- A launch record's fields (R180). -/
structure LaunchRecord where
  trip : Nat
  stages : Nat
  depth : Nat
  tracks : Nat
  quota : Nat
  pair : Bool
  fuseL1 : Bool
  scratch : Nat
  entry : Nat
  objId : Nat
  dbase : Nat
  argAddr : Nat
  argN : Nat
  parties : Nat
  initAddr : Nat
  initMask : BitVec 16
  statLen : Nat
  statAddr : Nat
  deriving DecidableEq, Repr

/-- A value that an operation gave a shared register, the warp that made it, and the cycle of the cluster it issued in (R194). -/
structure SharedUpdate where
  index : Nat
  value : Word
  owner : Nat
  cycle : Int
  deriving DecidableEq, Repr

/-- Where a caravan stands on its way (R345, R346, R298): in the pending pool, handed to a die, placed on a core, or
saved at a stop and waiting to be placed again. -/
inductive CaravanStage
  | pool
  | die (die : Nat)
  | placed
  | saved
  deriving DecidableEq, Repr

structure Caravan where
  ctx : Nat
  launch : Nat
  core : Option Nat
  queue : Option Nat
  parent : Option (Nat × Option Word)
  parentCaravan : Option Nat
  record : LaunchRecord
  codeBase : Nat
  codeSize : Nat
  args : List Word
  taskWords : List (Word × Word)
  nextPass : Nat
  claimed : Nat
  ended : List Nat
  terminated : List Nat
  done : Bool
  tracks : List (List Slot)
  initial : List (List Lanes)
  wrote : Tbl (BitVec 16)
  relayed : Tbl (BitVec 16)
  shared : List Word
  visible : List Word
  /-- values not yet visible, the oldest first -/
  updates : List SharedUpdate
  /-- the cycle of the latest operation on a shared register, and its warp's ordinal (R194) -/
  lastShared : Option (Int × Word)
  /-- the largest completion time among the writes that DONE follows (R181) -/
  settled : Nat
  scratch : Memory
  partyBase : List Nat
  objId : Nat
  dies : BitVec 4
  stage : CaravanStage
  openChildren : Nat
  finished : Bool
  /-- The ring for passes still to come, where `trc.on` named every pass (R320). -/
  traceRing : Option TraceRing
  /-- The die of the warp that spawned it, which places it when it fits there (R349). -/
  home : Option Nat
  deriving DecidableEq, Repr

/-! ### Engine operations -/

/-- A shape record (R201). -/
structure Shape where
  base : Nat
  rows : Nat
  cols : Nat
  vrows : Nat
  vcols : Nat
  stride : Nat
  layout : Nat
  space : Nat
  deriving DecidableEq, Repr

/-- One half of a format block (R203). -/
structure FmtHalf where
  fmt : Nat
  blk : Nat
  ftz : Bool
  oneExp : Bool
  exp : BitVec 8
  scale : Nat
  deriving DecidableEq, Repr

/-- A tile descriptor (R207). -/
structure Tile where
  slot : Nat
  rows : Nat
  cols : Nat
  cmp : Bool
  pairt : Bool
  deriving DecidableEq, Repr

/-- A sequence descriptor of an attention request (R277), with the rows it owns. -/
structure SeqDesc where
  addr : Nat
  n : Nat
  mode : Nat
  qpos : Nat
  rowFrom : Nat
  rowTo : Nat
  deriving DecidableEq, Repr

/-- A request block of `katt` (R276). -/
structure KattReq where
  block : Nat
  qbase : Nat
  nq : Nat
  hdim : Nat
  qfmt : Nat
  qscratch : Bool
  cmp : Bool
  partialOut : Bool
  qstride : Nat
  mask : Nat
  eslot : Nat
  outfmt : Nat
  mparam : Nat
  scale : Word
  ostride : Nat
  out : Nat
  mlout : Nat
  rstat : Nat
  seqs : List SeqDesc
  deriving DecidableEq, Repr

/-- An append block of `kapp` (R269). -/
structure KappReq where
  block : Nat
  page : Nat
  src : Nat
  n : Nat
  init : Bool
  link : Bool
  kfmt : Nat
  vfmt : Nat
  sfmt : Nat
  hdim : Nat
  cap : Nat
  pos0 : Nat
  seqid : Nat
  prev : Nat
  deriving DecidableEq, Repr

/-- A selection block of `ksel` (R272). -/
structure KselReq where
  block : Nat
  qoff : Nat
  nq : Nat
  hdim : Nat
  addr : Nat
  n : Nat
  mode : Nat
  top : Bool
  limit : Word
  waddr : Nat
  deriving DecidableEq, Repr

/-- A collective block of `fcoll` (R383), with FN and its place in the order of its convoy. -/
structure CollReq where
  block : Nat
  convoy : Nat
  fn : Nat
  oper : Nat
  count : Nat
  src : Nat
  dst : Nat
  note : Nat
  noteVal : DWord
  seq : Nat
  deriving DecidableEq, Repr

/-- What an engine operation does. -/
inductive OpKind
  /-- `cpy` (R237): direction, source, destination, bytes, destination caravan -/
  | cpy (dir src dst n dest : Nat)
  /-- `gath` and `scat` (R238): the address list, the scratchpad offset and the element size -/
  | gath (list : List Nat) (offset z : Nat)
  | scat (list : List Nat) (offset z : Nat)
  /-- `prom` and `dmot` (R334) -/
  | move (page : Nat) (promote : Bool)
  /-- `tblld` (R240) -/
  | tblld (slot copy va : Nat)
  /-- `wbld` (R218) -/
  | wbld (src : Shape) (fmt : FmtHalf) (dst : Nat) (seed : Word) (sparse follower : Bool)
  /-- `mma` and `mmas` (R217) -/
  | mma (d : Tile) (a b : Shape) (fa fb : FmtHalf) (zero pair sparse : Bool) (seed : Word)
  /-- `acld` and `acst` (R220) -/
  | acld (d : Tile) (m : Shape) (f : FmtHalf) (scale : Word)
  | acst (d : Tile) (m : Shape) (f : FmtHalf) (scale : Word)
  /-- `acop` 0 to 2 (R222): the rows that take part and their operands -/
  | acop (fn : Nat) (d : Tile) (rows : BitVec 96) (b : Lanes)
  /-- the hold of an attention tile (R284) -/
  | hold
  | kapp (r : KappReq)
  | ksum (page result : Nat)
  | ksel (r : KselReq)
  | katt (r : KattReq)
  /-- `fput` and `fget` (R381): source, destination, bytes, peer index, ORD -/
  | fput (src dst n peer : Nat) (ord : Bool)
  | fget (src dst n peer : Nat) (ord : Bool)
  | fcoll (r : CollReq)
  deriving DecidableEq, Repr

/-- Where an engine operation stands. -/
inductive OpState
  | queued
  /-- begun, and stopped at a page that waits for RESOLVE or between two units of its work -/
  | running
  /-- its work is done or has ended with a STATUS; its record is not yet queued -/
  | finished
  deriving DecidableEq, Repr

/-- What the attention engine keeps for a row of its tile (R280): the running maximum, the denominator and the output
accumulator as high and low words. -/
structure AttnRow where
  /-- some key was visible (R281) -/
  seen : Bool
  m : Word
  l : Word × Word
  o : List (Word × Word)
  deriving DecidableEq, Repr

/-- A page of a key source as the attention engine has snapshotted its header (R268, R279). -/
structure KeyPage where
  va : Nat
  count : Nat
  pos0 : Nat
  voff : Nat
  kfmt : Nat
  vfmt : Nat
  deriving DecidableEq, Repr

/-- A walk of a key source (R264, R281): the pages so far, the formats of the first usable page, the first failing page with its row
status, the worst STATUS met, the pages and entries passed, and the next page of a chain. -/
structure Walk where
  pages : List KeyPage
  formats : Option (Nat × Nat)
  failed : Option (Nat × Nat)
  status : BitVec 8
  passed : Nat
  next : Nat
  deriving DecidableEq, Repr

/-- An engine operation: its number owns its locks. `progress` counts finished units, `settled` is the largest
completion time among its writes (R230), `data` and `pages` what it has gathered on the way, `batch` the batch of a
matrix operation once it is closed; `cursor`, `result`, `blocks`, `rows`, `source` and `walk` are those of a walk of key pages. -/
structure EngineOp where
  id : Nat
  warp : Nat
  ctx : Nat
  core : Nat
  caravan : Nat
  pass : Nat
  tag : Word
  kind : OpKind
  state : OpState
  progress : Nat
  status : BitVec 8
  settled : Nat
  flags : BitVec 11
  batch : Option Word
  data : List Byte
  pages : List (Nat × Nat)
  lost : Nat
  stopped : Bool
  cursor : Nat
  result : Nat
  blocks : Nat
  rows : List AttnRow
  source : List KeyPage
  walk : Option Walk
  deriving DecidableEq, Repr

/-! ### Cores -/

inductive ClaimKind
  /-- a quota increase of a warp to a target (R174) -/
  | grow (warp quota : Nat)
  /-- the restore of a spilled warp (R176) -/
  | restore (warp : Nat)
  /-- the launch of the next due pass of a caravan (R178) -/
  | launch (caravan pass : Nat)
  deriving DecidableEq, Repr

/-- A claim on a core's free registers (R173). -/
structure Claim where
  ordinal : Word
  size : Nat
  kind : ClaimKind
  deriving DecidableEq, Repr

/-- A line of an L1 with its lease (R224), or of a path cache, whose grant and expiry count for nothing (R226). The warps of
`notFor` have stored to the line since it was granted, and do not hit it. -/
structure CacheLine where
  line : Nat
  grant : Nat
  expiry : Nat
  data : List Byte
  notFor : List Nat
  deriving DecidableEq, Repr

/-- A translation held by a TLB (R293): the page's first VA and size, its frame and its leaf entry's word. -/
structure TlbEntry where
  ctx : Nat
  va : Nat
  size : Nat
  leaf : DWord
  leafAt : Nat
  deriving DecidableEq, Repr

/-- An access that the part makes in a context's memory on the context's behalf (R388), by what it belongs to. -/
inductive PartAccess
  /-- the status slot and the status header that the end of a warp's pass writes, and DONE of a caravan (R181) -/
  | slot (warp : Nat)
  | header (warp : Nat)
  | done (caravan : Nat)
  /-- a packet's own accesses, its completion word and HEAD of its queue (R340 to R342) -/
  | packet (queue index : Nat)
  | word (queue index : Nat)
  | head (queue : Nat)
  /-- a mailbox post of a debug context (R312), a trace record of a warp (R317), a sampler's rows and records (R322, R323) -/
  | post (ctx : Nat)
  | trace (warp : Nat)
  | sampler (cluster : Nat)
  /-- a task queue's ring and the blocks of its template (R351, R354), the blocks of a child of a warp (R349) -/
  | ring (queue : Nat)
  | child (warp : Nat)
  /-- an access that the fabric asks for, by the context (R374, R384) -/
  | fabric (ctx : Nat)
  deriving DecidableEq, Repr

/-- Who asked for a translation: a warp, an engine operation, or the part itself on a context's behalf (R388). -/
inductive Requester
  | warp (id : Nat)
  | engine (op : Nat)
  | part (what : PartAccess)
  deriving DecidableEq, Repr

/-- The KIND of a fault record (R296). -/
inductive AccessKind
  | read | write | fetch | engine
  deriving DecidableEq, Repr

/-- A translation miss that waits for a walker (R294). -/
structure WalkRequest where
  core : Nat
  ctx : Nat
  va : Nat
  kind : AccessKind
  who : Requester
  deriving DecidableEq, Repr

/-- An open entry of a die's fault queue (R295): the page's first VA and its size. -/
structure FaultEntry where
  seq : Nat
  ctx : Nat
  va : Nat
  size : Nat
  reason : Nat
  waiters : List WalkRequest
  deriving DecidableEq, Repr

/-- A watchpoint entry of a core (R310). -/
structure Watchpoint where
  caravan : Nat
  start : Nat
  len : Nat
  reads : Bool
  trap : Bool
  deriving DecidableEq, Repr

/-- An activation table slot (R239): both copies as table images, and CUR; the cycle of the cluster in which `tblsw` last switched
it, with CUR as that cycle began (R241). -/
structure TableSlot where
  copy0 : Memory
  copy1 : Memory
  cur : Bool
  switched : Option (Int × Bool)
  deriving DecidableEq, Repr

/-- An entry of the weight buffer's region table (R205); `entered` is false while its `wbld` runs (R218). -/
structure Region where
  offset : Nat
  k : Nat
  n : Nat
  fmt : Nat
  blk : Nat
  sparse : Bool
  seed : Word
  size : Nat
  entered : Bool
  op : Nat
  deriving DecidableEq, Repr

/-- An unsettled operation on a tile slot (R211): the operation, its warp, whether it writes the slot, its batch once
closed. -/
structure Unsettled where
  slot : Nat
  op : Nat
  warp : Nat
  writer : Bool
  batch : Option Word
  /-- the operation is still in its warp's open set (R209) -/
  open_ : Bool
  deriving DecidableEq, Repr

structure Core where
  free : Nat
  nextOrdinal : Word
  claims : List Claim
  /-- the cycle of its cluster in which a warp last issued a run (R176) -/
  lastIssue : Int
  l1 : List CacheLine
  constCache : List CacheLine
  tileCache : List CacheLine
  tlb : List TlbEntry
  watchpoints : List (Option Watchpoint)
  copyQueue : List EngineOp
  tableQueue : List EngineOp
  loaderQueue : List EngineOp
  matrixQueue : List EngineOp
  tables : List TableSlot
  tiles : List (List Lanes)
  unsettled : List Unsettled
  weights : Memory
  regions : List Region
  deriving DecidableEq, Repr

inductive LockSpace
  | memory (ctx : Nat)
  | scratch (core caravan : Nat)
  deriving DecidableEq, Repr

/-- A range lock (R227): first and last 256-byte granule, kind and owner. -/
structure RangeLock where
  space : LockSpace
  first : Nat
  last : Nat
  write : Bool
  owner : Nat
  deriving DecidableEq, Repr

/-- A party entry (R249) with the caravan and slot it serves. -/
structure Party where
  caravan : Nat
  slot : Nat
  members : BitVec 8
  arrived : BitVec 8
  phase : Word
  /-- the cycle of the latest arrival or adjustment, and its warp's ordinal (R252) -/
  last : Option (Int × Word)
  deriving DecidableEq, Repr

/-- A cluster's power block and charge bucket (R254, R255): levels in units of 2^-8 by context, the cycle number, and
the schedulers already tested in the present cycle (R257). -/
structure Power where
  weights : List Nat
  cap : Nat
  target : Nat
  rate : Nat
  mres : Nat
  high : Bool
  lastRail : Option Nat
  lastRate : Nat
  levels : Tbl Nat
  cycle : Nat
  tested : List Nat
  deriving DecidableEq, Repr

/-- A record of a tagged instruction not yet written (R323): its bytes 0x08 to 0x29, its flags, the level that has served it so far,
none for a home, whether LPDDR 6 lies behind that home by the TIER of a page it accesses, and the load whose data it waits for. -/
structure TagRecord where
  head : List Byte
  flags : Nat
  level : Option Nat
  lpddr : Bool
  load : Option Nat
  deriving DecidableEq, Repr

/-- A cluster's sampler (R321 to R323): its owner and configuration, its counters from code 0 up, the tick and the cycle of its start,
the ticks on the high rail before the rail last changed and the tick of that change, the next row and tagged record, and L and C of
each of the eight schedulers. -/
structure Sampler where
  owner : Option Nat
  running : Bool
  interval : Nat
  nctr : Nat
  tagged : Bool
  ring : Nat
  rsize : Nat
  period : Nat
  tring : Nat
  tsize : Nat
  seed : Nat
  ctr : List Nat
  counts : List Nat
  start : Nat
  startCycle : Nat
  highTicks : Nat
  railSince : Nat
  row : Nat
  tagRow : Nat
  lfsr : List Nat
  countdown : List Nat
  pending : List TagRecord
  deriving DecidableEq, Repr

structure Cluster where
  locks : List RangeLock
  tlb : List TlbEntry
  fused : Bool
  requests : Tbl (BitVec 2)
  /-- by context, the cycle in which its level was last set and the levels that its warps asked for in that cycle (R258) -/
  asked : Tbl (Int × Tbl (BitVec 2))
  coupling : Option Nat
  parties : Tbl Party
  power : Power
  sampler : Sampler
  selection : List EngineOp
  attention : List EngineOp
  fabric : List EngineOp
  holdPlaced : Bool
  holding : Bool
  deriving DecidableEq, Repr

structure Die where
  tlb : List TlbEntry
  requests : List WalkRequest
  faults : List FaultEntry
  seq : Nat
  balance : Tbl Int
  lastToken : Tbl Nat
  waiting : List Nat
  deriving DecidableEq, Repr

/-! ### Contexts (R355), partitions (R343, R300) and code objects (R42) -/

/-- A debugger's report that waits for its slot (R312, R313): bytes 0x08 to 0x3F, the slot once it is claimed, and the warp whose
halt or end waits with it. -/
structure Report where
  bytes : List Byte
  slot : Option Nat
  owner : Option Nat
  deriving DecidableEq, Repr

/-- A context as loaded (R355), and what the part keeps for it: headroom (R372), breakpoints (R306), its debug target
(R303), reports on the way (R312), frames in use (R356), and slack control (R386). -/
structure Context where
  partition : Nat
  secure : Bool
  haltOnFault : Bool
  debug : Bool
  lease : Nat
  root : Nat
  wq : List Nat
  weight : Nat
  btok : Nat
  budget : Nat
  save : Nat
  nframes : Nat
  fring : Nat
  hring : Nat
  lring : Nat
  mbase : Nat
  msize : Nat
  livet : BitVec 21
  liveWb : Bool
  headroom : Bool
  tdpHeld : Bool
  frames : List Nat
  breakpoints : List (Nat × Nat)
  target : Option Nat
  reports : List Report
  fcap : Nat
  samples : List (Int × Nat)
  /-- the frames that hold what a stop saved beyond its warps (R356) -/
  stopFrames : List Nat
  lastChange : Nat
  deriving DecidableEq, Repr

/-- Who raised a halt line, and so who may lower it (R314, R316 status 10). -/
inductive HaltHolder
  | preempt
  | fault
  | debug (ctx : Nat)
  | alarm
  deriving DecidableEq, Repr

/-- A stop record (R358) as its 32 bytes. -/
abbrev StopRecord := List Byte

/-- A partition: its clusters and world, the tick at which its halt line rose and who holds it, the stop records of the
present stop, a halt report that a debugger is owed (R314), and what its stops have taken off its clusters (R192, R357): numbers
from 288 up, under which `cores` and `clusters` hold it until it is placed again. -/
structure Partition where
  clusters : List Nat
  secure : Bool
  halt : Option Nat
  holders : List HaltHolder
  stops : List StopRecord
  haltReport : Option Nat
  saved : List Nat
  deriving DecidableEq, Repr

def Partition.initial : Partition :=
  { clusters := [], secure := false, halt := none, holders := [], stops := [], haltReport := none,
    saved := [] }

/-- A safe-point record (R43). -/
structure SafePoint where
  ord : Nat
  header : Nat
  slive : BitVec 64
  vlive : BitVec 128
  plive : BitVec 8
  hlive : BitVec 16
  deriving DecidableEq, Repr

/-- A code object that the loader accepted and placed for a context (R42 to R46). -/
structure CodeObject where
  ctx : Nat
  objId : Nat
  base : Nat
  size : Nat
  entries : List Nat
  safePoints : List SafePoint
  deriving DecidableEq, Repr

/-! ### The front end (R340 to R354) -/

/-- A packet (R341): its index in its ring, or a number of its own where the firmware put it into the lane. -/
structure Packet where
  index : Nat
  ring : Bool
  bytes : List Byte
  deriving DecidableEq, Repr

/-- A packet that has been begun and is not yet complete. -/
structure OpenPacket where
  packet : Packet
  /-- The status and detail to write once the packet's effect is made; none while it is not. -/
  result : Option (Nat × Nat)
  /-- The device time at which every write of its effect is complete. -/
  due : Nat
  deriving DecidableEq, Repr

/-- A host queue (R340, R346). A lane also takes the CONFIG packets of the firmware while its queue is not bound (R343).
`readTail`: TAIL is to be read; `headDue`: HEAD is to be written; `stalled`: the lane's packet has been taken by its handler
and waits for a page. -/
structure HostQueue where
  bound : Bool
  ctx : Nat
  control : Nat
  weight : Nat
  deficit : Int
  head : Nat
  tail : Nat
  readTail : Bool
  headDue : Bool
  stalled : Bool
  lane : Option Packet
  inFlight : List OpenPacket
  deriving DecidableEq, Repr

/-- A launch (R345): the packet it came from, its counter, and the passes terminated in it. -/
structure LaunchState where
  queue : Nat
  packet : Nat
  ctx : Nat
  dies : BitVec 4
  counter : Int
  terminated : Nat
  aborted : Bool
  deriving DecidableEq, Repr

/-- A task of a task queue with the launch that pushed it and the time of its push (R351, R354). -/
structure Task where
  value : DWord
  launch : Nat
  time : Nat
  deriving DecidableEq, Repr

/-- A task queue (R351): the on-die tasks, the entry, launch and push time of each whose value its ring in memory holds, the number of
the next entry, how many tasks from the head a TQFLUSH is still to launch, and the on-die tasks that a stop has saved (R357). -/
structure TaskQueue where
  ctx : Nat
  ring : Nat
  rsize : Nat
  template : LaunchRecord
  onDie : List Task
  ringTasks : List (Nat × Nat × Nat)
  ringNext : Nat
  flush : Nat
  saved : List Task
  deriving DecidableEq, Repr

/-! ### The fabric (R376 to R386) -/

structure PeerEntry where
  addr : BitVec 128
  rctx : Nat
  valid : Bool
  secure : Bool
  deriving DecidableEq, Repr

structure ConvoyEntry where
  ctx : Nat
  member : Nat
  members : Nat
  parent : Nat
  slackctl : Bool
  children : List Nat
  childMembers : List Nat
  deriving DecidableEq, Repr

/-- A synchronous collective at this package's router: the local contribution and those of the children by their place,
whether it has been combined and sent on, and T_in and T_out (R385). The convoy is numbered over all partitions. -/
structure Collective where
  convoy : Nat
  seq : Nat
  own : Option Contribution
  children : Tbl Contribution
  sent : Bool
  result : Option Contribution
  tin : Nat
  tout : Nat
  deriving DecidableEq, Repr

/-- T_in and T_out of a synchronous collective whose result has reached this package, and THR of the result (R385). -/
structure SlackTime where
  convoy : Nat
  seq : Nat
  tin : Nat
  tout : Nat
  thr : Bool
  deriving DecidableEq, Repr

/-- What the fabric carries out of the package, in the order it was sent: packets of at most 4,096 bytes, each with the mark of the
transport security sublayer where it travels under that (R373). -/
inductive Outgoing
  /-- the puts of an `fput` (R382) -/
  | put (op peer rctx va : Nat) (secure ord : Bool) (bytes : List Byte)
  /-- the request of an `fget` (R382) -/
  | get (op peer rctx va n : Nat) (secure ord : Bool)
  /-- a combined contribution to the parent, from a byte of it on (R378) -/
  | contribution (peer convoy seq : Nat) (secure : Bool) (from_ : Nat) (c : Contribution)
  /-- a result sent down to a child (R378), or data of an `mcast`, the last of them with its note (R384) -/
  | result (peer convoy seq : Nat) (secure : Bool) (from_ : Nat) (c : Contribution)
  | multicast (peer dst note : Nat) (noteVal : DWord) (secure : Bool) (bytes : List Byte)
  /-- an acknowledgement of a put and the device time before which it is not sent, or the answer to a get from a byte on (R374) -/
  | ack (secure : Bool) (status due : Nat)
  | answer (secure : Bool) (status from_ : Nat) (bytes : List Byte)
  deriving DecidableEq, Repr

/-- The note of an `mcast` that waits for the writes before it (R384): its address in a context, its value, the completion time of
those writes, and their STATUS. -/
structure PendingNote where
  ctx : Nat
  va : Nat
  value : DWord
  due : Nat
  status : BitVec 8
  deriving DecidableEq, Repr

/-- The fabric of the package: tables by partition, the order of collectives by convoy, their times, what is sent, notes on their way,
peers down by partition, what waits for one of them with its partition, packets dropped and doorbells dropped. -/
structure Fabric where
  peers : Tbl (Tbl PeerEntry)
  convoys : Tbl (Tbl ConvoyEntry)
  issued : Tbl Nat
  tout : List SlackTime
  collectives : List Collective
  out : List Outgoing
  notes : List PendingNote
  down : List (Nat × Nat)
  held : List (Nat × Outgoing)
  dropped : Nat
  doorbellsDropped : Nat
  deriving DecidableEq, Repr

/-! ### Security (R361 to R370) -/

/-- The source of an alarm (R363). -/
inductive AlarmSource
  | poison | violations | voltage | clock | tamper | failedStarts
  deriving DecidableEq, Repr

structure AlarmEntry where
  source : AlarmSource
  time : Nat
  detail : Nat
  deriving DecidableEq, Repr

/-- The security processor: whether the part is powered, in recovery and started, the alarm and its log, the key store,
the failed starts in a row, and the measurement log. -/
structure Security where
  powered : Bool
  recovery : Bool
  started : Bool
  alarm : Nat
  log : List AlarmEntry
  logCount : Nat
  pageKey : BitVec 256
  keysPresent : Bool
  boots : Nat
  failedStarts : Nat
  measurements : List (BitVec 256)
  acceptWritten : Bool
  /-- the physical address of the attestation window, as the start status reports it (R368) -/
  startStatus : Nat
  deriving DecidableEq, Repr

/-! ### Whose turn it is -/

/-- An entry of the agenda: which agent moves next. `event` is a row of the table that is the part's own or the outside's
doing; `warp` makes a warp current and runs its next instruction; `tick` lets device time pass; the evictions are those
that R224, R226, R293 and R327 leave open, of a TLB at level 0 (a core's), 1 (a cluster's) or 2 (a die's); `loadObject` gives the
loader an object for a context and an address for its code section (R44 to R46), `config` gives a lane a CONFIG packet of the
firmware (R343), and `flushTrace` writes the records of a traced warp that wait (R319). -/
inductive Turn
  | event (e : Instr)
  | warp (id : Nat)
  | tick (n : Nat)
  | evictL1 (core line : Nat)
  | evictConst (core line : Nat)
  | evictTile (core line : Nat)
  | evictTlb (level unit ctx va : Nat)
  | evictL2 (line : Nat)
  | loadObject (ctx base : Nat) (bytes : List Byte)
  | config (lane : Nat) (bytes : List Byte)
  | flushTrace (w : Nat)
  deriving DecidableEq, Repr

/-! ### The part -/

structure State where
  time : Nat
  agenda : List Turn
  rr : Nat
  others : Bool
  cur : Nat
  nextId : Nat
  nextCaravan : Nat
  mem : Memory
  /-- the lines that the L2 holds, each with its E, the least recently used first (R327, R328) -/
  lineE : Tbl Nat
  evx : Tbl Nat
  /-- frames that moves have freed and that their rings have had no room for, each with its ring (R330) -/
  owed : List (Nat × Nat)
  tagv : Tbl DWord
  warps : Tbl Warp
  caravans : Tbl Caravan
  cores : Tbl Core
  clusters : Tbl Cluster
  dies : Tbl Die
  contexts : Tbl Context
  partitions : Tbl Partition
  objects : List CodeObject
  loader : Option Nat
  queues : Tbl HostQueue
  arbiter : Nat
  launches : Tbl LaunchState
  taskQueues : Tbl TaskQueue
  fabric : Fabric
  security : Security
  featAccept : BitVec 128
  featOffer : BitVec 128
  violations : List Nat
  lastHeadroom : Nat
  /-- accesses of the part that FAIL has answered, each with the context and the unit of 64 KiB (R388) -/
  dropped : List (PartAccess × Nat × Nat)
  deriving DecidableEq, Repr

/-! ### Reset -/

def Fabric.reset : Fabric :=
  { peers := [], convoys := [], issued := [], tout := [], collectives := [], out := [], notes := [], down := [], held := [], dropped := 0,
    doorbellsDropped := 0 }

/-- The security processor before power-on: alarm 0 (R363), no key, an empty log, and a fused counter of 0 (R366; the part as
delivered, assumption log 4). -/
def Security.reset : Security :=
  { powered := false, recovery := false, started := false, alarm := 0, log := [], logCount := 0, pageKey := 0,
    keysPresent := false, boots := 0, failedStarts := 0, measurements := [], acceptWritten := false, startStatus := 0 }

/-- The machine right after reset: device time reads 0 (R9), FEAT_ACCEPT reads zero (R370), nothing is loaded, bound, placed or
resident, and every table is empty, so that each core, cluster, die and queue is in its initial state. The boot ROM has not
run (R365). `agenda`, `rr`, `others`, `cur` and `nextId` are the model's own (assumption log 1), and so is `nextCaravan` (assumption
log 14). -/
def State.reset : State :=
  { time := 0, agenda := [], rr := 0, others := false, cur := 0, nextId := 1, nextCaravan := 1, mem := [], lineE := [],
    evx := [], owed := [], tagv := [], warps := [], caravans := [], cores := [], clusters := [], dies := [], contexts := [],
    partitions := [], objects := [], loader := none, queues := [], arbiter := 0, launches := [], taskQueues := [],
    fabric := Fabric.reset, security := Security.reset, featAccept := 0, featOffer := 0, violations := [], lastHeadroom := 0,
    dropped := [] }

end Sys2Proof.Machine
end

