-- ==== Sys2Proof/Machine/Memory.lean ====
section
/-! DEFINITION. Bytes of memory: reading, writing and the canonical form, with byte strings read little-endian (R11). -/

namespace Sys2Proof.Machine

/-- What an address that no cell lists reads as. The spec gives no contents for memory after power-on; the model
takes 0 (DESIGN CHOICE, assumption log 3, unsafe). Scratchpad bytes and weight-buffer bytes are held the same way. -/
def unlistedByte : Byte := 0

/-- The byte at an address. -/
def Memory.read (m : Memory) (a : Nat) : Byte :=
  match m with
  | [] => unlistedByte
  | (b, v) :: rest => if b = a then v else Memory.read rest a

/-- Removes an address, which then reads as `unlistedByte`. -/
def Memory.clear (m : Memory) (a : Nat) : Memory :=
  match m with
  | [] => []
  | (b, v) :: rest => if b = a then Memory.clear rest a else (b, v) :: Memory.clear rest a

/-- Puts a cell at its place in ascending order. -/
def Memory.insert (m : Memory) (a : Nat) (v : Byte) : Memory :=
  match m with
  | [] => [(a, v)]
  | (b, u) :: rest =>
    if a = b then (a, v) :: rest
    else if a < b then (a, v) :: (b, u) :: rest
    else (b, u) :: Memory.insert rest a v

/-- Writes one byte; writing what an unlisted address reads as removes the cell. -/
def Memory.write (m : Memory) (a : Nat) (v : Byte) : Memory :=
  if v = unlistedByte then Memory.clear m a else Memory.insert m a v

/-- Every address of the memory lies above `lo`, where there is one, addresses rise strictly and no cell holds
what an unlisted address reads as. -/
def Memory.wfFrom (lo : Option Nat) (m : Memory) : Bool :=
  match m with
  | [] => true
  | (a, v) :: rest =>
    (match lo with
     | none => true
     | some b => decide (b < a)) && decide (v ≠ unlistedByte) && Memory.wfFrom (some a) rest

/-- The canonical form: equal contents are equal lists. -/
def Memory.wf (m : Memory) : Bool := Memory.wfFrom none m

/-- The `n` bytes from an address up. -/
def Memory.readBytes (m : Memory) (a n : Nat) : List Byte := (List.range n).map fun i => Memory.read m (a + i)

/-- Writes a byte string from an address up, lowest address first. -/
def Memory.writeBytes (m : Memory) (a : Nat) (bytes : List Byte) : Memory :=
  match bytes with
  | [] => m
  | b :: rest => Memory.writeBytes (Memory.write m a b) (a + 1) rest

/-- The value of a byte string, lowest-addressed byte first (R11). -/
def bytesNat (bytes : List Byte) : Nat :=
  match bytes with
  | [] => 0
  | b :: rest => b.toNat + 256 * bytesNat rest

/-- The `n` low bytes of a value, lowest first. -/
def natBytes (n v : Nat) : List Byte :=
  match n with
  | 0 => []
  | k + 1 => BitVec.ofNat 8 v :: natBytes k (v / 256)

/-- The little-endian value of `n` bytes at an address. -/
def Memory.readNat (m : Memory) (a n : Nat) : Nat := bytesNat (Memory.readBytes m a n)

/-- Writes a value as `n` little-endian bytes. -/
def Memory.writeNat (m : Memory) (a n v : Nat) : Memory := Memory.writeBytes m a (natBytes n v)

/-- The 32-bit word at an address. -/
def Memory.readWord (m : Memory) (a : Nat) : Word := BitVec.ofNat 32 (Memory.readNat m a 4)

/-- The 64-bit value at an address. -/
def Memory.readDWord (m : Memory) (a : Nat) : DWord := BitVec.ofNat 64 (Memory.readNat m a 8)

end Sys2Proof.Machine
end

