-- ==== Sys2Proof/Machine/Ops.lean ====
section
/-! DEFINITION. The named operations every meaning is built from: registers, the mask, the run, home writes, and taking
an exception and returning from one. -/

namespace Sys2Proof.Machine

/-! ### Lists by index -/

/-- Element `n` of a list that reads as `d` beyond its end. -/
def listGet (d : α) (l : List α) (n : Nat) : α := l.getD n d

/-- Replaces element `n`, padding the list with `d` where it is shorter. -/
def listPut (d : α) (l : List α) (n : Nat) (x : α) : List α :=
  match l, n with
  | [], 0 => [x]
  | [], n + 1 => d :: listPut d [] n x
  | _ :: rest, 0 => x :: rest
  | y :: rest, n + 1 => y :: listPut d rest n x

/-- The lanes of a function of the thread number. -/
def lanesOf (f : Nat → Word) : Lanes := (List.range 96).map f

/-- The element of a thread. -/
def lane (l : Lanes) (t : Nat) : Word := listGet 0 l t

/-- The mask whose bit t is `f t`. -/
def maskOf (f : Nat → Bool) : BitVec 96 :=
  BitVec.ofNat 96 ((List.range 96).foldl (fun acc t => acc + if f t then 2 ^ t else 0) 0)

/-- The threads of a mask in ascending order. -/
def threadsOf (m : BitVec 96) : List Nat := (List.range 96).filter fun t => m.getLsbD t

/-! ### Warps and caravans of a state -/

def State.setWarp (s : State) (id : Nat) (w : Warp) : State := { s with warps := Tbl.put s.warps id w }

def State.warp? (s : State) (id : Nat) : Option Warp := Tbl.find s.warps id

/-- The warp whose instruction executes. -/
def State.curWarp (s : State) : Option Warp := Tbl.find s.warps s.cur

def State.setCaravan (s : State) (id : Nat) (c : Caravan) : State :=
  { s with caravans := Tbl.put s.caravans id c }

def State.caravan? (s : State) (id : Nat) : Option Caravan := Tbl.find s.caravans id

/-- Applies a change to a warp, if it is resident. -/
def State.updWarp (s : State) (id : Nat) (f : Warp → Warp) : State :=
  match s.warp? id with
  | some w => s.setWarp id (f w)
  | none => s

def State.updCaravan (s : State) (id : Nat) (f : Caravan → Caravan) : State :=
  match s.caravan? id with
  | some c => s.setCaravan id (f c)
  | none => s

/-- The declared track count of a warp's caravan (R28, R184). -/
def State.tracksOf (s : State) (w : Warp) : Nat :=
  match s.caravan? w.caravan with
  | some c => c.record.tracks
  | none => 0

/-! ### Serial numbers (R168, R210) -/

/-- a counts as lower than or equal to b: serial comparison modulo 2^32. -/
def serialLe (a b : Word) : Bool := decide ((b - a).toNat < 2 ^ 31)

/-- The launch ordinal a is older than b (R168). -/
def older (a b : Word) : Bool := a != b && serialLe a b

/-! ### Scalar registers (R27, R50) -/

/-- The value of a scalar register: s0 reads as zero. -/
def Warp.sreg (w : Warp) (r : BitVec 6) : Word := if r = 0 then 0 else listGet 0 w.scalars r.toNat

/-- Writes a scalar register: s0 ignores the write, and a write to s56 to s59 is ignored and sets TINFO bit 0. -/
def Warp.setS (w : Warp) (r : BitVec 6) (v : Word) : Warp :=
  if r = 0 then w
  else if 56 ≤ r.toNat ∧ r.toNat ≤ 59 then { w with tinfo := w.tinfo ||| 1 }
  else { w with scalars := listPut 0 w.scalars r.toNat v }

/-- A register pair, the even register holding the low word. -/
def Warp.spair (w : Warp) (r : BitVec 6) : DWord := w.sreg (r + 1) ++ w.sreg r

/-- Writes a pair, low half first (R95). -/
def Warp.setPair (w : Warp) (r : BitVec 6) (v : DWord) : Warp :=
  (w.setS r (v.extractLsb' 0 32)).setS (r + 1) (v.extractLsb' 32 32)

/-- The activity mask: bit t is thread t's (R56). -/
def Warp.mask (w : Warp) : BitVec 96 := w.sreg 63 ++ w.sreg 62 ++ w.sreg 61

def Warp.setMask (w : Warp) (m : BitVec 96) : Warp :=
  ((w.setS 61 (m.extractLsb' 0 32)).setS 62 (m.extractLsb' 32 32)).setS 63 (m.extractLsb' 64 32)

/-! ### The run and the next instruction (R21, R59) -/

/-- A load into a temporary still on its way brings nothing once the run has ended (R53). -/
def PendingLoad.forget (l : PendingLoad) : PendingLoad :=
  if 0x78 ≤ l.vd.toNat ∧ l.vd.toNat < 0x7C then { l with vd := 0x7C } else l

/-- What `trc.off` asked for takes effect at a run boundary: nothing more is emitted (R320). -/
def TraceState.atBoundary (t : TraceState) : TraceState :=
  if t.off then { t with started := false, anchorSafe := false, anchorNext := false } else t

/-- Leaves the run for the run header at the offset: temporaries are gone (R53), no low index has been read in the run that
follows (R98), and no debugger has released the warp at that header (R305). -/
def Warp.leaveRun (w : Warp) (off : Nat) : Warp :=
  { w with next := off, resume := none, run := none, startIdx := 0, idx := 0, pos := 1, remainder := false, phase := .fetch,
           temps := [], wroteTemps := 0, operands := none, loads := w.loads.map PendingLoad.forget, readLow := 0, skipBreak := false,
           trace := w.trace.map TraceState.atBoundary }

/-- The code offset of the instruction in issue. -/
def Warp.here (w : Warp) : Nat :=
  match w.run with
  | some r => r.header + 4 * w.pos
  | none => w.next

/-- The words of the instruction in issue. -/
def Warp.instrWords (w : Warp) : Word × Word :=
  match w.run with
  | some r => (listGet 0 r.words w.pos, listGet 0 r.words (w.pos + 1))
  | none => (0, 0)

/-- The code offset that follows the instruction in issue. -/
def Warp.after (w : Warp) : Nat := w.here + 4 * wordCount w.instrWords.1

/-- The instruction in issue is the last of its run. -/
def Warp.lastOfRun (w : Warp) : Bool :=
  match w.run with
  | some r => w.idx + 1 ≥ r.len
  | none => true

/-- Completes the instruction in issue: the next one of the run follows, or the run that stands behind this one. -/
def Warp.advance (w : Warp) : Warp :=
  if w.lastOfRun then w.leaveRun w.after
  else { w with idx := w.idx + 1, pos := w.pos + wordCount w.instrWords.1, operands := none, phase := .issuing }

/-! ### Exceptions (R159 to R163, R166) -/

/-- The causes of R159. -/
inductive Cause
  | illegalInstruction | badRunHeader | misplacedBranch | illegalOperand | trackRewrite | rangeConflict
  | translationFault | protection | misaligned | shapeMismatch | formatInvalid | timer | breakpoint
  | softwareTrap | partyIllegal | divergenceOverflow | watchpoint | pageLost | classViolation
  deriving DecidableEq, Repr

/-- The TCAUSE code of a cause. -/
def Cause.code : Cause → BitVec 8
  | .illegalInstruction => 0x01
  | .badRunHeader => 0x02
  | .misplacedBranch => 0x03
  | .illegalOperand => 0x04
  | .trackRewrite => 0x05
  | .rangeConflict => 0x06
  | .translationFault => 0x07
  | .protection => 0x08
  | .misaligned => 0x09
  | .shapeMismatch => 0x0A
  | .formatInvalid => 0x0B
  | .timer => 0x0C
  | .breakpoint => 0x0D
  | .softwareTrap => 0x0E
  | .partyIllegal => 0x0F
  | .divergenceOverflow => 0x10
  | .watchpoint => 0x11
  | .pageLost => 0x12
  | .classViolation => 0x13

/-- The Maskable column of R159. -/
def Cause.maskable : Cause → Bool
  | .timer | .watchpoint => true
  | _ => false

/-- The Handler column of R159. -/
def Cause.hasHandler : Cause → Bool
  | .trackRewrite | .translationFault => false
  | _ => true

/-- The TINFO bits a cause writes, and what it writes there (R160). -/
structure TrapFields where
  mask : Word
  value : Word
  deriving DecidableEq, Repr

def TrapFields.none : TrapFields := ⟨0, 0⟩

/-- THREAD, SPACE and DETAIL of a memory cause (R142, R160). -/
def TrapFields.memory (thread : Nat) (scratch : Bool) (detail : Nat) : TrapFields :=
  ⟨0x000FFF00, (BitVec.ofNat 4 detail ++ (if scratch then 1#1 else 0#1) ++ BitVec.ofNat 7 thread).zeroExtend 32 <<< 8⟩

/-- DETAIL of an illegal operand: 0 static, 1 quota. -/
def TrapFields.detail (detail : Nat) : TrapFields := ⟨0x000F0000, (BitVec.ofNat 32 detail) <<< 16⟩

/-- CODE of `trap` and `brk`. -/
def TrapFields.code (code : BitVec 12) : TrapFields := ⟨0x0FFF0000, (code.zeroExtend 32) <<< 16⟩

def TrapFields.apply (f : TrapFields) (tinfo : Word) : Word := (tinfo &&& ~~~f.mask) ||| (f.value &&& f.mask)

/-- The warp after a cause has been written to TCAUSE, TRUN, TIDX and TINFO. -/
def Warp.writeCause (w : Warp) (cause : Cause) (run : Nat) (idx : Word) (f : TrapFields) : Warp :=
  { w with tcause := cause.code.zeroExtend 32, trun := BitVec.ofNat 32 run, tidx := idx, tinfo := f.apply w.tinfo }

/-- TINFO[1] takes the trap mask as it stands (R161). -/
def Warp.keepMask (w : Warp) : Warp := { w with tinfo := (w.tinfo &&& ~~~(2 : Word)) ||| (if w.trapMask then 2 else 0) }

/-! ### Trace records (R317, R318) and debugger reports (R313) -/

/-- Bytes 0x08 to 0x3F of a trace record: kind, WREC, the warp, the time and the payload. -/
def Warp.traceBytes (w : Warp) (now kind wrec : Nat) (payload : List Byte) : List Byte :=
  natBytes 1 kind ++ natBytes 1 0 ++ natBytes 2 wrec ++ natBytes 4 w.caravan ++ natBytes 4 w.pass ++ natBytes 4 w.core
    ++ natBytes 8 now ++ payload ++ natBytes (32 - payload.length) 0

/-- Emits a record of a traced warp: it waits to be claimed and written. A warp whose first ANCHOR is still owed emits
nothing (R319). -/
def Warp.traceAdd (w : Warp) (now kind : Nat) (payload : List Byte) : Warp :=
  match w.trace with
  | none => w
  | some tr =>
    if tr.started then
      let n := min 65535 (tr.wrec + 1)
      { w with trace := some { tr with wrec := n, waiting := tr.waiting ++ [(tr.ring, w.traceBytes now kind n payload)] } }
    else w

/-- A PREEMPT trace record (R318). -/
def Warp.tracePreempt (w : Warp) (now hdr reason : Nat) : Warp :=
  w.traceAdd now 5 (natBytes 4 hdr ++ natBytes 4 reason)

/-- Marks an ANCHOR as owed at the next boundary, where the first one has been emitted (R319). -/
def Warp.anchorOwed (w : Warp) : Warp :=
  match w.trace with
  | some tr => { w with trace := some { tr with anchorNext := tr.anchorNext || tr.started } }
  | none => w

/-- The depth of the reconvergence stack, on chip and spilled (R63). -/
def Warp.depth (w : Warp) : Nat := w.stack.length + w.spilled

/-- A report's bytes 0x08 to 0x3F (R313). -/
def Warp.reportBytes (w : Warp) (kind wnum ord : Nat) (mask : BitVec 96) (info info2 now objId : Nat) : List Byte :=
  natBytes 1 kind ++ natBytes 1 wnum ++ natBytes 2 ord ++ natBytes 4 w.caravan ++ natBytes 4 w.pass ++ natBytes 4 w.core
    ++ natBytes 12 mask.toNat ++ natBytes 2 w.depth ++ natBytes 2 0 ++ natBytes 4 info ++ natBytes 4 info2
    ++ natBytes 8 now ++ natBytes 8 objId

/-- Hands a report about a context, or about a warp of it, to every debug context attached to the context (R303, R312). -/
def State.report (s : State) (target : Nat) (owner : Option Nat) (bytes : List Byte) : State :=
  let add (c : Context) : Context :=
    if c.target = some target then { c with reports := c.reports ++ [Report.mk bytes none owner] } else c
  { s with contexts := s.contexts.map fun p => (p.1, add p.2) }

/-- A report about the warp is not yet posted: what it reports waits with it (R312). -/
def State.posting (s : State) (id : Nat) : Bool := s.contexts.any fun p => p.2.reports.any fun r => r.owner == some id

/-- The code object a warp runs. -/
def State.objOf (s : State) (w : Warp) : Nat :=
  match s.caravan? w.caravan with
  | some c => c.objId
  | none => 0

/-! ### Halt lines (R300) -/

/-- The partition of a context. -/
def State.partitionOf (s : State) (ctx : Nat) : Nat :=
  match Tbl.find s.contexts ctx with
  | some c => c.partition
  | none => 0

/-- The halt line of the partition of a warp's context is up (R300). -/
def State.halted (s : State) (w : Warp) : Bool :=
  match Tbl.find s.contexts w.ctx with
  | some c => (Tbl.findD s.partitions c.partition Partition.initial).halt.isSome
  | none => false

/-- A halt is deferred: the warp is in a masked handler and 20 us have not passed since the rise of the line (R165). -/
def State.defers (s : State) (w : Warp) : Bool :=
  w.handlerActive && w.trapMask &&
    match (Tbl.findD s.partitions (s.partitionOf w.ctx) Partition.initial).halt with
    | some rise => decide (s.time < rise + 20000)
    | none => true

/-- A warp that comes into a masked handler under a raised line has its stop deferred, which its stop record tells (R165). -/
def State.noteDeferral (s : State) (w : Warp) : Warp := { w with wasDeferred := w.wasDeferred || (s.halted w && s.defers w) }

/-- A rising line finds the warp in a masked handler, which defers its stop (R165). -/
def Warp.markDeferred (w : Warp) : Warp := { w with wasDeferred := w.wasDeferred || (w.handlerActive && w.trapMask) }

/-- Raises the halt line of a partition for a holder; the tick of its rising stands while it is up. -/
def State.raiseHalt (s0 : State) (partition : Nat) (holder : HaltHolder) : State :=
  let p := Tbl.findD s0.partitions partition Partition.initial
  let mark (w : Warp) : Warp := if s0.partitionOf w.ctx = partition then w.markDeferred else w
  let s : State := if p.halt.isSome then s0 else { s0 with warps := s0.warps.map fun x => (x.1, mark x.2) }
  let p' : Partition :=
    { p with halt := some (p.halt.getD s.time), stops := if p.halt.isSome then p.stops else [],
             holders := if p.holders.contains holder then p.holders else p.holders ++ [holder] }
  { s with partitions := Tbl.put s.partitions partition p' }

/-- TERMINATE (R166): under halt-on-fault the warp is held at the fault, its partition's halt line rises, and a FAULT
report goes to an attached debugger (R313, R318); otherwise it issues nothing further, and TERMINATE_COMPLETE does the rest. -/
def State.terminate (s : State) (id : Nat) (w : Warp) (how : Ending) : State :=
  match Tbl.find s.contexts w.ctx with
  | some c =>
    if c.haltOnFault then
      let held := ({ w.keepMask with phase := .faultStopped how, active := false, redirected := false }.tracePreempt s.time w.trun.toNat 0).anchorOwed
      ((s.setWarp id held).raiseHalt c.partition .fault).report w.ctx (some id)
        (w.reportBytes 5 0xFF 0 w.mask w.tcause.toNat w.keepMask.tinfo.toNat s.time (s.objOf w))
    else s.setWarp id { w with phase := .terminating how, active := false }
  | none => s.setWarp id { w with phase := .terminating how, active := false }

/-- ENTER (R161): TCAUSE, TRUN, TIDX and the cause's TINFO fields are written; a fatal case terminates the warp;
otherwise TINFO[1] keeps the trap mask, handler-active and the mask are set, and the run at TVEC is next. A maskable
cause with no handler is discarded. A cause without a handler terminates with both flags clear (R166, R167). A traced
warp emits a TRAP record at its entry (R318). -/
def State.enter (s : State) (id : Nat) (w : Warp) (cause : Cause) (run : Nat) (idx : Word) (f : TrapFields) : State :=
  if w.tvec = 0 ∧ cause.maskable = true then s
  else
    let w1 := w.writeCause cause run idx f
    if cause.hasHandler = false then s.terminate id w1 ⟨cause.code, false, false, false⟩
    else if w.handlerActive then s.terminate id w1 ⟨cause.code, true, false, false⟩
    else if w.tvec = 0 then s.terminate id w1 ⟨cause.code, false, true, false⟩
    else
      let w2 := s.noteDeferral { w1.keepMask with handlerActive := true, trapMask := true, readLowHeld := w1.readLow }
      s.setWarp id ((w2.traceAdd s.time 4
        (natBytes 4 w2.tcause.toNat ++ natBytes 4 w2.trun.toNat ++ natBytes 4 w2.tidx.toNat ++ natBytes 4 w2.tinfo.toNat)).leaveRun
          w.tvec.toNat)

/-- A trap at the instruction in issue of the current warp: TRUN names its run and TIDX its index. -/
def State.trapHere (s : State) (w : Warp) (cause : Cause) (f : TrapFields) : State :=
  s.enter s.cur w cause (match w.run with | some r => r.header | none => w.next) (BitVec.ofNat 32 w.idx) f

/-- How `tret` goes on after a cause (the Resume column of R159). -/
inductive Resume
  | at_ | after | nextRun | none
  deriving DecidableEq, Repr

/-- The Resume column of R159 by TCAUSE; an illegal operand resumes at the instruction for detail 1 and at the next
run for detail 0. R216, R267, R334 and R381 have their traps resume after the instruction and cite R159, whose table has a range conflict
resume at it: the table decides (DEDUCED, assumption log 22). -/
def resumeOf (tcause tinfo : Word) : Resume :=
  match tcause.toNat with
  | 0x01 => .nextRun
  | 0x03 => .nextRun
  | 0x04 => if (tinfo.extractLsb' 16 4) = 1 then .at_ else .nextRun
  | 0x06 => .at_
  | 0x08 => .after
  | 0x09 => .after
  | 0x0A => .after
  | 0x0B => .after
  | 0x0C => .at_
  | 0x0D => .after
  | 0x0E => .after
  | 0x0F => .after
  | 0x11 => .at_
  | 0x12 => .after
  | 0x13 => .nextRun
  | _ => .none

/-! ### Home writes and watches (R148, R153) -/

/-- The lines of 128 bytes that a span touches. -/
def linesOf (pa n : Nat) : List Nat :=
  if n = 0 then [] else (List.range ((pa + n - 1) / 128 - pa / 128 + 1)).map (· + pa / 128)

/-- Fires every armed watch on a line, whichever warp holds it (R153). -/
def fireWatch (line : Nat) (w : Warp) : Warp :=
  { w with watches := w.watches.map fun x => if x.line = line then { x with fired := true } else x }

def State.fireLine (s : State) (line : Nat) : State :=
  { s with warps := s.warps.map fun p => (p.1, fireWatch line p.2) }

/-- The set that holds a line: R326 gives the slice, PA[10:7], and the L2 die, PA[14:12]; R8 makes 2^14 sets of a slice, whose
index is PA[28:15] (DESIGN CHOICE, assumption log 12). -/
def setOfLine (line : Nat) : Nat := line % 16 + 16 * (line / 32 % 2 ^ 17)

/-- The line that a fill of a line which the L2 does not hold puts out: the least recently used of a full set of 32 ways (R8, R328).
The quotas of R328, which affect timing only, are not applied; the agenda's evictions take any other line (assumption log 12). -/
def State.victim (s : State) (line : Nat) : Option (Nat × Nat) :=
  let l := s.lineE.filter fun p => setOfLine p.1 == setOfLine line
  if 32 ≤ l.length then l.head? else none

/-- E of a line: the latest lease expiry granted on it; for a line that the L2 does not hold the E it is filled with, EVX of its set once
the line that gives way is out (R327). -/
def State.leaseEnd (s : State) (line : Nat) : Nat :=
  match Tbl.find s.lineE line with
  | some e => e
  | none =>
    let x := Tbl.findD s.evx (setOfLine line) 0
    match s.victim line with
    | some v => max x v.2
    | none => x

/-- C of a write that arrives now at a line (R148): max(arrival, E + 4). -/
def State.completion (s : State) (line : Nat) : Nat := max s.time (s.leaseEnd line + 4)

/-- A write to a frame clears its TAGV (R331). -/
def State.clearTag (s : State) (pa n : Nat) : State :=
  { s with tagv := s.tagv.filter fun p => decide (p.1 < pa / 65536 ∨ (pa + n - 1) / 65536 < p.1) }

/-- A line leaves the L2: EVX of its set takes the larger of itself and E (R327), and watches on it fire (R153). -/
def State.evictL2 (s : State) (line : Nat) : State :=
  match Tbl.find s.lineE line with
  | none => s
  | some e =>
    let k := setOfLine line
    State.fireLine { s with lineE := Tbl.erase s.lineE line, evx := Tbl.put s.evx k (max (Tbl.findD s.evx k 0) e) } line

/-- The L2 holds a line with an E, as the most recently used; where it did not and the set is full, another line leaves (R327, R328). -/
def State.holdLine (s : State) (line e : Nat) : State :=
  let t := match Tbl.find s.lineE line, s.victim line with
    | none, some v => s.evictL2 v.1
    | _, _ => s
  { t with lineE := Tbl.erase t.lineE line ++ [(line, e)] }

/-- An access reaches a line at its home: a line that is not held is filled (R326, R327). -/
def State.touchLine (s : State) (line : Nat) : State := s.holdLine line (s.leaseEnd line)

/-- A write reaches a line: every watch on it fires. -/
def State.writeLine (s : State) (line : Nat) : State := (s.fireLine line).touchLine line

/-- Writes bytes at their homes: memory changes, the frame's TAGV is cleared, and every line touched is filled and its watches fire. -/
def State.homeWrite (s : State) (pa : Nat) (bytes : List Byte) : State :=
  (linesOf pa bytes.length).foldl State.writeLine
    (State.clearTag { s with mem := Memory.writeBytes s.mem pa bytes } pa bytes.length)

/-- The largest completion time of a write over the lines it touches. -/
def State.completionOf (s : State) (pa n : Nat) : Nat :=
  (linesOf pa n).foldl (fun acc l => max acc (s.completion l)) s.time

end Sys2Proof.Machine
end

