-- ==== Sys2Proof/Machine/Operands.lean ====
section
/-! DEFINITION. Operand forms: vector register codes, permuted and broadcast reads, handoff reads and writes, predicates,
the static operand rules of R27 to R32, and the wrapper in which every instruction's meaning runs. -/

namespace Sys2Proof.Machine

/-! ### Kinds of vector register code (R28) -/

inductive Code
  | v (n : Nat)
  | t (k : Nat)
  | none
  | reserved
  | broadcast
  | h (track delta : Nat)
  deriving DecidableEq, Repr

def codeOf (c : BitVec 8) : Code :=
  let n := c.toNat
  if n < 0x78 then .v n
  else if n < 0x7C then .t (n - 0x78)
  else if n = 0x7C then .none
  else if n = 0x7F then .broadcast
  else if n < 0x80 then .reserved
  else .h ((n - 0x80) / 8) ((n - 0x80) % 8)

/-! ### Predicates and the threads that take part (R30, R55, R57) -/

/-- Gate g_s of pass j in a caravan of N trips and S stages (R55). -/
def gateOf (j n stages g : Nat) : Bool := g < stages && decide (g ≤ j) && decide (j - g < n)

def State.gate (s : State) (w : Warp) (g : Nat) : Bool :=
  match s.caravan? w.caravan with
  | some c => gateOf w.pass c.record.trip c.record.stages g
  | none => false

def allThreads : BitVec 96 := BitVec.allOnes 96

def Warp.predicate (w : Warp) (n : Nat) : BitVec 96 := if n = 7 then allThreads else listGet 0 w.preds n

def Warp.setPredicate (w : Warp) (n : Nat) (m : BitVec 96) : Warp := { w with preds := listPut 0 w.preds n m }

/-- The predicate a PRED code and PNEG name, thread by thread (R26, R30). -/
def State.predOf (s : State) (w : Warp) (pred : BitVec 4) (neg : BitVec 1) : BitVec 96 :=
  let p := if pred.toNat < 8 then w.predicate pred.toNat
           else if s.gate w (pred.toNat - 8) then allThreads else 0
  if neg = 1 then ~~~p else p

/-- The threads that take part in a per-thread instruction (R57). -/
def State.takes (s : State) (w : Warp) (pred : BitVec 4) (neg : BitVec 1) : BitVec 96 := w.mask &&& s.predOf w pred neg

/-- PRED 7 with PNEG 1: the legal never (R26). -/
def isNever (pred : BitVec 4) (neg : BitVec 1) : Bool := pred == 7 && neg == 1

/-! ### Handoff tracks (R184 to R188) -/

def emptySlot : Slot := ⟨[], false, false, 0, false⟩

def Caravan.slot (c : Caravan) (track i : Nat) : Slot := listGet emptySlot (listGet [] c.tracks track) (i % 16)

def Caravan.setSlot (c : Caravan) (track i : Nat) (x : Slot) : Caravan :=
  { c with tracks := listPut [] c.tracks track (listPut emptySlot (listGet [] c.tracks track) (i % 16) x) }

/-- Track `k` has been written or relayed by the pass. -/
def Caravan.wroteTrack (c : Caravan) (pass k : Nat) : Bool := (Tbl.findD c.wrote pass 0).getLsbD k

def Caravan.relayedTrack (c : Caravan) (pass k : Nat) : Bool := (Tbl.findD c.relayed pass 0).getLsbD k

def Caravan.markWrote (c : Caravan) (pass k : Nat) : Caravan :=
  { c with wrote := Tbl.put c.wrote pass (Tbl.findD c.wrote pass 0 ||| BitVec.ofNat 16 (2 ^ k)) }

/-- The value of track `k` that pass `j - d` gave, an initial value where the pass is negative (R185). -/
def Caravan.passValue (c : Caravan) (k j d : Nat) : Lanes :=
  if j < d then listGet [] (listGet [] c.initial k) (d - j - 1) else (c.slot k (j - d)).value

/-- hK.d as pass j reads it (R185): hK.0 is the own value once the pass has written or relayed the track, and until
then the value of the pass before. -/
def Caravan.readTrack (c : Caravan) (k j d : Nat) : Lanes :=
  if d = 0 ∧ c.wroteTrack j k = false then c.passValue k j 1 else c.passValue k j d

/-- The value of pass `j - d` is present, as a negative pass's always is (R186). -/
def Caravan.met (c : Caravan) (k j d : Nat) : Bool :=
  decide (j < d) ||
    ((c.slot k (j - d)).present && (c.slot k (j - d)).filled && (c.slot k (j - d)).tag == j - d)

/-- Pass j's write of track K in the threads given: the others take the value of pass j - 1 (R187). -/
def Caravan.writeTrack (c : Caravan) (k j : Nat) (take : BitVec 96) (f : Nat → Word) (present : Bool) : Caravan :=
  (c.setSlot k j
    { value := lanesOf fun t => if take.getLsbD t then f t else lane (c.passValue k j 1) t,
      present := present, filled := true, tag := j, relayPending := false }).markWrote j k

/-! ### Reading and writing vector operands (R28, R29) -/

/-- The element of each thread of a vector source. -/
def State.source (s : State) (w : Warp) (code : BitVec 8) (sb : BitVec 6) : Nat → Word :=
  match codeOf code with
  | .v n => lane (listGet [] w.vregs n)
  | .t k => lane (listGet [] w.temps k)
  | .broadcast => fun _ => w.sreg sb
  | .h k d =>
    match s.caravan? w.caravan with
    | some c => lane (c.readTrack k w.pass d)
    | none => fun _ => 0
  | _ => fun _ => 0

/-- The thread whose element thread t reads under PERM and PPAR (R29). -/
def permThread (perm : BitVec 4) (ppar : BitVec 7) (t : Nat) : Nat :=
  match perm.toNat with
  | 1 => let u := Nat.xor t ppar.toNat
         if u < 96 then u else t
  | 2 => 8 * (t / 8) + (t % 8 + ppar.toNat) % 8
  | 3 => 95 - t
  | 4 => ppar.toNat
  | _ => t

/-- A[t] of R114. -/
def State.opA (s : State) (w : Warp) (f : VForm) : Nat → Word := s.source w f.va f.sb

/-- B[t] of R114: VB after the permutation. -/
def State.opB (s : State) (w : Warp) (f : VForm) : Nat → Word :=
  fun t => s.source w f.vb f.sb (permThread f.perm f.ppar t)

/-- The old destination element, the addend of `vmad`, `vfma` and `vfms`. -/
def State.opD (s : State) (w : Warp) (f : VForm) : Nat → Word := s.source w f.vd 0

/-- Lanes in which the threads given take new elements and the others keep theirs. -/
def mergeLanes (old : Lanes) (take : BitVec 96) (f : Nat → Word) : Lanes :=
  lanesOf fun t => if take.getLsbD t then f t else lane old t

/-- Writes a vector register or temporary in the threads that take part. -/
def Warp.setVector (w : Warp) (code : BitVec 8) (take : BitVec 96) (f : Nat → Word) : Warp :=
  if take = 0 then w
  else match codeOf code with
  | .v n => { w with vregs := listPut [] w.vregs n (mergeLanes (listGet [] w.vregs n) take f) }
  | .t k => { w with temps := listPut [] w.temps k (mergeLanes (listGet [] w.temps k) take f),
                     wroteTemps := w.wroteTemps ||| BitVec.ofNat 4 (2 ^ k) }
  | _ => w

/-- Writes a vector destination of warp `id`, a handoff register under R187. -/
def State.writeVector (s : State) (id : Nat) (code : BitVec 8) (take : BitVec 96) (f : Nat → Word) : State :=
  match s.warp? id with
  | none => s
  | some w =>
    match codeOf code with
    | .h k _ => s.updCaravan w.caravan fun c => c.writeTrack k w.pass take f true
    | _ => s.setWarp id (w.setVector code take f)

/-! ### Which codes an instruction names (R28, R32, R33, R114, R131, R221, R222, R352) -/

inductive Role
  /-- a vector source, broadcast included -/
  | src
  /-- a vector source that may not be the broadcast -/
  | vec
  /-- a vector destination -/
  | dst
  /-- a destination that may not be a handoff register -/
  | dstLocal
  /-- must be 0x7C -/
  | absent
  /-- 0x7C or 0x7F -/
  | carry
  /-- must be 0x7F -/
  | bcast
  /-- the field is no vector register code -/
  | other
  deriving DecidableEq, Repr

/-- The codes a role admits in a caravan of the given track count (R28). -/
def Role.admits (r : Role) (tracks : Nat) (c : BitVec 8) : Bool :=
  match r, codeOf c with
  | .other, _ => true
  | .absent, .none => true
  | .carry, .none => true
  | .carry, .broadcast => true
  | .bcast, .broadcast => true
  | .src, .broadcast => true
  | .src, .h k _ => decide (k < tracks)
  | .vec, .h k _ => decide (k < tracks)
  | .dst, .h k d => decide (k < tracks) && d == 0
  | .src, .v _ => true
  | .src, .t _ => true
  | .vec, .v _ => true
  | .vec, .t _ => true
  | .dst, .v _ => true
  | .dst, .t _ => true
  | .dstLocal, .v _ => true
  | .dstLocal, .t _ => true
  | _, _ => false

/-- The roles of VD, VA and VB by OP and FN. -/
def vRoles (op fn : Nat) : Role × Role × Role :=
  match op with
  | 0x41 => (.dst, if fn == 7 || fn == 8 then .absent else .src, .src)
  | 0x42 => (.dst, if fn == 4 || fn == 9 || fn == 10 || fn == 11 then .absent else .src, .src)
  | 0x43 => (.dst, if 7 ≤ fn then .absent else .src, .src)
  | 0x44 => (.other, .src, .src)
  | 0x45 => (.other, .absent, .src)
  | 0x46 => (.dst, .absent, .src)
  | 0x47 => (.dst, .absent, .src)
  | 0x48 => (.dst, .absent, .src)
  | 0x49 =>
    match fn with
    | 0 => (.dst, .absent, .src)
    | 1 => (.dst, .src, .src)
    | 2 => (.dst, .src, .absent)
    | 3 => (.other, .src, .absent)
    | 4 => (.dstLocal, .absent, .bcast)
    | _ => (.dstLocal, .absent, .carry)
  | 0x4A => (.other, .src, .absent)
  | 0x4B => (.dst, .src, .carry)
  | 0x4C => (.dst, if fn == 2 then .absent else .src, .src)
  | 0x4D => (.other, .other, .other)
  | 0x4F => (.dst, .src, .src)
  | 0x50 => (.absent, .absent, .src)
  | 0x64 => (.dst, .absent, .absent)
  | 0x65 => (.absent, .src, .absent)
  | 0x66 => if 3 ≤ fn then (.dst, .absent, .absent) else (.absent, .absent, if fn == 0 then .absent else .vec)
  | _ => (.other, .other, .other)

/-- The registers VD to VD + n - 1 exist, begin at a multiple of n, and are no handoff registers when n is above 1
(R33, R124, R145). -/
def multiOk (tracks n : Nat) (temps : Bool) (role : Role) (c : BitVec 8) : Bool :=
  if n ≤ 1 then role.admits tracks c
  else match codeOf c with
    | .v m => m % n == 0 && decide (m + n ≤ 120)
    | .t k => temps && k % n == 0 && decide (k + n ≤ 4)
    | _ => false

/-- The codes of a group of registers. -/
def codesFrom (c : BitVec 8) (n : Nat) : List (BitVec 8) := (List.range n).map fun i => c + BitVec.ofNat 8 i

/-- Bits of a format of R39: source element width, and destination width. -/
def formatBits (fmt : Nat) : Nat :=
  match fmt with
  | 0 => 32 | 1 => 32 | 2 => 32 | 3 => 16 | 4 => 16 | 5 => 16 | 6 => 8 | 7 => 8
  | 8 => 8 | 9 => 8 | 10 => 4 | _ => 8

/-- How many registers a `vcvt` writes (R124). -/
def vcvtRegs (fn : BitVec 6) (f : VForm) : Nat :=
  ((32 / formatBits f.ty.toNat) * formatBits (fn.extractLsb' 0 4).toNat + 31) / 32

/-- Registers of a memory access (R33). -/
def szRegs (sz : BitVec 3) : Nat := if sz = 5 then 2 else if sz = 6 then 4 else 1

/-- PERM and PPAR (R29, R32): the forms that allow a permutation of VB, and those that give PPAR another use. -/
def permOk (op fn : Nat) (f : VForm) : Bool :=
  if op == 0x49 && fn == 1 then f.perm == 0 && f.ppar.toNat < 8
  else if op == 0x49 && (fn == 3 || fn == 4) then f.perm == 0 && f.ppar.toNat < 96
  else if op == 0x64 || op == 0x65 then f.perm == 0
  else if op == 0x4D || op == 0x6F || op == 0x70 then f.perm == 0 && f.ppar == 0
  else if f.perm == 0 then f.ppar == 0
  else f.vb != 0x7C && f.vb != 0x7F &&
    match f.perm.toNat with
    | 1 => [1, 2, 4, 8, 16, 32, 64].contains f.ppar.toNat
    | 2 => 1 ≤ f.ppar.toNat && f.ppar.toNat ≤ 7
    | 3 => f.ppar == 0
    | 4 => f.ppar.toNat < 96
    | _ => false

def even (r : BitVec 6) : Bool := r.getLsbD 0 == false

/-- The V-format operand rules. -/
def vOperandsOk (op fn : Nat) (fnBits : BitVec 6) (f : VForm) (tracks : Nat) : Bool :=
  let (rd, ra, rb) := vRoles op fn
  rd.admits tracks f.vd && ra.admits tracks f.va && rb.admits tracks f.vb && permOk op fn f
    && (op != 0x44 || f.vd != 7)
    && (op != 0x45 || multiOk tracks (vcvtRegs fnBits f) false .dst f.vd)
    && (op != 0x4D || fn > 4 || f.vd != 7)
    && (op != 0x4D || fn != 4 || f.sb.toNat ≤ 61)
    && (op != 0x4D || fn != 5 || f.vd.toNat ≤ 61)
    && ((op != 0x64 && op != 0x65 && op != 0x66) || even f.sb)
    && ((op != 0x6F && op != 0x70) || (f.vd != 7 && multiOk tracks 2 true .dst f.va))

/-- The M-format operand rules (R33, R138, R145). -/
def mOperandsOk (op : Nat) (f : MForm) (tracks : Nat) : Bool :=
  even f.sbase && (f.vidx == 0x7C || Role.vec.admits tracks f.vidx)
    && (op == 0x58 || multiOk tracks (szRegs f.sz) true .dst f.vd)

/-- Operand registers of an atomic: `cas` holds compare and swap values (R33, R152). -/
def aRegs (aop : Nat) (f : AForm) : Nat := if aop = 10 then 2 * szRegs f.sz else szRegs f.sz

def aOperandsOk (aop : Nat) (f : AForm) (tracks : Nat) : Bool :=
  even f.sbase && (f.vidx == 0x7C || Role.vec.admits tracks f.vidx)
    && multiOk tracks (aRegs aop f) true .dst f.vd

/-- Pair fields of the one-word instructions (R27, R37) and the limits of their immediates (R174, R190, R195). -/
def sOperandsOk (op : Nat) (sd sa : BitVec 6) (i : BitVec 1) (lo : BitVec 12) (tracks : Nat) : Bool :=
  match op with
  | 0x1D => even sd && even sa && (i == 1 || even (lo.extractLsb' 0 6))
  | 0x2D => even sa
  | 0x33 | 0x34 | 0x3C => even sd
  | 0x35 | 0x36 => lo.toNat % 8 == 0 && 8 ≤ lo.toNat && lo.toNat ≤ 120
  | 0x37 | 0x38 | 0x39 | 0x3A => lo.toNat < 32
  | 0x3D => lo.toNat < tracks
  | _ => true

/-- The pair fields of the E-format instructions (R27): those their entries name as pairs. `gath` and `scat` name two registers
from SC on, and `samp` two for its result, without calling SC a pair (R238, R324), and `ksum` one register SB (R271). -/
def eOperandsOk (op fn : Nat) (f : EForm) : Bool :=
  match op, fn with
  | 0x5A, _ => even f.sa && even f.sb
  | 0x6C, _ => even f.sa
  | 0x74, 8 => even f.sa && even f.sc
  | 0x75, 3 => true
  | 0x76, _ => true
  | 0x77, _ => even f.sa
  | _, _ => even f.sa && even f.sb && even f.sc

/-- Every operand code of the instruction is one R27 to R33 admit; otherwise it is *illegal operand*, detail 0. -/
def operandsOk (r : Raw) (tracks : Nat) : Bool :=
  match r with
  | .s op sd sa i lo => sOperandsOk op.toNat sd sa i lo tracks
  | .v op fn f => vOperandsOk op.toNat fn.toNat fn f tracks
  | .m op f _ => mOperandsOk op.toNat f tracks
  | .a _ aop f _ => aOperandsOk aop.toNat f tracks
  | .x _ _ f _ _ => even f.sa && even f.sb && even f.sc && even f.sf
  | .e op fn f => eOperandsOk op.toNat fn.toNat f
  | _ => true

/-- The vector codes an instruction reads. -/
def readsOf (r : Raw) : List (BitVec 8) :=
  match r with
  | .v op fn f =>
    let (_, ra, rb) := vRoles op.toNat fn.toNat
    (if ra = .src ∨ ra = .vec then [f.va] else []) ++ (if rb = .src ∨ rb = .vec then [f.vb] else [])
      ++ (if (op = 0x41 ∧ fn = 4) ∨ (op = 0x43 ∧ (fn = 3 ∨ fn = 4)) then [f.vd] else [])
      ++ (if op = 0x6F then codesFrom f.va 2 else [])
  | .m op f _ =>
    (if f.vidx = 0x7C then [] else [f.vidx])
      ++ (if op = 0x52 ∨ op = 0x54 then codesFrom f.vd (szRegs f.sz) else [])
  | .a _ aop f _ => (if f.vidx = 0x7C then [] else [f.vidx]) ++ codesFrom f.vd (aRegs aop.toNat f)
  | _ => []

/-- The vector codes an instruction writes. -/
def writesOf (r : Raw) : List (BitVec 8) :=
  match r with
  | .v op fn f =>
    let (rd, _, _) := vRoles op.toNat fn.toNat
    (if rd = .dst ∨ rd = .dstLocal then [f.vd] else [])
      ++ (if op = 0x45 then codesFrom f.vd (vcvtRegs fn f) else [])
      ++ (if op = 0x70 then codesFrom f.va 2 else [])
  | .m op f _ => if op = 0x51 ∨ op = 0x53 ∨ op = 0x57 then codesFrom f.vd (szRegs f.sz) else []
  | .a _ _ f _ => codesFrom f.vd (szRegs f.sz)
  | _ => []

/-- The predicate of an instruction that has one. -/
def rawNever (r : Raw) : Bool :=
  match r with
  | .v _ _ f => isNever f.pred f.pneg
  | .m _ f _ => isNever f.pred f.pneg
  | .a _ _ f _ => isNever f.pred f.pneg
  | .r _ p n _ _ _ => isNever p n
  | _ => false

/-- Some vN lies at or above the quota (R24). -/
def overQuota (r : Raw) (quota : Nat) : Bool :=
  (readsOf r ++ writesOf r).any fun c =>
    match codeOf c with
    | .v n => decide (quota ≤ n)
    | _ => false

/-- The codes a load in flight will write. -/
def PendingLoad.codes (l : PendingLoad) : List (BitVec 8) := codesFrom l.vd (szRegs l.sz)

/-- An operand is not ready: a load into it is in flight, or it is the pass's own handoff value and still arrives
(R49, R185). -/
def State.hazard (s : State) (w : Warp) (r : Raw) : Bool :=
  let named := readsOf r ++ writesOf r
  w.loads.any (fun l => l.codes.any fun c => named.contains c)
    || (readsOf r).any fun c =>
      match codeOf c with
      | .h k d =>
        match s.caravan? w.caravan with
        | some c => d == 0 && c.wroteTrack w.pass k && !c.met k w.pass 0
        | none => false
      | _ => false

/-- The instruction writes a track that the pass has already written or relayed (R188). -/
def State.rewrites (s : State) (w : Warp) (r : Raw) : Bool :=
  (writesOf r).any fun c =>
    match codeOf c with
    | .h k _ =>
      match s.caravan? w.caravan with
      | some c => c.wroteTrack w.pass k
      | none => false
    | _ => false

/-! ### The frame in which an instruction runs -/

/-- The instruction may begin: its operand codes are admitted, its registers lie within the quota, their values have arrived, and it writes
no track a second time. -/
def State.ready (s : State) (w : Warp) (r : Raw) : Bool :=
  operandsOk r (s.tracksOf w) && (rawNever r || (!overQuota r w.quota && !s.hazard w r && !s.rewrites w r))

/-- Runs the meaning `k` of an instruction of the current warp. *Illegal operand* is raised for a code R28 forbids
(detail 0) or a register at or above the quota (detail 1, R24); a second write of a track terminates the warp (R188);
and an instruction whose operand is still on its way waits, holding the slot (R59). An instruction of a spilled warp does not come this
far (R176, `Warp.mayRun`). -/
def checked (r : Raw) (s : State) (k : Warp → State) : Host.Outcome State Fault Refusal :=
  match s.curWarp with
  | none => .fault .noWarp
  | some w =>
    if operandsOk r (s.tracksOf w) = false then .next (s.trapHere w .illegalOperand (.detail 0))
    else if rawNever r then .next (k w)
    else if overQuota r w.quota then .next (s.trapHere w .illegalOperand (.detail 1))
    else if s.hazard w r then .next s
    else if s.rewrites w r then .next (s.trapHere w .trackRewrite .none)
    else .next (k w)

/-- Completes the instruction of the current warp, which becomes `w`. -/
def State.finish (s : State) (w : Warp) : State := s.setWarp s.cur w.advance

/-- Completes the instruction of the current warp as the state has it. -/
def State.finishCur (s : State) : State := s.updWarp s.cur Warp.advance

end Sys2Proof.Machine
end

