-- ==== Sys2Proof/Machine/Translate.lean ====
section
/-! DEFINITION. Translation: table entries and walks (R289 to R292), the TLBs (R293), the permission rules of a page
(R143), and range locks (R144, R227). -/

namespace Sys2Proof.Machine

/-! ### Table entries (R290) -/

def leafPresent (e : DWord) : Bool := e.getLsbD 0
def leafWritable (e : DWord) : Bool := e.getLsbD 1
def leafExecutable (e : DWord) : Bool := e.getLsbD 2
def leafSecure (e : DWord) : Bool := e.getLsbD 3
def leafClass (e : DWord) : Nat := (e.extractLsb' 4 2).toNat
def leafTier (e : DWord) : Bool := e.getLsbD 6
def leafSize (e : DWord) : Nat := (e.extractLsb' 7 2).toNat
def leafPoison (e : DWord) : Bool := e.getLsbD 9
/-- PFN as a physical address. -/
def leafBase (e : DWord) : Nat := (e.extractLsb' 16 36).toNat * 65536

/-- The bytes of a page of a SIZE code. -/
def pageBytes (size : Nat) : Nat := if size = 0 then 2 ^ 16 else if size = 1 then 2 ^ 21 else 2 ^ 27

/-- Why an entry that points to a table ends a walk (R292). -/
def tableReason (e : DWord) : Option Nat :=
  if leafPresent e = false then some 0
  else if e.extractLsb' 1 15 ≠ 0 ∨ e.extractLsb' 52 12 ≠ 0 then some 1
  else none

/-- Why a leaf entry ends a walk (R292). -/
def leafReason (e : DWord) (fetch lpddr : Bool) : Option Nat :=
  if leafPresent e = false then some 0
  else if e.extractLsb' 10 6 ≠ 0 ∨ e.extractLsb' 52 12 ≠ 0 ∨ leafSize e = 3
      ∨ leafBase e % pageBytes (leafSize e) ≠ 0 ∨ (leafClass e = 2 ∧ leafSize e ≠ 0) then some 1
  else if leafTier e ∧ lpddr = false then some 2
  else if fetch ∧ leafExecutable e = false then some 3
  else none

/-- A walk through the three levels: the leaf and the physical address of its entry, or the reason of the fault. -/
def walk (mem : Memory) (root va : Nat) (fetch lpddr : Bool) : Except Nat (DWord × Nat) :=
  let e2 := Memory.readDWord mem (root + 8 * (va / 2 ^ 42 % 8192))
  match tableReason e2 with
  | some r => .error r
  | none =>
    let e1 := Memory.readDWord mem (leafBase e2 + 8 * (va / 2 ^ 29 % 8192))
    match tableReason e1 with
    | some r => .error r
    | none =>
      let at_ := leafBase e1 + 8 * (va / 2 ^ 16 % 8192)
      let e0 := Memory.readDWord mem at_
      match leafReason e0 fetch lpddr with
      | some r => .error r
      | none => .ok (e0, at_)

/-- The bytes of the page that a walk which ends in a fault of a reason was asked for (R291, R295): the page of its leaf where the
leaf is well formed, and else one unit. -/
def faultSpan (mem : Memory) (root va reason : Nat) : Nat :=
  if reason = 2 ∨ reason = 3 then
    let e1 := Memory.readDWord mem (leafBase (Memory.readDWord mem (root + 8 * (va / 2 ^ 42 % 8192))) + 8 * (va / 2 ^ 29 % 8192))
    pageBytes (leafSize (Memory.readDWord mem (leafBase e1 + 8 * (va / 2 ^ 16 % 8192))))
  else 65536

/-- The physical address of a virtual one under a leaf. -/
def leafPa (leaf : DWord) (va : Nat) : Nat := leafBase leaf + va % pageBytes (leafSize leaf)

/-! ### Topology (R4, R288) -/

def clusterOf (core : Nat) : Nat := core / 2
def dieOf (core : Nat) : Nat := core / 144
def clusterDie (cluster : Nat) : Nat := cluster / 72

/-- A core as it is before anything has run on it. -/
def Core.initial : Core :=
  { free := 2048, nextOrdinal := 0, claims := [], lastIssue := 0, l1 := [], constCache := [], tileCache := [],
    tlb := [], watchpoints := [none, none, none, none], copyQueue := [], tableQueue := [], loaderQueue := [],
    matrixQueue := [], tables := [], tiles := [], unsettled := [], weights := [], regions := [] }

/-- The power block at reset (R253, R254). -/
def Power.initial : Power :=
  { weights := [1, 4, 6, 6, 4, 256, 32, 16, 8, 256, 8, 8, 1, 0, 0, 0], cap := 4096, target := 1024, rate := 1024,
    mres := 1024, high := true, lastRail := none, lastRate := 0, levels := [], cycle := 0, tested := [] }

def Sampler.initial : Sampler :=
  { owner := none, running := false, interval := 0, nctr := 0, tagged := false, ring := 0, rsize := 0, period := 0,
    tring := 0, tsize := 0, seed := 0, ctr := [], counts := [], start := 0,
    startCycle := 0, highTicks := 0, railSince := 0, row := 0, tagRow := 0, lfsr := [], countdown := [], pending := [] }

def Cluster.initial : Cluster :=
  { locks := [], tlb := [], fused := false, requests := [], asked := [], coupling := none, parties := [], power := Power.initial,
    sampler := Sampler.initial, selection := [], attention := [], fabric := [], holdPlaced := false, holding := false }

def Die.initial : Die :=
  { tlb := [], requests := [], faults := [], seq := 0, balance := [], lastToken := [], waiting := [] }

def State.core (s : State) (k : Nat) : Core := Tbl.findD s.cores k Core.initial
def State.cluster (s : State) (k : Nat) : Cluster := Tbl.findD s.clusters k Cluster.initial
def State.die (s : State) (k : Nat) : Die := Tbl.findD s.dies k Die.initial

def State.setCore (s : State) (k : Nat) (c : Core) : State := { s with cores := Tbl.put s.cores k c }
def State.setCluster (s : State) (k : Nat) (c : Cluster) : State := { s with clusters := Tbl.put s.clusters k c }
def State.setDie (s : State) (k : Nat) (d : Die) : State := { s with dies := Tbl.put s.dies k d }

def State.updCore (s : State) (k : Nat) (f : Core → Core) : State := s.setCore k (f (s.core k))
def State.updCluster (s : State) (k : Nat) (f : Cluster → Cluster) : State := s.setCluster k (f (s.cluster k))
def State.updDie (s : State) (k : Nat) (f : Die → Die) : State := s.setDie k (f (s.die k))

/-! ### TLBs (R293) -/

def TlbEntry.covers (e : TlbEntry) (ctx va : Nat) : Bool := e.ctx == ctx && e.va ≤ va && va < e.va + e.size

/-- The entry of a context that covers an address. -/
def tlbFind (l : List TlbEntry) (ctx va : Nat) : Option TlbEntry := l.find? fun e => e.covers ctx va

/-- The LPDDR 6 tier counts as populated: bit 0 of FEAT_OFFER, and accepted (R2, R369, R370). -/
def State.lpddr (s : State) : Bool := s.featOffer.getLsbD 0 && s.featAccept.getLsbD 0

/-- The leaf the core's TLB holds for an address; a run fetch needs an executable page (R292). -/
def State.translated (s : State) (core ctx va : Nat) (fetch : Bool) : Option TlbEntry :=
  match tlbFind (s.core core).tlb ctx va with
  | some e => if fetch && !leafExecutable e.leaf then none else some e
  | none => none

/-- An entry replaces those of its context that overlap it; the oldest makes room. -/
def tlbFill (limit : Nat) (l : List TlbEntry) (e : TlbEntry) : List TlbEntry :=
  let rest := l.filter fun x => !(x.ctx == e.ctx && decide (x.va < e.va + e.size) && decide (e.va < x.va + x.size))
  (rest ++ [e]).drop (rest.length + 1 - limit)

def State.fillCoreTlb (s : State) (core : Nat) (e : TlbEntry) : State :=
  s.updCore core fun c => { c with tlb := tlbFill 256 c.tlb e }

def State.fillClusterTlb (s : State) (cluster : Nat) (e : TlbEntry) : State :=
  s.updCluster cluster fun c => { c with tlb := tlbFill 4096 c.tlb e }

def State.fillDieTlb (s : State) (die : Nat) (e : TlbEntry) : State :=
  s.updDie die fun d => { d with tlb := tlbFill 65536 d.tlb e }

/-- The entry that a leaf makes for an address: it covers the whole page (R291). -/
def leafEntry (ctx va : Nat) (leaf : DWord) (leafAt : Nat) : TlbEntry :=
  let n := pageBytes (leafSize leaf)
  { ctx := ctx, va := va / n * n, size := n, leaf := leaf, leafAt := leafAt }

/-- The entry of a TLB that serves an address; a run fetch needs an executable page. -/
def usable (l : List TlbEntry) (ctx va : Nat) (fetch : Bool) : Option TlbEntry :=
  match tlbFind l ctx va with
  | some e => if fetch && !leafExecutable e.leaf then none else some e
  | none => none

/-- A miss of a core's TLB looks in the cluster's, then in the die's, and then starts a walk; every level it passed takes the leaf
(R293). The entry, or the reason code of a walk that faults. -/
def State.lookUp (s : State) (core ctx va : Nat) (fetch : Bool) : State × Except Nat TlbEntry :=
  let cluster := clusterOf core
  let die := dieOf core
  match usable (s.core core).tlb ctx va fetch with
  | some e => (s, .ok e)
  | none =>
    match usable (s.cluster cluster).tlb ctx va fetch with
    | some e => (s.fillCoreTlb core e, .ok e)
    | none =>
      match usable (s.die die).tlb ctx va fetch with
      | some e => ((s.fillClusterTlb cluster e).fillCoreTlb core e, .ok e)
      | none =>
        match Tbl.find s.contexts ctx with
        | none => (s, .error 0)
        | some c =>
          match walk s.mem c.root va fetch s.lpddr with
          | .ok (leaf, at_) =>
            let e := leafEntry ctx va leaf at_
            (((s.fillDieTlb die e).fillClusterTlb cluster e).fillCoreTlb core e, .ok e)
          | .error reason => (s, .error reason)

/-- A translation that posts no fault, for those that R295 lets never post: the state after, and the leaf. -/
def State.peek (s : State) (core ctx va : Nat) : State × Option TlbEntry :=
  match s.lookUp core ctx va false with
  | (s1, .ok e) => (s1, some e)
  | (s1, .error _) => (s1, none)

/-- A requester waits for RESOLVE to answer an entry it has joined, or for a walk it has asked for (R297). -/
def State.walking (s : State) (who : Requester) : Bool :=
  s.dies.any fun d => d.2.requests.any (fun q => q.who == who) || d.2.faults.any fun f => f.waiters.any fun q => q.who == who

/-- Queues a miss for a walker, once for each requester and unit of 64 KiB. -/
def State.requestWalk (s : State) (r : WalkRequest) : State :=
  s.updDie (dieOf r.core) fun d =>
    if d.requests.any (fun q => q.who == r.who && q.va / 65536 == r.va / 65536 && q.ctx == r.ctx) then d
    else { d with requests := d.requests ++ [r] }

/-! ### Page permissions (R143, R361) -/

def State.ctxSecure (s : State) (ctx : Nat) : Bool :=
  match Tbl.find s.contexts ctx with
  | some c => c.secure
  | none => false

/-- The detail of the protection failure of an access to a page, or none where it is allowed: world first, then
class, then the writable bit (R142). -/
def protectDetail (secure write : Bool) (leaf : DWord) : Option Nat :=
  if leafSecure leaf && !secure then some 3
  else if write && leafClass leaf == 2 then some 2
  else if write && !leafWritable leaf then some 1
  else none

/-- The partitions of the secure world. -/
def State.securePartitions (s : State) : List Nat := (s.partitions.filter fun p => p.2.secure).map fun p => p.1

/-- A source raises the alarm to a level (R363, R364): the entry is logged, the oldest of 256 giving way; a raise that
reaches level 2 raises the halt line of every secure partition, and one that reaches level 3 erases the key store. -/
def State.raiseAlarm (s : State) (source : AlarmSource) (level detail : Nat) : State :=
  let old := s.security.alarm
  let log := s.security.log ++ [AlarmEntry.mk source s.time detail]
  let sec : Security :=
    { s.security with alarm := max old level, log := log.drop (log.length - 256), logCount := s.security.logCount + 1,
                      keysPresent := s.security.keysPresent && decide (level < 3),
                      pageKey := if level < 3 then s.security.pageKey else 0 }
  let s1 := { s with security := sec }
  if old < 2 ∧ 2 ≤ level then s1.securePartitions.foldl (fun acc p => acc.raiseHalt p .alarm) s1 else s1

/-- Counts a world violation over the window of 1 ms; the 64th within it raises alarm level 2 (R143, R362). -/
def State.worldViolation (s : State) : State :=
  let recent := s.violations.filter (fun t => decide (s.time < t + 1000000)) ++ [s.time]
  let s1 := { s with violations := recent }
  if 64 ≤ recent.length then s1.raiseAlarm .violations 2 recent.length else s1

/-- Why an access that posts nothing and only reads a page is dropped: the page is poisoned, or of the other world, which counts as a
world violation (R142, R155, R362); none where it goes on. -/
def State.peekRefused (s : State) (ctx : Nat) (leaf : DWord) : Option State :=
  if leafPoison leaf then some s
  else if leafSecure leaf && !s.ctxSecure ctx then some s.worldViolation
  else none

/-! ### Range locks (R144, R227) -/

/-- A lock that stands in the way of an access to the granules of a span: a write lock, or any lock where the access
writes. -/
def lockConflict (locks : List RangeLock) (space : LockSpace) (a n : Nat) (write : Bool) : Bool :=
  locks.any fun l => l.space == space && (write || l.write) && a / 256 ≤ l.last && l.first ≤ (a + n - 1) / 256

end Sys2Proof.Machine
end

