-- ==== Sys2Proof/Machine/Fetch.lean ====
section
/-! DEFINITION. Runs: headers, extents and the words of a run (R18 to R21), predecode (R22, R23, R40), what a run needs and
what it is charged (R186, R253). -/

namespace Sys2Proof.Machine

/-! ### Run headers (R18, R20) -/

def headerLen (h : Word) : Nat := (h.extractLsb' 0 5).toNat
def headerEng (h : Word) : BitVec 6 := h.extractLsb' 5 6
def headerStop (h : Word) : Bool := h.getLsbD 11
def headerTmp (h : Word) : Nat := (h.extractLsb' 12 3).toNat
def headerTag (h : Word) : BitVec 5 := h.extractLsb' 15 5
def headerOrd (h : Word) : Nat := (h.extractLsb' 20 12).toNat

/-- The header conditions of R20 apart from the extent. -/
def headerOk (h : Word) : Bool :=
  1 ≤ headerLen h && headerLen h ≤ 24 && headerTag h == 0b10110 && headerTmp h ≤ 4
    && (headerStop h == (headerOrd h != 0))

inductive FetchResult
  /-- The words of the run from its header on. -/
  | words (ws : List Word)
  /-- The header or the extent fails R20. -/
  | bad
  /-- The word at the offset has no translation yet. -/
  | miss (off : Nat)
  deriving DecidableEq, Repr

/-- The words of `n` instructions from an offset, within a code section of `size` bytes (R21). -/
def instrWordsFrom (read : Nat → Option Word) (size n off : Nat) (acc : List Word) : FetchResult :=
  match n with
  | 0 => .words acc
  | k + 1 =>
    if size < off + 4 then .bad
    else match read off with
      | none => .miss off
      | some w0 =>
        if wordCount w0 = 1 then instrWordsFrom read size k (off + 4) (acc ++ [w0])
        else if size < off + 8 then .bad
        else match read (off + 4) with
          | none => .miss (off + 4)
          | some w1 => instrWordsFrom read size k (off + 8) (acc ++ [w0, w1])

/-- The run whose header stands at an offset (R20, R21). An offset outside the code section is *bad run header* (R101). -/
def fetchWords (read : Nat → Option Word) (size off : Nat) : FetchResult :=
  if size < off + 4 ∨ off % 4 ≠ 0 then .bad
  else match read off with
    | none => .miss off
    | some h => if headerOk h then instrWordsFrom read size (headerLen h) (off + 4) [h] else .bad

/-- The run of fetched words. -/
def runOf (off : Nat) (ws : List Word) (cost : Nat) : Run :=
  let h := listGet 0 ws 0
  { header := off, words := ws, ord := headerOrd h, stop := headerStop h, tmp := headerTmp h,
    eng := headerEng h, len := headerLen h, cost := cost }

/-- The code offset that follows a run's extent. -/
def Run.behind (r : Run) : Nat := r.header + 4 * r.words.length

/-- Why a page may not be fetched from: its world, or poison (R333, R361). -/
def State.fetchRefused (s : State) (core : Nat) (c : Caravan) (off : Nat) : Option Cause :=
  match s.translated core c.ctx (c.codeBase + off) true with
  | none => none
  | some e =>
    if leafPoison e.leaf then some .pageLost
    else if leafSecure e.leaf && !s.ctxSecure c.ctx then some .protection
    else none

/-- A word of a caravan's code section through the core's TLB, where its page may be fetched from. -/
def State.codeWord (s : State) (core : Nat) (c : Caravan) (off : Nat) : Option Word :=
  let va := c.codeBase + off
  match s.translated core c.ctx va true with
  | some x => if (s.fetchRefused core c off).isSome then none else some (Memory.readWord s.mem (leafPa x.leaf va))
  | none => none

/-- What an instruction that needs the extent of a run finds (R104, R163). -/
inductive Extent
  /-- the code offset that follows the extent -/
  | behind (off : Nat)
  /-- the word at the offset fails R20, or its page may not be fetched from -/
  | none
  /-- the page of a word is not translated: the instruction waits (R295) -/
  | waits (s : State)

/-- The code offset that follows the extent of the run at an offset. -/
def State.extentOf (s : State) (w : Warp) (off : Nat) : Extent :=
  match s.caravan? w.caravan with
  | none => .none
  | some c =>
    match fetchWords (s.codeWord w.core c) c.codeSize off with
    | .words ws => .behind (off + 4 * ws.length)
    | .bad => .none
    | .miss o =>
      if (s.fetchRefused w.core c o).isSome then .none
      else .waits (s.requestWalk ⟨w.core, w.ctx, c.codeBase + o, .fetch, .warp s.cur⟩)

/-! ### Instructions of a run -/

/-- The instructions of a run's words, with the position of each one's first word. -/
def rawsFrom (ws : List Word) (pos n : Nat) : List (Nat × Raw) :=
  match n with
  | 0 => []
  | k + 1 =>
    let w0 := listGet 0 ws pos
    (pos, parse w0 (if wordCount w0 = 1 then 0 else listGet 0 ws (pos + 1))) :: rawsFrom ws (pos + wordCount w0) k

def Run.raws (r : Run) : List (Nat × Raw) := rawsFrom r.words 1 r.len

/-- OP of a cut instruction. -/
def opNat (r : Raw) : Nat :=
  match r with
  | .s op _ _ _ _ => op.toNat
  | .b op _ _ => op.toNat
  | .l op _ _ _ => op.toNat
  | .v op _ _ => op.toNat
  | .m op _ _ => op.toNat
  | .a op _ _ _ => op.toNat
  | .x op _ _ _ _ => op.toNat
  | .e op _ _ => op.toNat
  | .r op _ _ _ _ _ => op.toNat

/-- FN of a cut instruction that has one. -/
def fnNat (r : Raw) : Nat :=
  match r with
  | .v _ fn _ => fn.toNat
  | .x _ fn _ _ _ => fn.toNat
  | .e _ fn _ => fn.toNat
  | _ => 0

/-- The ENG bit an instruction's class needs, counted from header bit 5 (R19). -/
def classBit (op : Nat) : Option Nat :=
  if op ≤ 0x40 then none
  else if op = 0x47 ∨ op = 0x48 ∨ op = 0x67 ∨ op = 0x68 then some 1
  else if op = 0x4E then none
  else if op ≤ 0x50 then some 0
  else if op ≤ 0x58 then some 2
  else if op ≤ 0x5C then some 4
  else if op ≤ 0x5F then none
  else if op ≤ 0x66 then some 3
  else if op ≤ 0x73 then some 4
  else if op ≤ 0x77 then some 5
  else none

/-- A control transfer (R22). -/
def isTransfer (op : Nat) : Bool :=
  op == 0x20 || op == 0x21 || op == 0x22 || op == 0x23 || op == 0x24 || op == 0x25 || op == 0x26 || op == 0x27
    || op == 0x2A || op == 0x2B || op == 0x4E

/-- The feature an instruction depends on, as a bit of FEAT_ACCEPT (R40, R369). -/
def featureOf (r : Raw) : Option Nat :=
  let op := opNat r
  let fn := fnNat r
  if op = 0x5B then some 0
  else if op = 0x4F ∨ (op = 0x46 ∧ (fn = 3 ∨ fn = 7)) ∨ (op = 0x45 ∧ fn % 16 = 11) then some 1
  else if op = 0x61 then some 2
  else if 0x69 ≤ op ∧ op ≤ 0x6C then some 3
  else if op = 0x6F ∨ op = 0x70 then some 4
  else if op = 0x73 then some 5
  else if 0x74 ≤ op ∧ op ≤ 0x76 then some 6
  else none

/-- The temporaries among vector codes, as a set. -/
def tempsOf (codes : List (BitVec 8)) : BitVec 4 :=
  codes.foldl (fun acc c =>
    match codeOf c with
    | .t k => acc ||| BitVec.ofNat 4 (2 ^ k)
    | _ => acc) 0

/-- The cause of one instruction of a run that fails predecode, ranked as R23 ranks them. `written` holds the
temporaries that earlier instructions of the run write. -/
def predecodeOne (r : Raw) (eng : BitVec 6) (tmp tracks : Nat) (accept : BitVec 128) (last : Bool)
    (written : BitVec 4) : Option Cause :=
  let featureOk := match featureOf r with
    | some b => accept.getLsbD b
    | none => true
  let classOk := match classBit (opNat r) with
    | some b => eng.getLsbD b
    | none => true
  let limit := BitVec.ofNat 4 (2 ^ tmp - 1)
  let reads := tempsOf (readsOf r)
  if r.reject.isSome || !featureOk then some .illegalInstruction
  else if !classOk then some .classViolation
  else if isTransfer (opNat r) && !last then some .misplacedBranch
  else if !operandsOk r tracks || (reads ||| tempsOf (writesOf r)) &&& ~~~limit != 0 || reads &&& ~~~written != 0 then
    some .illegalOperand
  else none

/-- The first failing instruction of a run and its cause (R23). -/
def predecodeFrom (raws : List (Nat × Raw)) (eng : BitVec 6) (tmp tracks : Nat) (accept : BitVec 128) (idx : Nat)
    (written : BitVec 4) : Option (Nat × Cause) :=
  match raws with
  | [] => none
  | (_, r) :: rest =>
    match predecodeOne r eng tmp tracks accept rest.isEmpty written with
    | some c => some (idx, c)
    | none => predecodeFrom rest eng tmp tracks accept (idx + 1) (written ||| tempsOf (writesOf r))

def predecode (run : Run) (tracks : Nat) (accept : BitVec 128) : Option (Nat × Cause) :=
  predecodeFrom run.raws run.eng run.tmp tracks accept 0 0

/-! ### What a run needs (R186) -/

/-- The handoff codes of every source and destination field of a run. -/
def Run.handoffCodes (run : Run) : List (Nat × Nat) :=
  run.raws.flatMap fun x =>
    (readsOf x.2 ++ writesOf x.2).filterMap fun c =>
      match codeOf c with
      | .h k d => some (k, d)
      | _ => none

/-- Every need of NEEDS is met (R186). -/
def Caravan.needsMet (c : Caravan) (run : Run) (pass : Nat) : Bool :=
  run.handoffCodes.all fun (k, d) =>
    if 1 ≤ d then c.met k pass d
    else if !c.wroteTrack pass k then c.met k pass 1
    else if c.relayedTrack pass k then c.met k pass 0
    else true

/-! ### What a run is charged (R253) -/

/-- The operation class of an instruction. -/
def chargeClass (r : Raw) : Nat :=
  let op := opNat r
  let fn := fnNat r
  if op ≤ 0x40 ∨ op = 0x4E then 0
  else if op = 0x43 ∨ op = 0x45 ∨ op = 0x46 then 2
  else if op = 0x4A then (if fn ≥ 6 then 2 else 1)
  else if op = 0x4B then (if fn = 5 then 2 else 1)
  else if op = 0x47 ∨ op = 0x48 then 3
  else if op ≤ 0x50 then 1
  else if op ≤ 0x58 then 4
  else if op ≤ 0x5A then 8
  else if op = 0x5B then 11
  else if op = 0x5C then 7
  else if op = 0x60 ∨ op = 0x61 then 5
  else if op ≤ 0x66 then 6
  else if op ≤ 0x68 then 8
  else if op ≤ 0x6C then 9
  else if op ≤ 0x70 then 11
  else if op ≤ 0x73 then 10
  else 12

/-- The charge of a run under the weights in force when its predecode begins (R253, R254). -/
def chargeOf (raws : List (Nat × Raw)) (weights : List Nat) : Nat :=
  raws.foldl (fun acc x => acc + listGet 0 weights (chargeClass x.2)) 0

/-- A matrix-bearing run: ENG bit 8, or an instruction of class 9 (R253). -/
def Run.matrixBearing (run : Run) : Bool := run.eng.getLsbD 3 || run.raws.any fun x => chargeClass x.2 == 9

end Sys2Proof.Machine
end

