-- ==== Sys2Proof/Machine/Flags.lean ====
section
/-! DEFINITION. The sticky flags (R81) and the frame of a per-thread vector instruction that may set them (R57, R82, R114). -/

namespace Sys2Proof.Machine

/-! ### The bits of FLAGS (R81) -/

abbrev Flags := BitVec 11

def fInvalid : Flags := 1
def fDivZero : Flags := 2
def fOverflow : Flags := 4
def fUnderflow : Flags := 8
def fInexact : Flags := 16
def fSaturated : Flags := 32
def fFlushed : Flags := 64
def fBlockSpecial : Flags := 128
def fQZero : Flags := 256
def fAccOverflow : Flags := 512
def fQueueOverflow : Flags := 1024

/-- A flag where the condition holds. -/
def flagIf (b : Bool) (f : Flags) : Flags := if b then f else 0

/-- FLAGS accumulates by OR (R81). -/
def Warp.orFlags (w : Warp) (f : Flags) : Warp := { w with flags := w.flags ||| f }

/-- The flags that the threads of a mask raise together. -/
def flagsOver (take : BitVec 96) (f : Nat → Flags) : Flags := (threadsOf take).foldl (fun acc t => acc ||| f t) 0

/-! ### Packed elements (R67) -/

/-- Element `k` of width `w` of a register element. -/
def elem (w : Nat) (x : Word) (k : Nat) : Nat := x.toNat / 2 ^ (w * k) % 2 ^ w

/-- The word of the elements `g 0`, `g 1`, … of width `w`. -/
def packWord (w : Nat) (g : Nat → Nat) : Word :=
  BitVec.ofNat 32 ((List.range (32 / w)).foldl (fun acc k => acc + g k % 2 ^ w * 2 ^ (w * k)) 0)

/-- The value of a `w`-bit pattern, two's complement where `signed`. -/
def elemInt (w : Nat) (signed : Bool) (x : Nat) : Int :=
  if signed && decide (2 ^ (w - 1) ≤ x) then (x : Int) - 2 ^ w else x

/-- The low `w` bits of an exact result. -/
def wrapInt (w : Nat) (v : Int) : Nat := (v % (2 ^ w : Int)).toNat

/-- The exact result clamped to the range of the format, and whether the clamp changed it (R67). -/
def clampInt (w : Nat) (signed : Bool) (v : Int) : Nat × Bool :=
  let lo : Int := if signed then -(2 ^ (w - 1) : Int) else 0
  let hi : Int := if signed then (2 ^ (w - 1) : Int) - 1 else (2 ^ w : Int) - 1
  if v < lo then (wrapInt w lo, true) else if hi < v then (wrapInt w hi, true) else (wrapInt w v, false)

/-! ### The frame of a vector instruction -/

/-- A per-thread instruction with one vector destination: each thread that takes part writes the result of `g` and ORs
in its flags. A never-instruction only completes. -/
def vectorOp (r : Raw) (f : VForm) (g : Warp → Nat → Word × Flags) (s : State) : Host.Outcome State Fault Refusal :=
  checked r s fun w =>
    if isNever f.pred f.pneg then s.finish w
    else
      let take := s.takes w f.pred f.pneg
      ((s.writeVector s.cur f.vd take fun t => (g w t).1).updWarp s.cur fun w' =>
        w'.orFlags (flagsOver take fun t => (g w t).2)).finishCur

/-- The same, for an instruction that sets no flag. -/
def vectorPlain (r : Raw) (f : VForm) (g : Warp → Nat → Word) (s : State) : Host.Outcome State Fault Refusal :=
  checked r s fun w =>
    if isNever f.pred f.pneg then s.finish w
    else (s.writeVector s.cur f.vd (s.takes w f.pred f.pneg) (g w)).finishCur

/-- A per-thread instruction that writes one bit of a predicate in each thread that takes part. -/
def predicateOp (r : Raw) (f : VForm) (g : Warp → Nat → Bool × Flags) (s : State) :
    Host.Outcome State Fault Refusal :=
  checked r s fun w =>
    let take := s.takes w f.pred f.pneg
    let n := (f.vd.extractLsb' 0 3).toNat
    s.finish ((w.setPredicate n (maskOf fun t => if take.getLsbD t then (g w t).1 else (w.predicate n).getLsbD t)).orFlags
      (flagsOver take fun t => (g w t).2))

/-- A per-thread instruction that writes one scalar, once, where some thread takes part (R114). -/
def toScalar (r : Raw) (f : VForm) (g : Warp → BitVec 96 → Word × Flags) (s : State) :
    Host.Outcome State Fault Refusal :=
  checked r s fun w =>
    let take := s.takes w f.pred f.pneg
    if take = 0 then s.finish w
    else s.finish ((w.setS (f.vd.extractLsb' 0 6) (g w take).1).orFlags (g w take).2)

end Sys2Proof.Machine
end

