-- ==== Sys2Proof/Machine/Number.lean ====
section
/-! DEFINITION. Number formats: decoding, exact arithmetic on decoded values, and the one rounding into a format (R67 to R80,
R387). -/

namespace Sys2Proof.Machine

/-- The float formats (R68 to R70). -/
inductive Fmt
  | f32 | f16 | bf16 | e4 | e5 | f4 | lg
  deriving DecidableEq, Repr

/-- A decoded value: a NaN, an infinity, or (-1)^neg times m times 2^e. -/
inductive FVal
  | nan (signalling : Bool)
  | inf (neg : Bool)
  | fin (neg : Bool) (m : Nat) (e : Int)
  deriving DecidableEq, Repr

/-- Bits of the fraction field. -/
def Fmt.frac : Fmt → Nat
  | .f32 => 23 | .f16 => 10 | .bf16 => 7 | .e4 => 3 | .e5 => 2 | .f4 => 1 | .lg => 0

/-- Bits of the exponent field. -/
def Fmt.exp : Fmt → Nat
  | .f32 => 8 | .f16 => 5 | .bf16 => 8 | .e4 => 4 | .e5 => 5 | .f4 => 2 | .lg => 5

def Fmt.bias : Fmt → Nat
  | .f32 => 127 | .f16 => 15 | .bf16 => 127 | .e4 => 7 | .e5 => 15 | .f4 => 1 | .lg => 0

/-- The width of a code. -/
def Fmt.width : Fmt → Nat
  | .f32 => 32 | .f16 => 16 | .bf16 => 16 | .e4 => 8 | .e5 => 8 | .f4 => 4 | .lg => 8

/-- The bit of the format in OPFTZ and RESFTZ (R77), where it has one. -/
def Fmt.ftzBit : Fmt → Option Nat
  | .f32 => some 0 | .f16 => some 1 | .bf16 => some 2 | .e4 => some 3 | .e5 => some 4 | .f4 => none | .lg => none

/-- The exponent of the least subnormal's unit. -/
def Fmt.qmin (f : Fmt) : Int := 1 - (f.bias : Int) - f.frac

/-- The largest finite value as m times 2^q. -/
def Fmt.maxFinite (f : Fmt) : Nat × Int :=
  match f with
  | .e4 => (14, 5)
  | .f4 => (3, 1)
  | _ => (2 ^ (f.frac + 1) - 1, (2 ^ f.exp - 2 : Nat) - (f.bias : Int) - f.frac)

/-- The code of the largest finite magnitude. -/
def Fmt.maxCode (f : Fmt) : Nat :=
  match f with
  | .f32 => 0x7F7FFFFF | .f16 => 0x7BFF | .bf16 => 0x7F7F | .e4 => 0x7E | .e5 => 0x7B | .f4 => 7 | .lg => 31

/-- The canonical NaN (R79); FP4 and LG6 have none and take +0 (R80). -/
def Fmt.nanCode (f : Fmt) : Nat :=
  match f with
  | .f32 => 0x7FC00000 | .f16 => 0x7E00 | .bf16 => 0x7FC0 | .e4 => 0x7F | .e5 => 0x7E | .f4 => 0 | .lg => 0

/-- The code of the positive infinity where the format has one. -/
def Fmt.infCode (f : Fmt) : Nat :=
  match f with
  | .f32 => 0x7F800000 | .f16 => 0x7C00 | .bf16 => 0x7F80 | .e5 => 0x7C | _ => 0

/-- The sign bit of a code. -/
def Fmt.signBit (f : Fmt) : Nat := 2 ^ (f.width - 1)

def Fmt.signed (f : Fmt) (neg : Bool) (code : Nat) : Nat := if neg then f.signBit + code else code

/-! ### LG6 (R70) -/

def lgTab (i : Nat) : Nat :=
  match i with
  | 0 => 256 | 1 => 304 | 2 => 362 | _ => 431

/-- The magnitude of code L in units of 1/4096. -/
def lgMag (l : Nat) : Nat := if l = 0 then 0 else lgTab (l % 4) * 2 ^ (l / 4)

/-- Bits 6:5 of an LG6 byte are nonzero: it reads as +0 and sets *invalid*. -/
def lgBad (code : Nat) : Bool := code / 32 % 4 != 0

/-! ### Decoding (R68 to R70, R79) -/

/-- The value of a code. -/
def Fmt.decode (f : Fmt) (code : Nat) : FVal :=
  let neg := code / f.signBit % 2 = 1
  match f with
  | .lg => if lgBad code then .fin false 0 0 else .fin neg (lgMag (code % 32)) (-12)
  | _ =>
    let ex := code / 2 ^ f.frac % 2 ^ f.exp
    let fr := code % 2 ^ f.frac
    if ex = 0 then .fin neg fr f.qmin
    else if ex = 2 ^ f.exp - 1 ∧ f = .e4 ∧ fr = 7 then .nan false
    else if ex = 2 ^ f.exp - 1 ∧ f ≠ .e4 ∧ f ≠ .f4 then
      if fr = 0 then .inf neg else .nan (fr / 2 ^ (f.frac - 1) = 0)
    else .fin neg (2 ^ f.frac + fr) (f.qmin + ex - 1)

/-- The value is a nonzero subnormal of the format. -/
def Fmt.isSubnormal (f : Fmt) (v : FVal) : Bool :=
  match v with
  | .fin _ m e => m != 0 && decide (m < 2 ^ f.frac) && e == f.qmin
  | _ => false

/-- An operand of a vector instruction: decoded, and flushed under OPFTZ (R78); an LG6 byte with bad bits is +0 and
*invalid*. -/
def Fmt.read (f : Fmt) (opftz : BitVec 5) (code : Nat) : FVal × Flags :=
  let v := f.decode code
  let flush := match f.ftzBit with
    | some b => opftz.getLsbD b && f.isSubnormal v
    | none => false
  if flush then
    (match v with
     | .fin neg _ _ => .fin neg 0 0
     | x => x, fFlushed)
  else (v, flagIf (decide (f = .lg) && lgBad code) fInvalid)

/-- A signalling NaN operand sets *invalid* (R79). -/
def FVal.sigFlag (v : FVal) : Flags :=
  match v with
  | .nan true => fInvalid
  | _ => 0

def FVal.isNaN (v : FVal) : Bool :=
  match v with
  | .nan _ => true
  | _ => false

def FVal.isZero (v : FVal) : Bool :=
  match v with
  | .fin _ m _ => m == 0
  | _ => false

def FVal.isNeg (v : FVal) : Bool :=
  match v with
  | .nan _ => false
  | .inf n => n
  | .fin n _ _ => n

def FVal.negate (v : FVal) : FVal :=
  match v with
  | .nan b => .nan b
  | .inf n => .inf (!n)
  | .fin n m e => .fin (!n) m e

def FVal.abs (v : FVal) : FVal :=
  match v with
  | .nan b => .nan b
  | .inf _ => .inf false
  | .fin _ m e => .fin false m e

/-! ### Rounding (R75, R76, R80) -/

/-- How a value between two neighbours is rounded: one of the four modes of R31, or stochastically with a word X. -/
inductive Rounding
  | mode (rm : BitVec 2)
  | stochastic (x : Word)
  deriving DecidableEq, Repr

def rne : Rounding := .mode 0

/-- Whether the larger of two adjacent magnitudes is taken, for the exact magnitude m + r/d with 0 ≤ r < d. -/
def roundsUp (rd : Rounding) (neg : Bool) (odd : Bool) (r d : Nat) : Bool :=
  if r = 0 then false
  else match rd with
    | .mode rm =>
      if rm = 0 then decide (d < 2 * r) || (2 * r == d && odd)
      else if rm = 1 then false
      else if rm = 2 then !neg
      else neg
    | .stochastic x => decide (x.toNat < 2 ^ 32 * r / d)

/-- The floor of log2 of num/den. -/
def floorLog2 (num den : Nat) : Int :=
  let k : Int := (num.log2 : Int) - den.log2
  let le (j : Int) : Bool :=
    if 0 ≤ j then decide (den * 2 ^ j.toNat ≤ num) else decide (den ≤ num * 2 ^ (-j).toNat)
  if le (k + 1) then k + 1 else if le k then k else k - 1

/-- num/den times 2^e in units of 2^q: the whole part, and the rest over its denominator. -/
def inUnits (num den : Nat) (e q : Int) : Nat × Nat × Nat :=
  let n := if q ≤ e then num * 2 ^ (e - q).toNat else num
  let d := if q ≤ e then den else den * 2 ^ (q - e).toNat
  (n / d, n % d, d)

/-- m times 2^q exceeds m' times 2^q'. -/
def exceeds (m : Nat) (q : Int) (m' : Nat) (q' : Int) : Bool :=
  if q' ≤ q then decide (m' < m * 2 ^ (q - q').toNat) else decide (m' * 2 ^ (q' - q).toNat < m)

/-- The directed mode toward zero for a sign, or RZ (R80). -/
def towardZero (rd : Rounding) (neg : Bool) : Bool :=
  match rd with
  | .mode rm => rm == 1 || (rm == 2 && neg) || (rm == 3 && !neg)
  | .stochastic _ => false

/-- The result of a finite overflow (R80). -/
def Fmt.overflow (f : Fmt) (rd : Rounding) (sat neg : Bool) : Nat × Flags :=
  if f = .f4 ∨ f = .lg ∨ sat then (f.signed neg f.maxCode, fSaturated)
  else if towardZero rd neg then (f.signed neg f.maxCode, fOverflow ||| fInexact)
  else if f = .e4 then (f.nanCode, fOverflow ||| fInexact)
  else (f.signed neg f.infCode, fOverflow ||| fInexact)

/-- The code of m times 2^q, where m is below 2^(frac+1) or equal to it. -/
def Fmt.encode (f : Fmt) (neg : Bool) (m : Nat) (q : Int) : Nat :=
  let m' := if m = 2 ^ (f.frac + 1) then m / 2 else m
  let q' := if m = 2 ^ (f.frac + 1) then q + 1 else q
  f.signed neg (if m' < 2 ^ f.frac then m' else (q' - f.qmin + 1).toNat * 2 ^ f.frac + (m' - 2 ^ f.frac))

/-- The largest code of LG6 whose magnitude is at most num/den times 2^e. -/
def lgFloor (num den : Nat) (e : Int) : Nat :=
  (List.range 32).foldl (fun best l =>
    let (m, _, _) := inUnits num den e (-12)
    if lgMag l ≤ m then l else best) 0

/-- The exact value (-1)^neg num/den 2^e rounded into LG6: to the nearest of the codes in value, ties to the even
code (R71). -/
def roundLg (rd : Rounding) (neg : Bool) (num den : Nat) (e : Int) : Nat × Flags :=
  let l := lgFloor num den e
  let (n, d) := if -12 ≤ e then (num * 2 ^ (e + 12).toNat, den) else (num, den * 2 ^ (-12 - e).toNat)
  let r := n - lgMag l * d
  if l = 31 ∧ r ≠ 0 then (Fmt.lg.signed neg 31, fSaturated)
  else
    let gap := (lgMag (l + 1) - lgMag l) * d
    let up := roundsUp rd neg (l % 2 == 1) r gap
    let l' := if up then l + 1 else l
    (Fmt.lg.signed neg l',
      flagIf (r != 0) fInexact ||| flagIf (l' == 0) fUnderflow)

/-- The exact nonzero value (-1)^neg num/den 2^e rounded once into a format, with the flags of R75 and R80. -/
def Fmt.round (f : Fmt) (rd : Rounding) (sat neg : Bool) (num den : Nat) (e : Int) : Nat × Flags :=
  if f = .lg then roundLg rd neg num den e
  else
    let q := max (floorLog2 num den + e - f.frac) f.qmin
    let (m, r, d) := inUnits num den e q
    let above := match rd with
      | .stochastic _ => exceeds m q f.maxFinite.1 f.maxFinite.2
          || (!exceeds f.maxFinite.1 f.maxFinite.2 m q && r != 0)
      | _ => false
    let m' := if roundsUp rd neg (m % 2 == 1) r d then m + 1 else m
    if above || exceeds m' q f.maxFinite.1 f.maxFinite.2 then f.overflow rd sat neg
    else
      let tiny := m' == 0 || (decide (f ≠ .f4) && decide (m' < 2 ^ f.frac))
      (f.encode neg m' q, flagIf (r != 0) fInexact ||| flagIf (r != 0 && tiny) fUnderflow)

/-- The code of a value that the format holds exactly, or of a special value without a flag. -/
def Fmt.exact (f : Fmt) (v : FVal) : Nat :=
  match v with
  | .nan _ => f.nanCode
  | .inf n => f.signed n f.infCode
  | .fin n m e => if m = 0 then f.signed n 0 else (f.round rne false n m 1 e).1

/-- A special value into a format (R80). With `.sat` an infinity gives the largest finite value in a `vcvt` between equal formats too,
where R124 has the pair copy the value (DESIGN CHOICE, assumption log 48). -/
def Fmt.special (f : Fmt) (sat : Bool) (v : FVal) : Nat × Flags :=
  match v with
  | .nan _ =>
    match f with
    | .f4 => (0, fInvalid)
    | .lg => (0, fInvalid)
    | _ => (f.nanCode, 0)
  | .inf n =>
    match f with
    | .f4 => (f.signed n f.maxCode, fSaturated ||| fInvalid)
    | .lg => (f.signed n f.maxCode, fSaturated ||| fInvalid)
    | .e4 => if sat then (f.signed n f.maxCode, fSaturated) else (f.nanCode, fInvalid)
    | _ => if sat then (f.signed n f.maxCode, fSaturated) else (f.signed n f.infCode, 0)
  | .fin n _ _ => (f.signed n 0, 0)

/-- Result flush under RESFTZ (R78): a nonzero subnormal code becomes the zero of its sign. -/
def Fmt.flushResult (f : Fmt) (resftz : BitVec 5) (x : Nat × Flags) : Nat × Flags :=
  match f.ftzBit with
  | some b =>
    if resftz.getLsbD b && f.isSubnormal (f.decode x.1) then
      (x.1 / f.signBit * f.signBit, x.2 ||| fFlushed ||| fUnderflow ||| fInexact ||| fQZero)
    else x
  | none => x

/-- A value as the result of an operation in a format: rounded once under the mode, then flushed (R68, R78). -/
def Fmt.result (f : Fmt) (rm : BitVec 2) (resftz : BitVec 5) (v : FVal) : Nat × Flags :=
  match v with
  | .fin n m e =>
    if m = 0 then (f.signed n 0, 0) else f.flushResult resftz (f.round (.mode rm) false n m 1 e)
  | x => f.special false x

/-- A value converted into a format (R125): as a result, with saturation and stochastic rounding where asked for, and
*quantised-to-zero* where a nonzero value becomes zero (R387). -/
def Fmt.convert (f : Fmt) (rd : Rounding) (sat : Bool) (resftz : BitVec 5) (v : FVal) : Nat × Flags :=
  match v with
  | .fin n m e =>
    if m = 0 then (f.signed n 0, 0)
    else
      let x := f.flushResult resftz (f.round rd sat n m 1 e)
      (x.1, x.2 ||| flagIf (x.1 % f.signBit == 0) fQZero)
  | x => f.special sat x

/-! ### Exact arithmetic (R120) -/

/-- The sum of two exact values of one scale. -/
def addFin (rm : BitVec 2) (n1 : Bool) (m1 : Nat) (e1 : Int) (n2 : Bool) (m2 : Nat) (e2 : Int) : FVal :=
  let e := min e1 e2
  let x : Int := (if n1 then -1 else 1) * (m1 * 2 ^ (e1 - e).toNat : Nat)
  let y : Int := (if n2 then -1 else 1) * (m2 * 2 ^ (e2 - e).toNat : Nat)
  let z := x + y
  if z = 0 then
    .fin (if m1 = 0 ∧ m2 = 0 ∧ n1 = n2 then n1 else rm == 3) 0 0
  else .fin (decide (z < 0)) z.natAbs e

/-- a + b, exact, with the invalid cases (R79, R120). -/
def FVal.add (rm : BitVec 2) (a b : FVal) : FVal × Flags :=
  match a, b with
  | .inf n1, .inf n2 => if n1 = n2 then (.inf n1, 0) else (.nan false, fInvalid)
  | .fin n1 m1 e1, .fin n2 m2 e2 => (addFin rm n1 m1 e1 n2 m2 e2, 0)
  | .inf n, .fin _ _ _ => (.inf n, 0)
  | .fin _ _ _, .inf n => (.inf n, 0)
  | x, y => (.nan false, x.sigFlag ||| y.sigFlag)

/-- a times b, exact. -/
def FVal.mul (a b : FVal) : FVal × Flags :=
  match a, b with
  | .inf n1, .inf n2 => (.inf (n1 != n2), 0)
  | .fin n1 m1 e1, .fin n2 m2 e2 => (.fin (n1 != n2) (m1 * m2) (e1 + e2), 0)
  | .inf n1, .fin n2 m _ => if m = 0 then (.nan false, fInvalid) else (.inf (n1 != n2), 0)
  | .fin n1 m _, .inf n2 => if m = 0 then (.nan false, fInvalid) else (.inf (n1 != n2), 0)
  | x, y => (.nan false, x.sigFlag ||| y.sigFlag)

/-- a times b plus d, exact. -/
def FVal.fma (rm : BitVec 2) (a b d : FVal) : FVal × Flags :=
  let (p, f1) := a.mul b
  let (r, f2) := p.add rm d
  (r, f1 ||| f2)

/-- a < b on numbers, with -0 equal to +0. -/
def FVal.less (a b : FVal) : Bool :=
  match a, b with
  | .fin n1 m1 e1, .fin n2 m2 e2 =>
    let e := min e1 e2
    let x : Int := (if n1 then -1 else 1) * (m1 * 2 ^ (e1 - e).toNat : Nat)
    let y : Int := (if n2 then -1 else 1) * (m2 * 2 ^ (e2 - e).toNat : Nat)
    decide (x < y)
  | .inf n1, .inf n2 => n1 && !n2
  | .inf n1, .fin _ _ _ => n1
  | .fin _ _ _, .inf n2 => !n2
  | _, _ => false

/-- a = b on numbers. -/
def FVal.equal (a b : FVal) : Bool := !a.isNaN && !b.isNaN && !a.less b && !b.less a

/-- The smaller or larger under R121: -0 lies below +0, and a NaN yields to a number. -/
def FVal.minMax (takeMax : Bool) (a b : FVal) : FVal × Flags :=
  let flags := a.sigFlag ||| b.sigFlag
  if a.isNaN && b.isNaN then (.nan false, flags)
  else if a.isNaN then (b, flags)
  else if b.isNaN then (a, flags)
  else
    let lt := a.less b || (a.equal b && a.isNeg && !b.isNeg)
    (if lt then (if takeMax then b else a) else (if takeMax then a else b), flags)

/-- The value rounded to an integer: its magnitude and whether it changed. -/
def roundInteger (rd : Rounding) (neg : Bool) (m : Nat) (e : Int) : Nat × Bool :=
  let (k, r, d) := inUnits m 1 e 0
  (if roundsUp rd neg (k % 2 == 1) r d then k + 1 else k, r != 0)

/-! ### FPCTL (R77) -/

def Warp.opftz (w : Warp) : BitVec 5 := w.fpctl.extractLsb' 0 5
def Warp.resftz (w : Warp) : BitVec 5 := w.fpctl.extractLsb' 8 5
def Warp.srseq (w : Warp) : BitVec 16 := w.fpctl.extractLsb' 16 16

/-- The word X of stochastic rounding (R76) for pass j and thread t. -/
def stochasticWord (srseq : BitVec 16) (caravan pass : Word) (t : Nat) : Word :=
  let x0 := srseq.zeroExtend 32 ^^^ (caravan * 0x9E3779B9) ^^^ (pass * 0x85EBCA6B) ^^^ (BitVec.ofNat 32 t * 0xC2B2AE35)
  let x1 := x0 ^^^ (x0 >>> 16)
  let x2 := x1 * 0x7FEB352D
  let x3 := x2 ^^^ (x2 >>> 15)
  let x4 := x3 * 0x846CA68B
  x4 ^^^ (x4 >>> 16)

end Sys2Proof.Machine
end

