-- ==== Sys2Proof/Machine/Scalar.lean ====
section
/-! DEFINITION. The scalar instructions: integer arithmetic and logic, `sli`, the special registers and device time
(R92 to R98, R107). -/

namespace Sys2Proof.Machine

/-! ### Arithmetic on words (R93, R94) -/

def boolWord (b : Bool) : Word := if b then 1 else 0

/-- A shift or rotate amount: b mod 32. -/
def shiftAmount (b : Word) : Nat := (b.extractLsb' 0 5).toNat

def mulHighSigned (a b : Word) : Word := (a.signExtend 64 * b.signExtend 64).extractLsb' 32 32

def mulHighUnsigned (a b : Word) : Word := (a.zeroExtend 64 * b.zeroExtend 64).extractLsb' 32 32

/-- DIVS of R94. -/
def divSigned (a b : Word) : Word :=
  if b = 0 then 0xFFFFFFFF else if a = 0x80000000 ∧ b = 0xFFFFFFFF then 0x80000000 else a.sdiv b

def remSigned (a b : Word) : Word :=
  if b = 0 then a else if a = 0x80000000 ∧ b = 0xFFFFFFFF then 0 else a - (a.sdiv b) * b

/-- DIVU of R94. -/
def divUnsigned (a b : Word) : Word := if b = 0 then 0xFFFFFFFF else a / b

def remUnsigned (a b : Word) : Word := if b = 0 then a else a - (a / b) * b

/-- The number of leading zero bits; 32 for 0. -/
def leadingZeros (a : Word) : Word := if a = 0 then 32 else BitVec.ofNat 32 (31 - a.toNat.log2)

/-- The number of one bits. -/
def oneBits (a : Word) : Word :=
  BitVec.ofNat 32 ((List.range 32).foldl (fun n i => n + if a.getLsbD i then 1 else 0) 0)

/-- The word whose bit i is `f i`. -/
def wordOf (f : Nat → Bool) : Word :=
  BitVec.ofNat 32 ((List.range 32).foldl (fun n i => n + if f i then 2 ^ i else 0) 0)

/-- Bit i of the result is bit 31 - i. -/
def reverseBits (a : Word) : Word := wordOf fun i => a.getLsbD (31 - i)

/-- A sign-extended IMM12 (R25). -/
def immS (imm : BitVec 12) : Word := imm.signExtend 32

/-- A zero-extended IMM12 (R25). -/
def immZ (imm : BitVec 12) : Word := imm.zeroExtend 32

/-! ### The frame of a scalar operation (R92) -/

/-- Register form: SD takes `g a b`, and the next instruction follows. -/
def aluReg (op : BitVec 7) (g : Word → Word → Word) (sd sa sb : BitVec 6) (s : State) :
    Host.Outcome State Fault Refusal :=
  checked (.s op sd sa 0 ((0 : BitVec 6) ++ sb)) s fun w => s.finish (w.setS sd (g (w.sreg sa) (w.sreg sb)))

/-- Immediate form: b is the extended immediate. -/
def aluImm (op : BitVec 7) (g : Word → Word → Word) (ext : BitVec 12 → Word) (sd sa : BitVec 6) (imm : BitVec 12)
    (s : State) : Host.Outcome State Fault Refusal :=
  checked (.s op sd sa 1 imm) s fun w => s.finish (w.setS sd (g (w.sreg sa) (ext imm)))

/-- One-source form. -/
def aluOne (op : BitVec 7) (g : Word → Word) (sd sa : BitVec 6) (s : State) : Host.Outcome State Fault Refusal :=
  checked (.s op sd sa 0 0) s fun w => s.finish (w.setS sd (g (w.sreg sa)))

/-! ### The ALU results of R93 -/

/-- `add` (R93). -/
def aluAdd (a b : Word) : Word := a + b

/-- `sub` (R93). -/
def aluSub (a b : Word) : Word := a - b

/-- `mul` (R93). -/
def aluMul (a b : Word) : Word := a * b

/-- `mulhs` (R93). -/
def aluMulhs (a b : Word) : Word := mulHighSigned a b

/-- `mulhu` (R93). -/
def aluMulhu (a b : Word) : Word := mulHighUnsigned a b

/-- `divs` (R93, R94). -/
def aluDivs (a b : Word) : Word := divSigned a b

/-- `divu` (R93, R94). -/
def aluDivu (a b : Word) : Word := divUnsigned a b

/-- `rems` (R93, R94). -/
def aluRems (a b : Word) : Word := remSigned a b

/-- `remu` (R93, R94). -/
def aluRemu (a b : Word) : Word := remUnsigned a b

/-- `and` (R93). -/
def aluAnd (a b : Word) : Word := a &&& b

/-- `or` (R93). -/
def aluOr (a b : Word) : Word := a ||| b

/-- `xor` (R93). -/
def aluXor (a b : Word) : Word := a ^^^ b

/-- `andn` (R93). -/
def aluAndn (a b : Word) : Word := a &&& ~~~b

/-- `shl` (R93). -/
def aluShl (a b : Word) : Word := a <<< shiftAmount b

/-- `shr` (R93). -/
def aluShr (a b : Word) : Word := a >>> shiftAmount b

/-- `sar` (R93). -/
def aluSar (a b : Word) : Word := a.sshiftRight (shiftAmount b)

/-- `rol` (R93). -/
def aluRol (a b : Word) : Word := a.rotateLeft (shiftAmount b)

/-- `min` (R93). -/
def aluMin (a b : Word) : Word := if a.slt b then a else b

/-- `max` (R93). -/
def aluMax (a b : Word) : Word := if a.slt b then b else a

/-- `minu` (R93). -/
def aluMinu (a b : Word) : Word := if a.ult b then a else b

/-- `maxu` (R93). -/
def aluMaxu (a b : Word) : Word := if a.ult b then b else a

/-- `slt` (R93). -/
def aluSlt (a b : Word) : Word := boolWord (a.slt b)

/-- `sltu` (R93). -/
def aluSltu (a b : Word) : Word := boolWord (a.ult b)

/-- `seq` (R93). -/
def aluSeq (a b : Word) : Word := boolWord (a == b)

/-- `sne` (R93). -/
def aluSne (a b : Word) : Word := boolWord (a != b)

/-! ### One meaning for each row -/

def execAddReg (sd sa sb : BitVec 6) (s : State) : Host.Outcome State Fault Refusal := aluReg 0x01 aluAdd sd sa sb s
def execAddImm (sd sa : BitVec 6) (imm : BitVec 12) (s : State) : Host.Outcome State Fault Refusal :=
  aluImm 0x01 aluAdd immS sd sa imm s

def execSubReg (sd sa sb : BitVec 6) (s : State) : Host.Outcome State Fault Refusal := aluReg 0x02 aluSub sd sa sb s
def execSubImm (sd sa : BitVec 6) (imm : BitVec 12) (s : State) : Host.Outcome State Fault Refusal :=
  aluImm 0x02 aluSub immS sd sa imm s

def execMulReg (sd sa sb : BitVec 6) (s : State) : Host.Outcome State Fault Refusal := aluReg 0x03 aluMul sd sa sb s
def execMulImm (sd sa : BitVec 6) (imm : BitVec 12) (s : State) : Host.Outcome State Fault Refusal :=
  aluImm 0x03 aluMul immS sd sa imm s

def execMulhsReg (sd sa sb : BitVec 6) (s : State) : Host.Outcome State Fault Refusal := aluReg 0x04 aluMulhs sd sa sb s
def execMulhsImm (sd sa : BitVec 6) (imm : BitVec 12) (s : State) : Host.Outcome State Fault Refusal :=
  aluImm 0x04 aluMulhs immS sd sa imm s

def execMulhuReg (sd sa sb : BitVec 6) (s : State) : Host.Outcome State Fault Refusal := aluReg 0x05 aluMulhu sd sa sb s
def execMulhuImm (sd sa : BitVec 6) (imm : BitVec 12) (s : State) : Host.Outcome State Fault Refusal :=
  aluImm 0x05 aluMulhu immS sd sa imm s

def execDivsReg (sd sa sb : BitVec 6) (s : State) : Host.Outcome State Fault Refusal := aluReg 0x06 aluDivs sd sa sb s
def execDivsImm (sd sa : BitVec 6) (imm : BitVec 12) (s : State) : Host.Outcome State Fault Refusal :=
  aluImm 0x06 aluDivs immS sd sa imm s

def execDivuReg (sd sa sb : BitVec 6) (s : State) : Host.Outcome State Fault Refusal := aluReg 0x07 aluDivu sd sa sb s
def execDivuImm (sd sa : BitVec 6) (imm : BitVec 12) (s : State) : Host.Outcome State Fault Refusal :=
  aluImm 0x07 aluDivu immS sd sa imm s

def execRemsReg (sd sa sb : BitVec 6) (s : State) : Host.Outcome State Fault Refusal := aluReg 0x08 aluRems sd sa sb s
def execRemsImm (sd sa : BitVec 6) (imm : BitVec 12) (s : State) : Host.Outcome State Fault Refusal :=
  aluImm 0x08 aluRems immS sd sa imm s

def execRemuReg (sd sa sb : BitVec 6) (s : State) : Host.Outcome State Fault Refusal := aluReg 0x09 aluRemu sd sa sb s
def execRemuImm (sd sa : BitVec 6) (imm : BitVec 12) (s : State) : Host.Outcome State Fault Refusal :=
  aluImm 0x09 aluRemu immS sd sa imm s

def execAndReg (sd sa sb : BitVec 6) (s : State) : Host.Outcome State Fault Refusal := aluReg 0x0a aluAnd sd sa sb s
def execAndImm (sd sa : BitVec 6) (imm : BitVec 12) (s : State) : Host.Outcome State Fault Refusal :=
  aluImm 0x0a aluAnd immZ sd sa imm s

def execOrReg (sd sa sb : BitVec 6) (s : State) : Host.Outcome State Fault Refusal := aluReg 0x0b aluOr sd sa sb s
def execOrImm (sd sa : BitVec 6) (imm : BitVec 12) (s : State) : Host.Outcome State Fault Refusal :=
  aluImm 0x0b aluOr immZ sd sa imm s

def execXorReg (sd sa sb : BitVec 6) (s : State) : Host.Outcome State Fault Refusal := aluReg 0x0c aluXor sd sa sb s
def execXorImm (sd sa : BitVec 6) (imm : BitVec 12) (s : State) : Host.Outcome State Fault Refusal :=
  aluImm 0x0c aluXor immZ sd sa imm s

def execAndnReg (sd sa sb : BitVec 6) (s : State) : Host.Outcome State Fault Refusal := aluReg 0x0d aluAndn sd sa sb s
def execAndnImm (sd sa : BitVec 6) (imm : BitVec 12) (s : State) : Host.Outcome State Fault Refusal :=
  aluImm 0x0d aluAndn immZ sd sa imm s

def execShlReg (sd sa sb : BitVec 6) (s : State) : Host.Outcome State Fault Refusal := aluReg 0x0e aluShl sd sa sb s
def execShlImm (sd sa : BitVec 6) (imm : BitVec 12) (s : State) : Host.Outcome State Fault Refusal :=
  aluImm 0x0e aluShl immZ sd sa imm s

def execShrReg (sd sa sb : BitVec 6) (s : State) : Host.Outcome State Fault Refusal := aluReg 0x0f aluShr sd sa sb s
def execShrImm (sd sa : BitVec 6) (imm : BitVec 12) (s : State) : Host.Outcome State Fault Refusal :=
  aluImm 0x0f aluShr immZ sd sa imm s

def execSarReg (sd sa sb : BitVec 6) (s : State) : Host.Outcome State Fault Refusal := aluReg 0x10 aluSar sd sa sb s
def execSarImm (sd sa : BitVec 6) (imm : BitVec 12) (s : State) : Host.Outcome State Fault Refusal :=
  aluImm 0x10 aluSar immZ sd sa imm s

def execRolReg (sd sa sb : BitVec 6) (s : State) : Host.Outcome State Fault Refusal := aluReg 0x11 aluRol sd sa sb s
def execRolImm (sd sa : BitVec 6) (imm : BitVec 12) (s : State) : Host.Outcome State Fault Refusal :=
  aluImm 0x11 aluRol immZ sd sa imm s

def execMinReg (sd sa sb : BitVec 6) (s : State) : Host.Outcome State Fault Refusal := aluReg 0x12 aluMin sd sa sb s
def execMinImm (sd sa : BitVec 6) (imm : BitVec 12) (s : State) : Host.Outcome State Fault Refusal :=
  aluImm 0x12 aluMin immS sd sa imm s

def execMaxReg (sd sa sb : BitVec 6) (s : State) : Host.Outcome State Fault Refusal := aluReg 0x13 aluMax sd sa sb s
def execMaxImm (sd sa : BitVec 6) (imm : BitVec 12) (s : State) : Host.Outcome State Fault Refusal :=
  aluImm 0x13 aluMax immS sd sa imm s

def execMinuReg (sd sa sb : BitVec 6) (s : State) : Host.Outcome State Fault Refusal := aluReg 0x14 aluMinu sd sa sb s
def execMinuImm (sd sa : BitVec 6) (imm : BitVec 12) (s : State) : Host.Outcome State Fault Refusal :=
  aluImm 0x14 aluMinu immS sd sa imm s

def execMaxuReg (sd sa sb : BitVec 6) (s : State) : Host.Outcome State Fault Refusal := aluReg 0x15 aluMaxu sd sa sb s
def execMaxuImm (sd sa : BitVec 6) (imm : BitVec 12) (s : State) : Host.Outcome State Fault Refusal :=
  aluImm 0x15 aluMaxu immS sd sa imm s

def execSltReg (sd sa sb : BitVec 6) (s : State) : Host.Outcome State Fault Refusal := aluReg 0x16 aluSlt sd sa sb s
def execSltImm (sd sa : BitVec 6) (imm : BitVec 12) (s : State) : Host.Outcome State Fault Refusal :=
  aluImm 0x16 aluSlt immS sd sa imm s

def execSltuReg (sd sa sb : BitVec 6) (s : State) : Host.Outcome State Fault Refusal := aluReg 0x17 aluSltu sd sa sb s
def execSltuImm (sd sa : BitVec 6) (imm : BitVec 12) (s : State) : Host.Outcome State Fault Refusal :=
  aluImm 0x17 aluSltu immS sd sa imm s

def execSeqReg (sd sa sb : BitVec 6) (s : State) : Host.Outcome State Fault Refusal := aluReg 0x18 aluSeq sd sa sb s
def execSeqImm (sd sa : BitVec 6) (imm : BitVec 12) (s : State) : Host.Outcome State Fault Refusal :=
  aluImm 0x18 aluSeq immS sd sa imm s

def execSneReg (sd sa sb : BitVec 6) (s : State) : Host.Outcome State Fault Refusal := aluReg 0x19 aluSne sd sa sb s
def execSneImm (sd sa : BitVec 6) (imm : BitVec 12) (s : State) : Host.Outcome State Fault Refusal :=
  aluImm 0x19 aluSne immS sd sa imm s

def execClz (sd sa : BitVec 6) (s : State) : Host.Outcome State Fault Refusal := aluOne 0x1A leadingZeros sd sa s
def execPopc (sd sa : BitVec 6) (s : State) : Host.Outcome State Fault Refusal := aluOne 0x1B oneBits sd sa s
def execBrev (sd sa : BitVec 6) (s : State) : Host.Outcome State Fault Refusal := aluOne 0x1C reverseBits sd sa s

/-- `addp` between registers (R95). -/
def execAddpReg (sd sa sb : BitVec 6) (s : State) : Host.Outcome State Fault Refusal :=
  checked (.s 0x1D sd sa 0 ((0 : BitVec 6) ++ sb)) s fun w => s.finish (w.setPair sd (w.spair sa + w.spair sb))

/-- `addp` with an immediate sign-extended to 64 bits (R95). -/
def execAddpImm (sd sa : BitVec 6) (imm : BitVec 12) (s : State) : Host.Outcome State Fault Refusal :=
  checked (.s 0x1D sd sa 1 imm) s fun w => s.finish (w.setPair sd (w.spair sa + imm.signExtend 64))

/-- `sli` (R96). -/
def execSli (sd : BitVec 6) (imm : BitVec 32) (s : State) : Host.Outcome State Fault Refusal :=
  checked (.l 0x40 sd 0 imm) s fun w => s.finish (w.setS sd imm)

/-! ### Special registers (R36, R97, R98) -/

/-- The high word of a 64-bit special register: that of the latch where the run has read the low index, and else the present one
(R98). -/
def latchedHigh (read : Bool) (latch : Option DWord) (now : DWord) : Word :=
  match read, latch with
  | true, some v => v.extractLsb' 32 32
  | _, _ => now.extractLsb' 32 32

/-- The context's request on the warp's cluster: 2 until a `perf` or `vperf` (R258). -/
def State.perfLevel (s : State) (w : Warp) : BitVec 2 := Tbl.findD (s.cluster (clusterOf w.core)).requests w.ctx 2

/-- The address of the code section of a warp (R36, R46). -/
def State.codeBase (s : State) (w : Warp) : DWord :=
  match s.caravan? w.caravan with
  | some c => BitVec.ofNat 64 c.codeBase
  | none => 0

/-- The party number of a slot; a slot the caravan does not use reads 0xFFFFFFFF (R247). -/
def State.partyNumber (s : State) (w : Warp) (slot : Nat) : Word :=
  match s.caravan? w.caravan with
  | some c => BitVec.ofNat 32 (listGet 0xFFFFFFFF c.partyBase slot)
  | none => 0

def State.recordWord (s : State) (w : Warp) (f : LaunchRecord → Nat) : Word :=
  match s.caravan? w.caravan with
  | some c => BitVec.ofNat 32 (f c.record)
  | none => 0

/-- The value a `rdsr` of an index returns (R36). -/
def State.readSpecial (s : State) (w : Warp) (index : Nat) : Word :=
  match index with
  | 0x000 => w.flags.zeroExtend 32
  | 0x001 => w.fpctl
  | 0x002 => w.tcause
  | 0x003 => w.trun
  | 0x004 => w.tidx
  | 0x005 => w.tinfo
  | 0x006 => w.tvec
  | 0x007 => w.progress
  | 0x008 => BitVec.ofNat 32 w.quota
  | 0x009 => s.partyNumber w 0
  | 0x00A => s.partyNumber w 1
  | 0x00B => s.partyNumber w 2
  | 0x00C => s.partyNumber w 3
  | 0x00D => BitVec.ofNat 32 w.caravan
  | 0x00E => s.recordWord w LaunchRecord.trip
  | 0x00F => s.recordWord w LaunchRecord.stages
  | 0x010 => s.recordWord w LaunchRecord.depth
  | 0x011 => w.wmax.extractLsb' 0 32
  | 0x012 => latchedHigh (w.readLow.getLsbD 0) w.wmaxLatch w.wmax
  | 0x013 => w.horizon.extractLsb' 0 32
  | 0x014 => latchedHigh (w.readLow.getLsbD 1) w.horizonLatch w.horizon
  | 0x015 => (s.codeBase w).extractLsb' 0 32
  | 0x016 => latchedHigh (w.readLow.getLsbD 2) w.baseLatch (s.codeBase w)
  | 0x017 => (s.perfLevel w).zeroExtend 32
  | 0x018 => w.stepState
  | _ => 0

/-- A low index captures the whole register in its latch (R98). -/
def State.latchSpecial (s : State) (w : Warp) (index : Nat) : Warp :=
  match index with
  | 0x011 => { w with wmaxLatch := some w.wmax, readLow := w.readLow ||| 1 }
  | 0x013 => { w with horizonLatch := some w.horizon, readLow := w.readLow ||| 2 }
  | 0x015 => { w with baseLatch := some (s.codeBase w), readLow := w.readLow ||| 4 }
  | _ => w

/-- The writable bits of FPCTL (R77). -/
def fpctlMask : Word := 0xFFFF1F1F

/-- A write to the special register at an index (R36, R97): reserved bits are ignored, a read-only register keeps its
value and sets TINFO bit 0, and an unassigned index ignores the write. -/
def Warp.writeSpecial (w : Warp) (index : Nat) (v : Word) : Warp :=
  match index with
  | 0x000 => { w with flags := v.extractLsb' 0 11 }
  | 0x001 => { w with fpctl := v &&& fpctlMask }
  | 0x005 => { w with tinfo := v }
  | 0x006 => { w with tvec := v &&& 0xFFFFFFFC }
  | n => if n ≤ 0x018 then { w with tinfo := w.tinfo ||| 1 } else w

def execRdsr (sd : BitVec 6) (index : BitVec 12) (s : State) : Host.Outcome State Fault Refusal :=
  checked (.s 0x1E sd 0 1 index) s fun w =>
    s.finish ((s.latchSpecial w index.toNat).setS sd (s.readSpecial w index.toNat))

def execWrsr (sa : BitVec 6) (index : BitVec 12) (s : State) : Host.Outcome State Fault Refusal :=
  checked (.s 0x1F 0 sa 1 index) s fun w => s.finish (w.writeSpecial index.toNat (w.sreg sa))

/-- `clk` (R107): the device time at issue. -/
def execClk (sd : BitVec 6) (s : State) : Host.Outcome State Fault Refusal :=
  checked (.s 0x3C sd 0 0 0) s fun w => s.finish (w.setPair sd (BitVec.ofNat 64 s.time))

end Sys2Proof.Machine
end

