-- ==== Sys2Proof/Machine/VectorInt.lean ====
section
/-! DEFINITION. Integer, logic, move, integer reduction, scan, carry-less and predicate instructions of the vector unit (R117
to R119, R131, R132, R134 to R136). -/

namespace Sys2Proof.Machine

/-! ### Integer arithmetic (R117) -/

/-- The element width of an integer TY. -/
def intWidth (ty : BitVec 3) : Nat := if ty = 5 then 16 else if ty = 6 ∨ ty = 7 then 8 else 32

/-- TY 0, 5 and 6 are signed, 1 and 7 unsigned. -/
def intSigned (ty : BitVec 3) : Bool := ty == 0 || ty == 5 || ty == 6

/-- An element-wise operation on the exact integers of a and b that wraps. -/
def wrapOp (ty : BitVec 3) (g : Int → Int → Int) (a b : Word) : Word :=
  let w := intWidth ty
  packWord w fun k => wrapInt w (g (elemInt w (intSigned ty) (elem w a k)) (elemInt w (intSigned ty) (elem w b k)))

/-- `vmulh`: bits [2w-1:w] of the exact product. -/
def mulHighOp (ty : BitVec 3) (a b : Word) : Word :=
  let w := intWidth ty
  packWord w fun k =>
    wrapInt w ((elemInt w (intSigned ty) (elem w a k) * elemInt w (intSigned ty) (elem w b k)) / 2 ^ w)

/-- `vmad`: the product plus the old destination element. -/
def madOp (ty : BitVec 3) (a b d : Word) : Word :=
  let w := intWidth ty
  packWord w fun k => elem w a k * elem w b k + elem w d k

/-- `vadds` and `vsubs`: the clamped result, and *saturated* where a clamp changed a value. -/
def satOp (ty : BitVec 3) (g : Int → Int → Int) (a b : Word) : Word × Flags :=
  let w := intWidth ty
  let r := fun k => clampInt w (intSigned ty) (g (elemInt w (intSigned ty) (elem w a k)) (elemInt w (intSigned ty) (elem w b k)))
  (packWord w fun k => (r k).1, flagIf ((List.range (32 / w)).any fun k => (r k).2) fSaturated)

def execVaddInteger (f : VForm) (s : State) : Host.Outcome State Fault Refusal :=
  vectorPlain (.v 0x41 0 f) f (fun w t => wrapOp f.ty (· + ·) (s.opA w f t) (s.opB w f t)) s

def execVsubInteger (f : VForm) (s : State) : Host.Outcome State Fault Refusal :=
  vectorPlain (.v 0x41 1 f) f (fun w t => wrapOp f.ty (· - ·) (s.opA w f t) (s.opB w f t)) s

def execVmulInteger (f : VForm) (s : State) : Host.Outcome State Fault Refusal :=
  vectorPlain (.v 0x41 2 f) f (fun w t => wrapOp f.ty (· * ·) (s.opA w f t) (s.opB w f t)) s

def execVmulh (f : VForm) (s : State) : Host.Outcome State Fault Refusal :=
  vectorPlain (.v 0x41 3 f) f (fun w t => mulHighOp f.ty (s.opA w f t) (s.opB w f t)) s

def execVmad (f : VForm) (s : State) : Host.Outcome State Fault Refusal :=
  vectorPlain (.v 0x41 4 f) f (fun w t => madOp f.ty (s.opA w f t) (s.opB w f t) (s.opD w f t)) s

def execVminInteger (f : VForm) (s : State) : Host.Outcome State Fault Refusal :=
  vectorPlain (.v 0x41 5 f) f (fun w t => wrapOp f.ty min (s.opA w f t) (s.opB w f t)) s

def execVmaxInteger (f : VForm) (s : State) : Host.Outcome State Fault Refusal :=
  vectorPlain (.v 0x41 6 f) f (fun w t => wrapOp f.ty max (s.opA w f t) (s.opB w f t)) s

/-- `vabs`: the most negative value stays itself. -/
def execVabsInteger (f : VForm) (s : State) : Host.Outcome State Fault Refusal :=
  vectorPlain (.v 0x41 7 f) f (fun w t => wrapOp f.ty (fun _ b => (b.natAbs : Int)) 0 (s.opB w f t)) s

def execVnegInteger (f : VForm) (s : State) : Host.Outcome State Fault Refusal :=
  vectorPlain (.v 0x41 8 f) f (fun w t => wrapOp f.ty (fun _ b => -b) 0 (s.opB w f t)) s

def execVadds (f : VForm) (s : State) : Host.Outcome State Fault Refusal :=
  vectorOp (.v 0x41 9 f) f (fun w t => satOp f.ty (· + ·) (s.opA w f t) (s.opB w f t)) s

def execVsubs (f : VForm) (s : State) : Host.Outcome State Fault Refusal :=
  vectorOp (.v 0x41 10 f) f (fun w t => satOp f.ty (· - ·) (s.opA w f t) (s.opB w f t)) s

/-! ### Logic and bit operations (R118, R119) -/

/-- `vbfe`: the field of a that the control word b names. -/
def bitField (a b : Word) : Word :=
  let pos := (b.extractLsb' 0 5).toNat
  let len := (b.extractLsb' 8 6).toNat
  let n := min len (32 - pos)
  if n = 0 then 0
  else
    let r := a.toNat / 2 ^ pos % 2 ^ n
    if b.getLsbD 16 && decide (2 ^ (n - 1) ≤ r) then BitVec.ofNat 32 (r + (2 ^ 32 - 2 ^ n)) else BitVec.ofNat 32 r

def execVand (f : VForm) (s : State) : Host.Outcome State Fault Refusal :=
  vectorPlain (.v 0x42 0 f) f (fun w t => (s.opA w f t) &&& (s.opB w f t)) s

def execVor (f : VForm) (s : State) : Host.Outcome State Fault Refusal :=
  vectorPlain (.v 0x42 1 f) f (fun w t => (s.opA w f t) ||| (s.opB w f t)) s

def execVxor (f : VForm) (s : State) : Host.Outcome State Fault Refusal :=
  vectorPlain (.v 0x42 2 f) f (fun w t => (s.opA w f t) ^^^ (s.opB w f t)) s

def execVandn (f : VForm) (s : State) : Host.Outcome State Fault Refusal :=
  vectorPlain (.v 0x42 3 f) f (fun w t => (s.opA w f t) &&& ~~~(s.opB w f t)) s

def execVnot (f : VForm) (s : State) : Host.Outcome State Fault Refusal :=
  vectorPlain (.v 0x42 4 f) f (fun w t => ~~~(s.opB w f t)) s

def execVshl (f : VForm) (s : State) : Host.Outcome State Fault Refusal :=
  vectorPlain (.v 0x42 5 f) f (fun w t => (s.opA w f t) <<< shiftAmount (s.opB w f t)) s

def execVshr (f : VForm) (s : State) : Host.Outcome State Fault Refusal :=
  vectorPlain (.v 0x42 6 f) f (fun w t => (s.opA w f t) >>> shiftAmount (s.opB w f t)) s

def execVsar (f : VForm) (s : State) : Host.Outcome State Fault Refusal :=
  vectorPlain (.v 0x42 7 f) f (fun w t => (s.opA w f t).sshiftRight (shiftAmount (s.opB w f t))) s

def execVrol (f : VForm) (s : State) : Host.Outcome State Fault Refusal :=
  vectorPlain (.v 0x42 8 f) f (fun w t => (s.opA w f t).rotateLeft (shiftAmount (s.opB w f t))) s

def execVclz (f : VForm) (s : State) : Host.Outcome State Fault Refusal :=
  vectorPlain (.v 0x42 9 f) f (fun w t => leadingZeros (s.opB w f t)) s

def execVpopc (f : VForm) (s : State) : Host.Outcome State Fault Refusal :=
  vectorPlain (.v 0x42 10 f) f (fun w t => oneBits (s.opB w f t)) s

def execVbrev (f : VForm) (s : State) : Host.Outcome State Fault Refusal :=
  vectorPlain (.v 0x42 11 f) f (fun w t => reverseBits (s.opB w f t)) s

def execVbfe (f : VForm) (s : State) : Host.Outcome State Fault Refusal :=
  vectorPlain (.v 0x42 12 f) f (fun w t => bitField (s.opA w f t) (s.opB w f t)) s

/-! ### Moves (R131) -/

/-- With a permutation this is a thread shuffle. -/
def execVmov (f : VForm) (s : State) : Host.Outcome State Fault Refusal :=
  vectorPlain (.v 0x49 0 f) f (fun w t => (s.opB w f t)) s

/-- K = 7 selects A, since p7 reads as true. -/
def execVsel (f : VForm) (s : State) : Host.Outcome State Fault Refusal :=
  vectorPlain (.v 0x49 1 f) f (fun w t => if (w.predicate (f.ppar.extractLsb' 0 3).toNat).getLsbD t then (s.opA w f t) else (s.opB w f t)) s

/-- The lowest thread of a mask. -/
def lowestThread (m : BitVec 96) : Nat := (threadsOf m).headD 0

/-- `vbcast`: every active thread takes the element of the lowest active one. -/
def execVbcast (f : VForm) (s : State) : Host.Outcome State Fault Refusal :=
  vectorPlain (.v 0x49 2 f) f (fun w _ => s.opA w f (lowestThread (s.takes w f.pred f.pneg))) s

/-- `vrdl`: one thread's element, whatever its activity. -/
def execVrdl (f : VForm) (s : State) : Host.Outcome State Fault Refusal :=
  toScalar (.v 0x49 3 f) f (fun w _ => (s.opA w f f.ppar.toNat, 0)) s

/-- `vwrl`: only element k is written, whatever thread k's activity, where some thread takes part. -/
def execVwrl (f : VForm) (s : State) : Host.Outcome State Fault Refusal :=
  checked (.v 0x49 4 f) s fun w =>
    if s.takes w f.pred f.pneg = 0 then s.finish w
    else s.finish (w.setVector f.vd (BitVec.ofNat 96 (2 ^ f.ppar.toNat)) fun _ => w.sreg f.sb)

/-- `viota`: t + b, with b = sB or 0. -/
def execViota (f : VForm) (s : State) : Host.Outcome State Fault Refusal :=
  vectorPlain (.v 0x49 5 f) f (fun w t => BitVec.ofNat 32 t + if f.vb = 0x7F then w.sreg f.sb else 0) s

/-! ### Integer reductions (R132) -/

/-- Combines A[t] over the threads that take part, of which there is at least one. -/
def reduceWith (take : BitVec 96) (a : Nat → Word) (g : Word → Word → Word) : Word :=
  match threadsOf take with
  | [] => 0
  | t :: rest => rest.foldl (fun acc u => g acc (a u)) (a t)

def intLess (ty : BitVec 3) (a b : Word) : Bool := if ty = 0 then a.slt b else a.ult b

def execVradd (f : VForm) (s : State) : Host.Outcome State Fault Refusal :=
  toScalar (.v 0x4A 0 f) f (fun w take => (reduceWith take (s.opA w f) (· + ·), 0)) s

def execVrmin (f : VForm) (s : State) : Host.Outcome State Fault Refusal :=
  toScalar (.v 0x4A 1 f) f (fun w take => (reduceWith take (s.opA w f) (fun a b => if intLess f.ty a b then a else b), 0)) s

def execVrmax (f : VForm) (s : State) : Host.Outcome State Fault Refusal :=
  toScalar (.v 0x4A 2 f) f (fun w take => (reduceWith take (s.opA w f) (fun a b => if intLess f.ty a b then b else a), 0)) s

def execVrand (f : VForm) (s : State) : Host.Outcome State Fault Refusal :=
  toScalar (.v 0x4A 3 f) f (fun w take => (reduceWith take (s.opA w f) (· &&& ·), 0)) s

def execVror (f : VForm) (s : State) : Host.Outcome State Fault Refusal :=
  toScalar (.v 0x4A 4 f) f (fun w take => (reduceWith take (s.opA w f) (· ||| ·), 0)) s

def execVrxor (f : VForm) (s : State) : Host.Outcome State Fault Refusal :=
  toScalar (.v 0x4A 5 f) f (fun w take => (reduceWith take (s.opA w f) (· ^^^ ·), 0)) s

/-! ### Integer scans (R134) -/

/-- The running value at each thread that takes part, before and after that thread's element. -/
def scanSteps (ts : List Nat) (a : Nat → Word) (g : Word → Word → Word) (acc : Word) : List (Nat × Word × Word) :=
  match ts with
  | [] => []
  | t :: rest => (t, acc, g acc (a t)) :: scanSteps rest a g (g acc (a t))

/-- What a scan writes at a thread: the value after its element, or before it where exclusive. -/
def scanAt (steps : List (Nat × Word × Word)) (inclusive : Bool) (t : Nat) : Word :=
  match steps.find? fun x => x.1 == t with
  | some (_, before, after) => if inclusive then after else before
  | none => 0

/-- An integer scan with its identity, or the carry-in of SB where VB is 0x7F. -/
def scanOp (fn : BitVec 6) (f : VForm) (g : Word → Word → Word) (identity : Word) (inclusive : Bool) (s : State) :
    Host.Outcome State Fault Refusal :=
  vectorPlain (.v 0x4B fn f) f (fun w =>
    let c := if f.vb = 0x7F then w.sreg f.sb else identity
    scanAt (scanSteps (threadsOf (s.takes w f.pred f.pneg)) (s.opA w f) g c) inclusive) s

def execVscanAdd (f : VForm) (s : State) : Host.Outcome State Fault Refusal := scanOp 0 f (· + ·) 0 true s
def execVscanxAdd (f : VForm) (s : State) : Host.Outcome State Fault Refusal := scanOp 1 f (· + ·) 0 false s
def execVscanXor (f : VForm) (s : State) : Host.Outcome State Fault Refusal := scanOp 2 f (· ^^^ ·) 0 true s
def execVscanxXor (f : VForm) (s : State) : Host.Outcome State Fault Refusal := scanOp 3 f (· ^^^ ·) 0 false s

/-- `vscan.max`: the identity is the most negative value for TY 0 and 0 for TY 1. -/
def execVscanMax (f : VForm) (s : State) : Host.Outcome State Fault Refusal :=
  scanOp 4 f (fun a b => if intLess f.ty a b then b else a) (if f.ty = 0 then 0x80000000 else 0) true s

/-! ### Carry-less operations (R135) -/

/-- The 64-bit carry-less product. -/
def carryless (a b : Word) : DWord :=
  (List.range 32).foldl (fun acc i => if b.getLsbD i then acc ^^^ (a.zeroExtend 64 <<< i) else acc) 0

/-- Bit i is the parity of bits 0 to i. -/
def prefixXor (b : Word) : Word :=
  wordOf fun i => (List.range (i + 1)).foldl (fun acc k => acc ^^ b.getLsbD k) false

def execVclmul (f : VForm) (s : State) : Host.Outcome State Fault Refusal :=
  vectorPlain (.v 0x4c 0 f) f (fun w t => (carryless (s.opA w f t) (s.opB w f t)).extractLsb' 0 32) s

def execVclmulh (f : VForm) (s : State) : Host.Outcome State Fault Refusal :=
  vectorPlain (.v 0x4c 1 f) f (fun w t => (carryless (s.opA w f t) (s.opB w f t)).extractLsb' 32 32) s

def execVpxor (f : VForm) (s : State) : Host.Outcome State Fault Refusal :=
  vectorPlain (.v 0x4c 2 f) f (fun w t => prefixXor (s.opB w f t)) s

/-! ### Predicate operations (R136) -/

def predA (w : Warp) (f : VForm) (t : Nat) : Bool := (w.predicate (f.va.extractLsb' 0 3).toNat).getLsbD t
def predB (w : Warp) (f : VForm) (t : Nat) : Bool := (w.predicate (f.vb.extractLsb' 0 3).toNat).getLsbD t

def execPand (f : VForm) (s : State) : Host.Outcome State Fault Refusal :=
  predicateOp (.v 0x4D 0 f) f (fun w t => (predA w f t && predB w f t, 0)) s

def execPor (f : VForm) (s : State) : Host.Outcome State Fault Refusal :=
  predicateOp (.v 0x4D 1 f) f (fun w t => (predA w f t || predB w f t, 0)) s

def execPxor (f : VForm) (s : State) : Host.Outcome State Fault Refusal :=
  predicateOp (.v 0x4D 2 f) f (fun w t => (predA w f t ^^ predB w f t, 0)) s

def execPnot (f : VForm) (s : State) : Host.Outcome State Fault Refusal :=
  predicateOp (.v 0x4D 3 f) f (fun w t => (!predA w f t, 0)) s

def execPfroms (f : VForm) (s : State) : Host.Outcome State Fault Refusal :=
  predicateOp (.v 0x4D 4 f) f (fun w t => ((w.sreg (f.sb + BitVec.ofNat 6 (t / 32))).getLsbD (t % 32), 0)) s

/-- The taking-part threads in which the source predicate holds. -/
def predTaken (w : Warp) (f : VForm) (take : BitVec 96) : BitVec 96 :=
  take &&& w.predicate (f.va.extractLsb' 0 3).toNat

/-- `ptos`: three scalars take the bits of the beats; with no thread taking part it has no effect (R114). -/
def execPtos (f : VForm) (s : State) : Host.Outcome State Fault Refusal :=
  checked (.v 0x4D 5 f) s fun w =>
    let take := s.takes w f.pred f.pneg
    let r := predTaken w f take
    let d := f.vd.extractLsb' 0 6
    if take = 0 then s.finish w
    else s.finish (((w.setS d (r.extractLsb' 0 32)).setS (d + 1) (r.extractLsb' 32 32)).setS (d + 2) (r.extractLsb' 64 32))

/-- `pcnt`: the number of taking-part threads with the predicate. -/
def execPcnt (f : VForm) (s : State) : Host.Outcome State Fault Refusal :=
  toScalar (.v 0x4D 6 f) f (fun w take => (BitVec.ofNat 32 (threadsOf (predTaken w f take)).length, 0)) s

/-- `pfirst`: the least such thread, or all ones. -/
def execPfirst (f : VForm) (s : State) : Host.Outcome State Fault Refusal :=
  toScalar (.v 0x4D 7 f) f (fun w take =>
    (match threadsOf (predTaken w f take) with
     | [] => 0xFFFFFFFF
     | t :: _ => BitVec.ofNat 32 t, 0)) s

end Sys2Proof.Machine
end

