-- ==== Sys2Proof/Machine/VectorFloat.lean ====
section
/-! DEFINITION. Float, compare, conversion, block-quantise, float reduction and scan, and log-domain instructions of the
vector unit (R70 to R72, R116, R120 to R127, R133, R134, R137). -/

namespace Sys2Proof.Machine

/-! ### Packed floats (R116) -/

def floatFmt (ty : BitVec 3) : Fmt := if ty = 2 then .f32 else if ty = 3 then .f16 else .bf16

/-- Applies `g` to each packed element of a format and gathers the flags of all of them. -/
def floatPacked (f : Fmt) (g : Nat → Nat × Flags) : Word × Flags :=
  (packWord f.width fun k => (g k).1,
    (List.range (32 / f.width)).foldl (fun acc k => acc ||| (g k).2) 0)

/-- Element k of an operand, flushed under OPFTZ. -/
def Warp.readF (w : Warp) (f : Fmt) (x : Word) (k : Nat) : FVal × Flags := f.read w.opftz (elem f.width x k)

/-- An element-wise operation of two operands, rounded once under RM. -/
def floatTwo (w : Warp) (f : VForm) (g : FVal → FVal → FVal × Flags) (a b : Word) : Word × Flags :=
  let fmt := floatFmt f.ty
  floatPacked fmt fun k =>
    let x := w.readF fmt a k
    let y := w.readF fmt b k
    let v := g x.1 y.1
    let r := fmt.result f.rm w.resftz v.1
    (r.1, x.2 ||| y.2 ||| v.2 ||| r.2)

/-- An element-wise operation with the old destination as addend (R120). -/
def floatThree (w : Warp) (f : VForm) (g : FVal → FVal → FVal → FVal × Flags) (a b d : Word) : Word × Flags :=
  let fmt := floatFmt f.ty
  floatPacked fmt fun k =>
    let x := w.readF fmt a k
    let y := w.readF fmt b k
    let z := w.readF fmt d k
    let v := g x.1 y.1 z.1
    let r := fmt.result f.rm w.resftz v.1
    (r.1, x.2 ||| y.2 ||| z.2 ||| v.2 ||| r.2)

/-- A sign operation (R120): a NaN becomes canonical, and a signalling one sets *invalid*. -/
def floatSign (w : Warp) (f : VForm) (g : FVal → FVal) (b : Word) : Word × Flags :=
  floatTwo w f (fun _ y => (g y, y.sigFlag)) 0 b

/-- `vrnd` on one value (R122). -/
def roundIntegral (fmt : Fmt) (rm : BitVec 2) (v : FVal) : Nat × Flags :=
  match v with
  | .fin n m e =>
    let (k, changed) := roundInteger (.mode rm) n m e
    (fmt.exact (.fin n k 0), flagIf changed fInexact)
  | .nan b => (fmt.nanCode, flagIf b fInvalid)
  | .inf n => (fmt.exact (.inf n), 0)

/-! ### Float arithmetic (R120 to R122) -/

def execVaddFloat (f : VForm) (s : State) : Host.Outcome State Fault Refusal :=
  vectorOp (.v 0x43 0 f) f (fun w t => floatTwo w f (FVal.add f.rm) (s.opA w f t) (s.opB w f t)) s

def execVsubFloat (f : VForm) (s : State) : Host.Outcome State Fault Refusal :=
  vectorOp (.v 0x43 1 f) f (fun w t => floatTwo w f (fun x y => x.add f.rm y.negate) (s.opA w f t) (s.opB w f t)) s

def execVmulFloat (f : VForm) (s : State) : Host.Outcome State Fault Refusal :=
  vectorOp (.v 0x43 2 f) f (fun w t => floatTwo w f FVal.mul (s.opA w f t) (s.opB w f t)) s

def execVfma (f : VForm) (s : State) : Host.Outcome State Fault Refusal :=
  vectorOp (.v 0x43 3 f) f (fun w t => floatThree w f (FVal.fma f.rm) (s.opA w f t) (s.opB w f t) (s.opD w f t)) s

def execVfms (f : VForm) (s : State) : Host.Outcome State Fault Refusal :=
  vectorOp (.v 0x43 4 f) f (fun w t => floatThree w f (fun x y z => x.fma f.rm y z.negate) (s.opA w f t) (s.opB w f t) (s.opD w f t)) s

def execVminFloat (f : VForm) (s : State) : Host.Outcome State Fault Refusal :=
  vectorOp (.v 0x43 5 f) f (fun w t => floatTwo w f (FVal.minMax false) (s.opA w f t) (s.opB w f t)) s

def execVmaxFloat (f : VForm) (s : State) : Host.Outcome State Fault Refusal :=
  vectorOp (.v 0x43 6 f) f (fun w t => floatTwo w f (FVal.minMax true) (s.opA w f t) (s.opB w f t)) s

def execVabsFloat (f : VForm) (s : State) : Host.Outcome State Fault Refusal :=
  vectorOp (.v 0x43 7 f) f (fun w t => floatSign w f FVal.abs (s.opB w f t)) s

def execVnegFloat (f : VForm) (s : State) : Host.Outcome State Fault Refusal :=
  vectorOp (.v 0x43 8 f) f (fun w t => floatSign w f FVal.negate (s.opB w f t)) s

def execVrnd (f : VForm) (s : State) : Host.Outcome State Fault Refusal :=
  vectorOp (.v 0x43 9 f) f (fun w t =>
    let fmt := floatFmt f.ty
    floatPacked fmt fun k =>
      let y := w.readF fmt (s.opB w f t) k
      let r := roundIntegral fmt f.rm y.1
      (r.1, y.2 ||| r.2)) s

/-! ### Compares (R123) -/

/-- A compare under TY: `int` on the integers, `num` on two binary32 numbers, `unordered` where either is a NaN, and
whether a quiet NaN too sets *invalid*. -/
def compareOp (w : Warp) (f : VForm) (int : Int → Int → Bool) (num : FVal → FVal → Bool) (unordered quiet : Bool)
    (a b : Word) : Bool × Flags :=
  if f.ty = 2 then
    let x := w.readF .f32 a 0
    let y := w.readF .f32 b 0
    let nan := x.1.isNaN || y.1.isNaN
    (if nan then unordered else num x.1 y.1,
      x.2 ||| y.2 ||| x.1.sigFlag ||| y.1.sigFlag ||| flagIf (nan && quiet) fInvalid)
  else (int (elemInt 32 (f.ty == 0) a.toNat) (elemInt 32 (f.ty == 0) b.toNat), 0)

def execVceq (f : VForm) (s : State) : Host.Outcome State Fault Refusal :=
  predicateOp (.v 0x44 0 f) f (fun w t => compareOp w f (fun x y => x == y) (FVal.equal) false false (s.opA w f t) (s.opB w f t)) s

def execVcne (f : VForm) (s : State) : Host.Outcome State Fault Refusal :=
  predicateOp (.v 0x44 1 f) f (fun w t => compareOp w f (fun x y => x != y) (fun x y => !x.equal y) true false (s.opA w f t) (s.opB w f t)) s

def execVclt (f : VForm) (s : State) : Host.Outcome State Fault Refusal :=
  predicateOp (.v 0x44 2 f) f (fun w t => compareOp w f (fun x y => decide (x < y)) (FVal.less) false true (s.opA w f t) (s.opB w f t)) s

def execVcle (f : VForm) (s : State) : Host.Outcome State Fault Refusal :=
  predicateOp (.v 0x44 3 f) f (fun w t => compareOp w f (fun x y => decide (x ≤ y)) (fun x y => !y.less x) false true (s.opA w f t) (s.opB w f t)) s

def execVcgt (f : VForm) (s : State) : Host.Outcome State Fault Refusal :=
  predicateOp (.v 0x44 4 f) f (fun w t => compareOp w f (fun x y => decide (y < x)) (fun x y => y.less x) false true (s.opA w f t) (s.opB w f t)) s

def execVcge (f : VForm) (s : State) : Host.Outcome State Fault Refusal :=
  predicateOp (.v 0x44 5 f) f (fun w t => compareOp w f (fun x y => decide (y ≤ x)) (fun x y => !x.less y) false true (s.opA w f t) (s.opB w f t)) s

def execVcord (f : VForm) (s : State) : Host.Outcome State Fault Refusal :=
  predicateOp (.v 0x44 6 f) f (fun w t => compareOp w f (fun _ _ => true) (fun _ _ => true) false false (s.opA w f t) (s.opB w f t)) s

def execVcuno (f : VForm) (s : State) : Host.Outcome State Fault Refusal :=
  predicateOp (.v 0x44 7 f) f (fun w t => compareOp w f (fun _ _ => false) (fun _ _ => false) true false (s.opA w f t) (s.opB w f t)) s

/-! ### Conversion (R124, R125) -/

/-- The float format of a format number of R39 that is no integer. -/
def fmtOf (n : Nat) : Fmt :=
  match n with
  | 2 => .f32 | 3 => .f16 | 4 => .bf16 | 8 => .e4 | 9 => .e5 | 10 => .f4 | _ => .lg

def fmtSigned (n : Nat) : Bool := n == 0 || n == 5 || n == 6

/-- An exact integer into an integer format: clamped with *saturated* under `.sat`, its low bits otherwise. -/
def intToInt (w : Nat) (signed sat : Bool) (v : Int) : Nat × Flags :=
  if sat then
    let r := clampInt w signed v
    (r.1, flagIf r.2 fSaturated)
  else (wrapInt w v, 0)

/-- A float value into an integer format (R125). -/
def floatToInt (w : Nat) (signed sat : Bool) (rd : Rounding) (v : FVal) : Nat × Flags :=
  let far := if sat then fSaturated else fInvalid
  let lo : Int := if signed then -(2 ^ (w - 1) : Int) else 0
  let hi : Int := if signed then (2 ^ (w - 1) : Int) - 1 else (2 ^ w : Int) - 1
  match v with
  | .nan _ => (0, fInvalid)
  | .inf n => (wrapInt w (if n then lo else hi), far)
  | .fin n m e =>
    let (k, changed) := roundInteger rd n m e
    let x : Int := if n then -(k : Int) else k
    if x < lo then (wrapInt w lo, far) else if hi < x then (wrapInt w hi, far)
    else (wrapInt w x, flagIf changed fInexact)

/-- One element converted: from the source code of format `src` to the code of format `dst`. -/
def convertElem (src dst : Nat) (sat : Bool) (rd : Rounding) (opftz resftz : BitVec 5) (code : Nat) : Nat × Flags :=
  if isIntFormat src then
    let v := elemInt (formatBits src) (fmtSigned src) code
    if isIntFormat dst then intToInt (formatBits dst) (fmtSigned dst) sat v
    else (fmtOf dst).convert rd sat resftz (.fin (decide (v < 0)) v.natAbs 0)
  else
    let x := (fmtOf src).read opftz code
    let r := if isIntFormat dst then floatToInt (formatBits dst) (fmtSigned dst) sat rd x.1
             else (fmtOf dst).convert rd sat resftz x.1
    (r.1, x.2 ||| x.1.sigFlag ||| r.2)

/-- The bits of all of a thread's results, and their flags. -/
def convertThread (src dst : Nat) (sat : Bool) (rd : Rounding) (opftz resftz : BitVec 5) (b : Word) : Nat × Flags :=
  (List.range (32 / formatBits src)).foldl (fun acc k =>
    let r := convertElem src dst sat rd opftz resftz (elem (formatBits src) b k)
    (acc.1 + r.1 * 2 ^ (k * formatBits dst), acc.2 ||| r.2)) (0, 0)

/-- Writes the registers VD to VD + n - 1 with successive words of each thread's bits. -/
def State.writeGroup (s : State) (id : Nat) (code : BitVec 8) (n : Nat) (take : BitVec 96) (f : Nat → Nat) : State :=
  (List.range n).foldl (fun acc i =>
    acc.writeVector id (code + BitVec.ofNat 8 i) take fun t => BitVec.ofNat 32 (f t / 2 ^ (32 * i))) s

/-- `vcvt` (R124, R125). A stochastic conversion in which some thread takes part advances SRSEQ by one (R76). -/
def execVcvt (fn : BitVec 6) (f : VForm) (s : State) : Host.Outcome State Fault Refusal :=
  checked (.v 0x45 fn f) s fun w =>
    if isNever f.pred f.pneg then s.finish w
    else
      let dst := (fn.extractLsb' 0 4).toNat
      let sat := fn.getLsbD 4
      let stoch := fn.getLsbD 5
      let take := s.takes w f.pred f.pneg
      let rd := fun t =>
        if stoch then Rounding.stochastic (stochasticWord w.srseq (BitVec.ofNat 32 w.caravan) (w.sreg 56) t)
        else .mode f.rm
      let r := fun t => convertThread f.ty.toNat dst sat (rd t) w.opftz w.resftz (s.opB w f t)
      let s1 := s.writeGroup s.cur f.vd (vcvtRegs fn f) take fun t => (r t).1
      (s1.updWarp s.cur fun w' =>
        { w' with fpctl := if stoch && take != 0 then (w.srseq + 1) ++ w'.fpctl.extractLsb' 0 16 else w'.fpctl }.orFlags
          (flagsOver take fun t => (r t).2)).finishCur

/-! ### Block quantise and dequantise (R126, R127) -/

/-- The least scale exponent at which the largest element rounds within the format's range, 254 where none does. A magnitude that R80
rounds to the largest finite value by overflow or saturation (`f4` in every mode, `e4` and `e5` towards zero) counts as above Fmax, and
for `lg`, whose rounding has no value above 13.46875, one beyond that does (DESIGN CHOICE, assumption log 48). -/
def blockScale (fmt : Fmt) (rm : BitVec 2) (m : Nat) (e : Int) : Nat :=
  ((List.range 255).find? fun (x : Nat) =>
    ((fmt.round (.mode rm) false false m 1 (e + 127 - (x : Int))).2 &&& (fOverflow ||| fSaturated)) == 0).getD 254

/-- The larger of two magnitudes. -/
def largerMag (a b : Nat × Int) : Nat × Int := if exceeds a.1 a.2 b.1 b.2 then a else b

/-- What `vqblk` writes at a thread of a block whose taking-part elements are `xs`. -/
def quantise (fmt : Fmt) (rm : BitVec 2) (resftz : BitVec 5) (xs : List FVal) (x : FVal) : Word × Flags :=
  let special := xs.any fun v => match v with
    | .fin _ _ _ => false
    | _ => true
  if special then (0x0000FF00, fInvalid)
  else
    let m := xs.foldl (fun acc v => match v with
      | .fin _ k e => largerMag (k, e) acc
      | _ => acc) (0, 0)
    let e := if m.1 = 0 then 127 else blockScale fmt rm m.1 m.2
    match x with
    | .fin n k q =>
      let r := fmt.convert (.mode rm) true resftz (.fin n k (q + 127 - e))
      (BitVec.ofNat 32 (256 * e + r.1), r.2)
    | _ => (0, 0)

/-- `vqblk` into a format. -/
def quantiseOp (fn : BitVec 6) (fmt : Fmt) (f : VForm) (s : State) : Host.Outcome State Fault Refusal :=
  vectorOp (.v 0x46 fn f) f (fun w t =>
    let take := s.takes w f.pred f.pneg
    let read := fun u => w.readF .f32 (s.opB w f u) 0
    let block := ((List.range 16).map (· + t / 16 * 16)).filter fun u => take.getLsbD u
    let r := quantise fmt f.rm w.resftz (block.map fun u => (read u).1) (read t).1
    (r.1, r.2 ||| (read t).2)) s

def execVqblkE4 (f : VForm) (s : State) : Host.Outcome State Fault Refusal := quantiseOp 0 .e4 f s
def execVqblkE5 (f : VForm) (s : State) : Host.Outcome State Fault Refusal := quantiseOp 1 .e5 f s
def execVqblkF4 (f : VForm) (s : State) : Host.Outcome State Fault Refusal := quantiseOp 2 .f4 f s
def execVqblkLg (f : VForm) (s : State) : Host.Outcome State Fault Refusal := quantiseOp 3 .lg f s

/-- `vdqblk` of one word: the code times its scale, rounded to binary32. -/
def dequantise (fmt : Fmt) (rm : BitVec 2) (opftz resftz : BitVec 5) (b : Word) : Word × Flags :=
  let e := (b.extractLsb' 8 8).toNat
  if e = 255 then (0x7FC00000, 0)
  else
    let x := fmt.read opftz (b.toNat % 2 ^ fmt.width)
    let v := match x.1 with
      | .fin n m q => .fin n m (q + e - 127)
      | y => y
    let r := Fmt.f32.convert (.mode rm) false resftz v
    (BitVec.ofNat 32 r.1, x.2 ||| x.1.sigFlag ||| r.2)

def dequantiseOp (fn : BitVec 6) (fmt : Fmt) (f : VForm) (s : State) : Host.Outcome State Fault Refusal :=
  vectorOp (.v 0x46 fn f) f (fun w t => dequantise fmt f.rm w.opftz w.resftz (s.opB w f t)) s

def execVdqblkE4 (f : VForm) (s : State) : Host.Outcome State Fault Refusal := dequantiseOp 4 .e4 f s
def execVdqblkE5 (f : VForm) (s : State) : Host.Outcome State Fault Refusal := dequantiseOp 5 .e5 f s
def execVdqblkF4 (f : VForm) (s : State) : Host.Outcome State Fault Refusal := dequantiseOp 6 .f4 f s
def execVdqblkLg (f : VForm) (s : State) : Host.Outcome State Fault Refusal := dequantiseOp 7 .lg f s

/-! ### Float reductions (R89, R133) -/

/-- A leaf: read under operand flush, a NaN made canonical. -/
def floatLeaf (w : Warp) (a : Word) : FVal × Flags :=
  let x := w.readF .f32 a 0
  (match x.1 with
   | .nan _ => .nan false
   | v => v, x.2 ||| x.1.sigFlag)

/-- One node: the operation on its inputs, rounded to binary32 and flushed. -/
def floatNode (w : Warp) (rm : BitVec 2) (g : FVal → FVal → FVal × Flags) (a b : FVal) : FVal × Flags :=
  let v := g a b
  let r := Fmt.f32.result rm w.resftz v.1
  (Fmt.f32.decode r.1, v.2 ||| r.2)

/-- A node over inputs of which either may be absent. -/
def nodeOf (g : FVal → FVal → FVal × Flags) (a b : Option FVal) : Option FVal × Flags :=
  match a, b with
  | some x, some y => let r := g x y
                      (some r.1, r.2)
  | some x, none => (some x, 0)
  | none, y => (y, 0)

/-- One level of the tree: adjacent nodes in pairs. -/
def treeLevel (g : FVal → FVal → FVal × Flags) (l : List (Option FVal)) : List (Option FVal) × Flags :=
  match l with
  | a :: b :: rest =>
    let r := nodeOf g a b
    let rs := treeLevel g rest
    (r.1 :: rs.1, r.2 ||| rs.2)
  | [a] => ([a], 0)
  | [] => ([], 0)

/-- Levels 1 to 5 of the tree, and the two last nodes (R89). -/
def floatTree (g : FVal → FVal → FVal × Flags) (leaves : List (Option FVal)) : Option FVal × Flags :=
  let r := (List.range 5).foldl (fun acc _ =>
    let x := treeLevel g acc.1
    (x.1, acc.2 ||| x.2)) (leaves, (0 : Flags))
  let a := nodeOf g (listGet none r.1 0) (listGet none r.1 1)
  let b := nodeOf g a.1 (listGet none r.1 2)
  (b.1, r.2 ||| a.2 ||| b.2)

def floatReduce (fn : BitVec 6) (f : VForm) (g : FVal → FVal → FVal × Flags) (s : State) :
    Host.Outcome State Fault Refusal :=
  toScalar (.v 0x4A fn f) f (fun w take =>
    let leaf := fun t => floatLeaf w (s.opA w f t)
    let r := floatTree (floatNode w f.rm g) ((List.range 96).map fun t => if take.getLsbD t then some (leaf t).1 else none)
    match r.1 with
    | some v =>
      let c := Fmt.f32.result f.rm w.resftz v
      (BitVec.ofNat 32 c.1, r.2 ||| c.2 ||| flagsOver take fun t => (leaf t).2)
    | none => (0, 0)) s

def execVrfadd (f : VForm) (s : State) : Host.Outcome State Fault Refusal := floatReduce 6 f (FVal.add f.rm) s
def execVrfmax (f : VForm) (s : State) : Host.Outcome State Fault Refusal := floatReduce 7 f (FVal.minMax true) s
def execVrfmin (f : VForm) (s : State) : Host.Outcome State Fault Refusal := floatReduce 8 f (FVal.minMax false) s

/-! ### The float scan (R134) -/

/-- The running sums of `vscan.fadd`: each thread's code, and all flags. -/
def floatScan (w : Warp) (rm : BitVec 2) (a : Nat → Word) (ts : List Nat) (acc : Option FVal) :
    List (Nat × Word) × Flags :=
  match ts with
  | [] => ([], 0)
  | t :: rest =>
    let x := floatLeaf w (a t)
    let v := match acc with
      | some y => y.add rm x.1
      | none => (x.1, 0)
    let r := Fmt.f32.result rm w.resftz v.1
    let more := floatScan w rm a rest (some (Fmt.f32.decode r.1))
    ((t, BitVec.ofNat 32 r.1) :: more.1, x.2 ||| v.2 ||| r.2 ||| more.2)

def execVscanFadd (f : VForm) (s : State) : Host.Outcome State Fault Refusal :=
  checked (.v 0x4B 5 f) s fun w =>
    if isNever f.pred f.pneg then s.finish w
    else
      let take := s.takes w f.pred f.pneg
      let carry := if f.vb = 0x7F then floatLeaf w (w.sreg f.sb) else (.nan false, 0)
      let r := floatScan w f.rm (s.opA w f) (threadsOf take) (if f.vb = 0x7F then some carry.1 else none)
      ((s.writeVector s.cur f.vd take fun t => ((r.1.find? fun x => x.1 == t).map (·.2)).getD 0).updWarp s.cur fun w' =>
        w'.orFlags (if take = 0 then 0 else r.2 ||| carry.2)).finishCur

/-! ### Log-domain arithmetic (R70, R72, R137) -/

/-- The correction table of LGADD. -/
def corr (i : Nat) : Int :=
  match i with
  | 0 => 4 | 1 => 4 | 2 => 3 | 3 => 3 | 4 => 2 | 5 => 2 | 6 => 2 | 7 => 2
  | 8 => 1 | 9 => 1 | 10 => 1 | 11 => 1 | 12 => 1 | 13 => 1 | 14 => 0 | 15 => 0
  | 17 => -11 | 18 => -7 | 19 => -5 | 20 => -4 | 21 => -3 | 22 => -3 | 23 => -2 | 24 => -2
  | 25 => -1 | 26 => -1 | 27 => -1 | 28 => -1 | 29 => -1 | 30 => -1 | _ => 0

/-- Sign and code of an LG6 byte; one with bits 6:5 nonzero reads as +0 and sets *invalid* (R70). -/
def readLg (b : Nat) : Bool × Nat × Flags :=
  if lgBad b then (false, 0, fInvalid) else (decide (b / 128 % 2 = 1), b % 32, 0)

def lgCode (s : Bool) (l : Int) : Nat × Flags :=
  if l ≤ 0 then (Fmt.lg.signed s 0, fUnderflow ||| fQZero)
  else if 31 < l then (Fmt.lg.signed s 31, fSaturated)
  else (Fmt.lg.signed s l.toNat, 0)

/-- LGMUL. -/
def lgMul (a b : Nat) : Nat × Flags :=
  let (s1, l1, f1) := readLg a
  let (s2, l2, f2) := readLg b
  if l1 = 0 ∨ l2 = 0 then (Fmt.lg.signed (s1 != s2) 0, f1 ||| f2)
  else
    let r := lgCode (s1 != s2) ((l1 : Int) + l2 - 16)
    (r.1, f1 ||| f2 ||| r.2)

/-- LGADD of two codes of which neither is zero and the first is not the smaller. -/
def lgAddOrdered (s1 : Bool) (l1 : Nat) (s2 : Bool) (l2 : Nat) : Nat × Flags :=
  let d := l1 - l2
  if s1 != s2 && d == 0 then (0, 0)
  else lgCode s1 (l1 + corr ((if s1 != s2 then 16 else 0) + min d 15))

/-- LGADD. -/
def lgAdd (a b : Nat) : Nat × Flags :=
  let (s1, l1, f1) := readLg a
  let (s2, l2, f2) := readLg b
  let r := if l1 = 0 then (Fmt.lg.signed s2 l2, 0) else if l2 = 0 then (Fmt.lg.signed s1 l1, 0)
           else if l1 < l2 then lgAddOrdered s2 l2 s1 l1 else lgAddOrdered s1 l1 s2 l2
  (r.1, f1 ||| f2 ||| r.2)

def logOp (fn : BitVec 6) (g : Nat → Nat → Nat × Flags) (f : VForm) (s : State) : Host.Outcome State Fault Refusal :=
  vectorOp (.v 0x4F fn f) f (fun w t => floatPacked .lg fun k => g (elem 8 (s.opA w f t) k) (elem 8 (s.opB w f t) k)) s

def execVlgmul (f : VForm) (s : State) : Host.Outcome State Fault Refusal := logOp 0 lgMul f s
def execVlgadd (f : VForm) (s : State) : Host.Outcome State Fault Refusal := logOp 1 lgAdd f s

end Sys2Proof.Machine
end

