-- ==== Sys2Proof/Machine/Access.lean ====
section
/-! DEFINITION. Accesses of threads to memory and scratchpad: addresses (R140), the checks made before any access (R141 to
R144), serving a load under leases and through the path caches (R147, R150), the arrival of a store (R148), release and
acquire (R149), and the rules that order a warp's accesses (R338). -/

namespace Sys2Proof.Machine

/-! ### Addresses (R140) -/

/-- The index of a thread: the element of VIDX, or 0 where VIDX is 0x7C. -/
def State.indexOf (s : State) (w : Warp) (vidx : BitVec 8) (t : Nat) : Word :=
  if vidx = 0x7C then 0 else s.source w vidx 0 t

/-- The memory address of a thread; OFF comes sign-extended. -/
def State.memAddr (s : State) (w : Warp) (sbase : BitVec 6) (vidx : BitVec 8) (off : DWord) (t : Nat) : Nat :=
  (w.spair sbase + (s.indexOf w vidx t).zeroExtend 64 + off).toNat

/-- The scratchpad offset of a thread: the low register of the pair alone counts. -/
def State.scratchAddr (s : State) (w : Warp) (sbase : BitVec 6) (vidx : BitVec 8) (off : Word) (t : Nat) : Nat :=
  (w.sreg sbase + s.indexOf w vidx t + off).toNat

/-- Bytes of an access by SZ (R33). -/
def szBytes (sz : BitVec 3) : Nat :=
  match sz.toNat with
  | 0 | 1 => 1
  | 2 | 3 => 2
  | 4 => 4
  | 5 => 8
  | _ => 16

/-- The scratchpad bytes a warp's caravan owns. -/
def State.allotment (s : State) (w : Warp) : Nat :=
  match s.caravan? w.caravan with
  | some c => c.record.scratch
  | none => 0

/-! ### The checks (R142) -/

/-- Why an access is not made. -/
inductive Denied
  /-- A trap, and whether it counts as a world violation (R143). -/
  | trap (cause : Cause) (fields : TrapFields) (world : Bool)
  /-- A page not yet translated: the instruction waits. -/
  | miss (request : WalkRequest)
  deriving DecidableEq, Repr

/-- The address bits a program may use: [63:55] are zero (R140). -/
def inRange (a : Nat) : Bool := decide (a < 2 ^ 55)

/-- Steps 3 to 5 of R142: translation and poison, where the lowest thread that has no translation or meets a poisoned page decides,
then page permissions and range locks. -/
def State.checkPages (s : State) (w : Warp) (ts : List Nat) (addr : Nat → Nat) (n : Nat) (write : Bool) :
    Except Denied (List ThreadAddr) :=
  let entry (t : Nat) : Option TlbEntry := s.translated w.core w.ctx (addr t) false
  let leaf (t : Nat) : DWord := match entry t with
    | some e => e.leaf
    | none => 0
  let secure := s.ctxSecure w.ctx
  match ts.find? fun t => (entry t).isNone || leafPoison (leaf t) with
  | some t =>
    if (entry t).isNone then .error (.miss ⟨w.core, w.ctx, addr t, if write then .write else .read, .warp s.cur⟩)
    else .error (.trap .pageLost (.memory t false 9) false)
  | none =>
    match ts.find? fun t => (protectDetail secure write (leaf t)).isSome with
    | some t =>
      let d := (protectDetail secure write (leaf t)).getD 0
      .error (.trap .protection (.memory t false d) (d == 3))
    | none =>
      match ts.find? fun t => lockConflict (s.cluster (clusterOf w.core)).locks (.memory w.ctx) (addr t) n write with
      | some t => .error (.trap .rangeConflict (.memory t false (if write then 7 else 6)) false)
      | none => .ok (ts.map fun t => ⟨t, addr t, leafPa (leaf t) (addr t)⟩)

/-- The checks of R142 on a memory access of `n` bytes by the threads given. -/
def State.checkMemory (s : State) (w : Warp) (ts : List Nat) (addr : Nat → Nat) (n : Nat) (write : Bool) :
    Except Denied (List ThreadAddr) :=
  match ts.find? fun t => addr t % n != 0 with
  | some t => .error (.trap .misaligned (.memory t false 0) false)
  | none =>
    match ts.find? fun t => !inRange (addr t) with
    | some t => .error (.trap .protection (.memory t false 4) false)
    | none => s.checkPages w ts addr n write

/-- The checks of R142 on a scratchpad access: alignment, the allotment, range locks. -/
def State.checkScratch (s : State) (w : Warp) (ts : List Nat) (addr : Nat → Nat) (n : Nat) (write : Bool) :
    Except Denied Unit :=
  match ts.find? fun t => addr t % n != 0 with
  | some t => .error (.trap .misaligned (.memory t true 0) false)
  | none =>
    match ts.find? fun t => decide (s.allotment w < addr t + n) with
    | some t => .error (.trap .protection (.memory t true 5) false)
    | none =>
      match ts.find? fun t =>
          lockConflict (s.cluster (clusterOf w.core)).locks (.scratch w.core w.caravan) (addr t) n write with
      | some t => .error (.trap .rangeConflict (.memory t true (if write then 7 else 6)) false)
      | none => .ok ()

/-- What a failed check does: the trap, with a world violation counted, or the wait for a walker. -/
def State.deny (s : State) (w : Warp) (d : Denied) : State :=
  match d with
  | .trap cause fields world => (if world then s.worldViolation else s).trapHere w cause fields
  | .miss request => s.requestWalk request

/-! ### Order within a warp (R149, R338) -/

/-- Lines of 128 bytes on which a store of the warp is not yet acknowledged (R147). -/
def Warp.storing (w : Warp) (line : Nat) : Bool := w.stores.any fun x => (linesOf x.pa x.bytes.length).contains line

/-- No acquire of the warp is still on its way. -/
def Warp.mayLoad (w : Warp) : Bool := w.loads.all fun l => !l.acquire

/-- Every earlier load has been performed, as a later store or atomic needs (R338). -/
def Warp.mayStore (w : Warp) : Bool := w.loads.isEmpty

/-- The cycle of the cluster of a core. -/
def State.cycleOf (s : State) (core : Nat) : Int := (s.cluster (clusterOf core)).power.cycle

/-- An update made in cycle k is visible from cycle k + 4 on (R194). -/
def SharedUpdate.due (u : SharedUpdate) (cycle : Int) : Bool := decide (u.cycle + 4 ≤ cycle)

/-- The warp's updates of shared registers are all visible. -/
def State.sharedVisible (s : State) (w : Warp) (id : Nat) : Bool :=
  match s.caravan? w.caravan with
  | some c => c.updates.all fun u => u.owner != id || u.due (s.cycleOf w.core)
  | none => true

/-- A release at a scope would wait for nothing (R149, R338): scope 0 core, 1 cluster, 2 package, 3 system. At every scope each
earlier access has been performed; beyond core scope every earlier write is complete. -/
def State.released (s : State) (w : Warp) (id scope : Nat) : Bool :=
  s.sharedVisible w id && w.loads.isEmpty && w.stores.all (fun x => x.done.isSome)
    && (scope == 0 || (w.stores.isEmpty && decide (w.wmax.toNat ≤ s.time)))
    && (scope != 3 || w.puts == 0)

/-- An acquire (R149): HORIZON takes the time, but at core scope. -/
def Warp.acquire (w : Warp) (scope now : Nat) : Warp :=
  if scope = 0 then w else { w with horizon := BitVec.ofNat 64 now }

/-! ### What an access costs (R299, R322) -/

/-- A counter of the sampler of a cluster, where its owner is the context given (R322). -/
def State.sample (s : State) (cluster ctx code n : Nat) : State :=
  let c := s.cluster cluster
  if c.sampler.running && c.sampler.owner == some ctx then
    let counts := listPut 0 c.sampler.counts code (listGet 0 c.sampler.counts code + n)
    s.setCluster cluster { c with sampler := { c.sampler with counts := counts } }
  else s

/-- Lines of 128 bytes that a context's warps and engines move to or from L2: each costs one token of the context on the die,
whose balance does not fall below -B (R299), and is counted by the sampler (R322). -/
def State.moveLines (s : State) (core ctx n : Nat) (write : Bool) : State :=
  let b := match Tbl.find s.contexts ctx with
    | some c => c.btok
    | none => 0
  (s.updDie (dieOf core) fun d =>
    { d with balance := Tbl.put d.balance ctx (max (Tbl.findD d.balance ctx 0 - (n : Int)) (-(b : Int))) }).sample
      (clusterOf core) ctx (if write then 9 else 8) n

/-! ### L1 and the path caches (R147, R150, R224 to R226) -/

/-- The core whose L1 serves a line: in fused mode the slice that bit 7 of the line's address selects (R225). -/
def State.l1Core (s : State) (core line : Nat) : Nat :=
  if (s.cluster (clusterOf core)).fused then 2 * clusterOf core + line % 2 else core

def cacheFind (l : List CacheLine) (line : Nat) : Option CacheLine := l.find? fun x => x.line == line

def cacheDrop (l : List CacheLine) (line : Nat) : List CacheLine := l.filter fun x => x.line != line

/-- Takes a line into a cache that holds at most `ways` lines; the oldest fill makes room. -/
def cacheFill (limit : Nat) (l : List CacheLine) (x : CacheLine) : List CacheLine :=
  ((cacheDrop l x.line) ++ [x]).drop ((cacheDrop l x.line).length + 1 - limit)

/-- Removes a line's copy from the L1 that serves the core (R224, R339). -/
def State.dropL1 (s : State) (core line : Nat) : State :=
  s.updCore (s.l1Core core line) fun c => { c with l1 := cacheDrop c.l1 line }

/-- A warp's store to a line has arrived: no copy granted before serves the warp again (R224). -/
def State.staleFor (s : State) (core line id : Nat) : State :=
  let mark (x : CacheLine) : CacheLine := if x.line = line then { x with notFor := id :: x.notFor } else x
  s.updCore (s.l1Core core line) fun c => { c with l1 := c.l1.map mark }

/-- LEASE of a context (R327). -/
def State.leaseOf (s : State) (ctx : Nat) : Nat :=
  match Tbl.find s.contexts ctx with
  | some c => c.lease
  | none => 1024

/-- Grants a lease on a line now: the line is filled where the L2 does not hold it, and E rises to the lease's expiry. -/
def State.grant (s : State) (line expiry : Nat) : State := s.holdLine line (max (s.leaseEnd line) expiry)

/-- The 128 bytes of a line at its home. -/
def State.lineBytes (s : State) (line : Nat) : List Byte := Memory.readBytes s.mem (line * 128) 128

/-- A copy in L1 serves a warp: its lease is live, it was granted at or after HORIZON, and no store of the warp to its line has arrived
since (R147, R224, R339). -/
def CacheLine.serves (x : CacheLine) (id : Nat) (w : Warp) (now : Nat) : Bool :=
  decide (now < x.expiry ∧ w.horizon.toNat ≤ x.grant ∧ x.notFor.contains id = false)

/-- A plain read of a line on PATH 0: the L1 copy under a live lease granted at or after HORIZON, or the home's value
under a new lease, placed in L1 unless `.stream` (R147, R339). -/
def State.readLine (s : State) (id : Nat) (w : Warp) (stream : Bool) (line : Nat) : State × List Byte :=
  let k := s.l1Core w.core line
  let fresh := s.lineBytes line
  let now := s.time
  let lease := s.leaseOf w.ctx
  let granted := s.grant line (now + lease)
  let filled := granted.updCore k fun c =>
    { c with l1 := cacheFill 2048 c.l1 { line := line, grant := now, expiry := now + lease, data := fresh, notFor := [] } }
  let missed (t : State) : State := (t.sample (clusterOf w.core) w.ctx 7 1).moveLines w.core w.ctx 1 false
  match cacheFind (s.core k).l1 line with
  | some x =>
    if x.serves id w now then (s.sample (clusterOf w.core) w.ctx 6 1, x.data)
    else (missed (if !stream && decide (x.grant < now) then filled else granted), fresh)
  | none => (missed (if stream then granted else filled), fresh)

/-- The next line of the tile-layout path, at the address plus 128: within the page, or through the tables, which posts no fault
(R226). -/
def State.nextTileLine (s : State) (w : Warp) (a : ThreadAddr) : State × Option Nat :=
  if a.va / 65536 = (a.va + 128) / 65536 then (s, some ((a.pa + 128) / 128))
  else if !inRange (a.va + 128) then (s, none)
  else match s.peek w.core w.ctx (a.va + 128) with
    | (s1, some x) =>
      match s1.peekRefused w.ctx x.leaf with
      | some t => (t, none)
      | none => (s1, some (leafPa x.leaf (a.va + 128) / 128))
    | (s1, none) => (s1, none)

/-- A line of 64 bytes for the constant path. -/
def State.constBytes (s : State) (line : Nat) : List Byte := Memory.readBytes s.mem (line * 64) 64

/-- The line that holds an address on the constant path, filling its cache on a miss (R150, R226). -/
def State.readConst (s : State) (w : Warp) (stream : Bool) (a : ThreadAddr) : State × List Byte :=
  let line := a.pa / 64
  match cacheFind (s.core w.core).constCache line with
  | some x => (s, x.data)
  | none =>
    let d := s.constBytes line
    let s1 := (s.touchLine (a.pa / 128)).moveLines w.core w.ctx 1 false
    if stream then (s1, d)
    else (s1.updCore w.core fun c =>
      { c with constCache := cacheFill 1024 c.constCache { line := line, grant := 0, expiry := 0, data := d, notFor := [] } }, d)

/-- The line that holds an address on the tile-layout path; a miss fetches the next line too (R226). -/
def State.readTile (s : State) (w : Warp) (stream : Bool) (a : ThreadAddr) : State × List Byte :=
  let line := a.pa / 128
  match cacheFind (s.core w.core).tileCache line with
  | some x => (s, x.data)
  | none =>
    let d := s.lineBytes line
    let s1 := (s.touchLine line).moveLines w.core w.ctx 1 false
    if stream then (s1, d)
    else
      let fill (c : Core) (l : Nat) : Core :=
        { c with tileCache := cacheFill 1024 c.tileCache { line := l, grant := 0, expiry := 0, data := s.lineBytes l, notFor := [] } }
      match s1.nextTileLine w a with
      | (s2, some l) =>
        if (cacheFind (s.core w.core).tileCache l).isSome then (s2.updCore w.core fun c => fill c line, d)
        else (((s2.touchLine l).moveLines w.core w.ctx 1 false).updCore w.core fun c => fill (fill c line) l, d)
      | (s2, none) => (s2.updCore w.core fun c => fill c line, d)

/-- A path's hit needs nothing from the home. -/
def State.pathHit (s : State) (w : Warp) (path : BitVec 2) (a : ThreadAddr) : Bool :=
  if path = 1 then (cacheFind (s.core w.core).constCache (a.pa / 64)).isSome
  else if path = 2 then (cacheFind (s.core w.core).tileCache (a.pa / 128)).isSome
  else false

/-- The level that serves a thread of a load (R323): 7 a path's cache, 1 the L1, and none its home. -/
def State.levelOf (s : State) (id : Nat) (w : Warp) (l : PendingLoad) (a : ThreadAddr) : Option Nat :=
  if s.pathHit w l.path a then some 7
  else if l.path = 1 ∨ l.path = 2 ∨ l.fresh = true then none
  else match cacheFind (s.core (s.l1Core w.core (a.pa / 128))).l1 (a.pa / 128) with
    | some x => if x.serves id w s.time then some 1 else none
    | none => none

/-- The page of an address lies in the LPDDR 6 tier (R290). -/
def State.inLpddr (s : State) (core ctx va : Nat) : Bool :=
  match s.lookUp core ctx va false with
  | (_, .ok e) => leafTier e.leaf
  | (_, .error _) => false

/-- The record of a tagged load takes a level that has served a thread of it, and of a home the tier of the page: a home lies farther
than any cache. -/
def TagRecord.servedAt (r : TagRecord) (load : Nat) (level : Option Nat) (lpddr : Bool) : TagRecord :=
  if r.load = some load then
    { r with level := r.level.bind fun _ => level, lpddr := r.lpddr || (level.isNone && lpddr) }
  else r

/-- A load of a warp has been served at a level, for the record of a tagged instruction (R323). -/
def State.tagServed (s : State) (cluster load : Nat) (level : Option Nat) (lpddr : Bool) : State :=
  let c := s.cluster cluster
  if c.sampler.pending.any fun r => r.load == some load then
    s.setCluster cluster { c with sampler := { c.sampler with pending := c.sampler.pending.map fun r => r.servedAt load level lpddr } }
  else s

/-- Arms a watch on a line, for one of the first four lines a `mon` addresses (R153). -/
def Warp.arm (w : Warp) (lines : List Nat) (line : Nat) : Warp :=
  if (lines.take 4).contains line ∧ (w.watches.all fun x => x.line ≠ line) then
    { w with watches := w.watches ++ [⟨line, false⟩] }
  else w

/-- The access of one thread of a load may be served: no store of the warp to its line is unacknowledged, unless a path
cache hits (R147, R338). -/
def State.servable (s : State) (w : Warp) (l : PendingLoad) (a : ThreadAddr) : Bool :=
  s.pathHit w l.path a || !w.storing (a.pa / 128)

/-- Serves one thread of a load: its value, little-endian, and the state after. Every byte of the access is read at one time, the two
halves of a `b128` access among them, which R145 lets another agent's write come between (DESIGN CHOICE, assumption log 54). -/
def State.serveOne (s : State) (id : Nat) (w : Warp) (l : PendingLoad) (a : ThreadAddr) : State × Nat :=
  let n := szBytes l.sz
  if l.path = 1 then
    let (s1, d) := s.readConst w l.stream a
    (s1, bytesNat ((d.drop (a.pa % 64)).take n))
  else if l.path = 2 then
    let (s1, d) := s.readTile w l.stream a
    (s1, bytesNat ((d.drop (a.pa % 128)).take n))
  else if l.fresh then
    let s1 := ((s.dropL1 w.core (a.pa / 128)).touchLine (a.pa / 128)).moveLines w.core w.ctx 1 false
    (if l.monitor then s1.updWarp id fun w' => w'.arm l.lines (a.pa / 128) else s1, Memory.readNat s.mem a.pa n)
  else
    let (s1, d) := s.readLine id w l.stream (a.pa / 128)
    (s1, bytesNat ((d.drop (a.pa % 128)).take n))

/-! ### Widths (R145) -/

/-- The element k of a loaded value: SZ 1 and 3 sign-extend, and wide accesses fill the registers from the lowest. -/
def loadedElement (sz : BitVec 3) (v k : Nat) : Word :=
  match sz.toNat with
  | 1 => (BitVec.ofNat 8 v).signExtend 32
  | 3 => (BitVec.ofNat 16 v).signExtend 32
  | _ => BitVec.ofNat 32 (v / 2 ^ (32 * k))

/-- The value a store takes from the registers of VD. -/
def State.storedValue (s : State) (w : Warp) (vd : BitVec 8) (n t : Nat) : Nat :=
  (List.range ((n + 3) / 4)).foldl
    (fun acc k => acc + (s.source w (vd + BitVec.ofNat 8 k) 0 t).toNat * 2 ^ (32 * k)) 0 % 2 ^ (8 * n)

/-- Writes loaded values, one for each thread that took part, to the registers of VD. -/
def State.writeLoaded (s : State) (id : Nat) (vd : BitVec 8) (sz : BitVec 3) (got : List (Nat × Nat)) : State :=
  let take := maskOf fun t => got.any fun p => p.1 == t
  let value (t : Nat) : Nat := match got.find? fun p => p.1 == t with
    | some p => p.2
    | none => 0
  (List.range (szRegs sz)).foldl
    (fun acc k => acc.writeVector id (vd + BitVec.ofNat 8 k) take fun t => loadedElement sz (value t) k) s

/-- The values a load into hK.0 brings: the elements of the threads that took part, and PRESENT (R187). -/
def State.fillTrack (s : State) (w : Warp) (k : Nat) (sz : BitVec 3) (got : List (Nat × Nat)) : State :=
  s.updCaravan w.caravan fun c =>
    let x := c.slot k w.pass
    c.setSlot k w.pass
      { x with
        value := lanesOf fun t => match got.find? fun p => p.1 == t with
          | some p => loadedElement sz p.2 0
          | none => lane x.value t
        present := true }

/-- The end of a load: its registers are written, and an acquire moves HORIZON (R147). -/
def State.completeLoad (s : State) (id : Nat) (l : PendingLoad) : State :=
  match s.warp? id with
  | none => s
  | some w =>
    let s1 := match codeOf l.vd with
      | .h k _ => s.fillTrack w k l.sz l.got
      | _ => s.writeLoaded id l.vd l.sz l.got
    s1.updWarp id fun w' =>
      let w2 := { w' with loads := w'.loads.filter fun x => x.id ≠ l.id }
      if l.horizon then { w2 with horizon := BitVec.ofNat 64 s.time } else w2

/-! ### Stores at their homes (R148) -/

/-- A store of the warp to a byte of the piece was sent earlier and has not arrived (R338). -/
def Warp.storeBehind (w : Warp) (x : PendingStore) : Bool :=
  w.stores.any fun y => decide (y.id < x.id) && y.done.isNone && decide (y.pa < x.pa + x.bytes.length)
    && decide (x.pa < y.pa + y.bytes.length)

/-- Sends a thread's bytes: the piece waits for its arrival, and the L1 copy of its line is gone (R148, R224). -/
def State.sendStore (s : State) (id : Nat) (pa : Nat) (bytes : List Byte) : State :=
  match s.warp? id with
  | none => s
  | some w =>
    let piece : PendingStore := ⟨s.nextId, pa, bytes, none⟩
    let s1 := State.setWarp { s with nextId := s.nextId + 1 } id { w with stores := w.stores ++ [piece] }
    (linesOf pa bytes.length).foldl (fun acc l => acc.dropL1 w.core l) s1

/-- The scope of a qualifier field. -/
def scopeOf (q : BitVec 6) : Nat := (qualScope q).toNat

/-! ### Watchpoints on scratchpad (R310) -/

/-- What an access adds to a warp's record of one watchpoint entry; a first hit keeps its place in the order of hits. -/
def hitRecord (old : Option WatchHits) (p : Option Watchpoint) (caravan order : Nat) (ts : List Nat) (addr : Nat → Nat)
    (n : Nat) (load : Bool) : Option WatchHits :=
  match p with
  | none => old
  | some e =>
    let hits := ts.filter fun t => e.caravan == caravan && (!load || e.reads)
      && decide (addr t < e.start + e.len) && decide (e.start < addr t + n)
    match hits with
    | [] => old
    | t :: _ =>
      let m := maskOf fun u => hits.contains u
      match old with
      | some h => some { h with threads := h.threads ||| m }
      | none => some ⟨m, addr t, t, order⟩

/-- The place that the next hit takes among those recorded. -/
def Warp.hitOrder (w : Warp) : Nat :=
  w.watchHits.foldl (fun acc h => match h with | some x => max acc (x.order + 1) | none => acc) 0

/-- Records the hits of a scratchpad access on the core's four entries. -/
def State.recordHits (s : State) (w : Warp) (ts : List Nat) (addr : Nat → Nat) (n : Nat) (load : Bool) : Warp :=
  let k := s.core w.core
  let hits (i : Nat) : Option WatchHits :=
    hitRecord (listGet none w.watchHits i) (listGet none k.watchpoints i) w.caravan w.hitOrder ts addr n load
  { w with watchHits := (List.range 4).map hits }

end Sys2Proof.Machine
end

