-- ==== Sys2Proof/Machine/Control.lean ====
section
/-! DEFINITION. Branches, calls, divergence, the end of a path, yield, and the software trap and trap-control instructions
(R99 to R106, R108, R110 to R112, R60 to R63). -/

namespace Sys2Proof.Machine

/-- The lines of the spill area that hold the entries `lo` to `hi - 1` have been written at their homes (R62, R153, R331). -/
def State.stackWritten (s : State) (mem : Memory) (w : Warp) (lo hi : Nat) : State :=
  if hi ≤ lo then { s with mem := mem }
  else
    let pa := w.frame + 46080 + 64 * lo
    (linesOf pa (64 * (hi - lo))).foldl State.writeLine (State.clearTag { s with mem := mem } pa (64 * (hi - lo)))

/-- The code offset a signed count of words from an offset, as a 32-bit value; a negative offset lies far beyond every
code section, so that its fetch is *bad run header* (R101). -/
def relTarget (from_ : Nat) (off : BitVec 32) : Nat := (BitVec.ofNat 32 from_ + (off <<< 2)).toNat

/-- OP of the instruction in issue. -/
def Warp.opHere (w : Warp) : Nat := (opOf w.instrWords.1).toNat

/-- The BRANCH record of a run that ends in the transfer in issue: the next header and the mask that the transfer leaves (R318). -/
def Warp.branched (w : Warp) (now next : Nat) : Warp :=
  w.traceAdd now 3 (natBytes 4 w.here ++ natBytes 4 next ++ natBytes 4 w.opHere ++ natBytes 12 w.mask.toNat)

/-- Ends a run at a control transfer. -/
def Warp.transfer (w : Warp) (now off : Nat) : Warp := (w.branched now off).leaveRun off

/-- Ends the run of the current warp at a control transfer. -/
def State.goTo (s : State) (w : Warp) (off : Nat) : State := s.setWarp s.cur (w.transfer s.time off)

def execBra (off : BitVec 19) (s : State) : Host.Outcome State Fault Refusal :=
  checked (.b 0x20 0 off) s fun w => s.goTo w (relTarget w.here (off.signExtend 32))

/-- `bz` (R99). -/
def execBz (sa : BitVec 6) (off : BitVec 19) (s : State) : Host.Outcome State Fault Refusal :=
  checked (.b 0x21 sa off) s fun w =>
    s.goTo w (if w.sreg sa = 0 then relTarget w.here (off.signExtend 32) else w.after)

/-- `bnz` (R99). -/
def execBnz (sa : BitVec 6) (off : BitVec 19) (s : State) : Host.Outcome State Fault Refusal :=
  checked (.b 0x22 sa off) s fun w =>
    s.goTo w (if w.sreg sa ≠ 0 then relTarget w.here (off.signExtend 32) else w.after)

/-- `call` (R100): s60 takes the offset of the run header that follows. -/
def execCall (off : BitVec 19) (s : State) : Host.Outcome State Fault Refusal :=
  checked (.b 0x23 0 off) s fun w =>
    s.goTo (w.setS 60 (BitVec.ofNat 32 w.after)) (relTarget w.here (off.signExtend 32))

/-- Continues at a code offset held in a register; one that is not a multiple of 4 takes *misaligned* (R100). -/
def State.jumpTo (s : State) (w : Warp) (target : Word) : State :=
  if target.extractLsb' 0 2 ≠ 0 then s.trapHere w .misaligned .none else s.goTo w target.toNat

def execRet (s : State) : Host.Outcome State Fault Refusal :=
  checked (.s 0x24 0 0 0 0) s fun w => s.jumpTo w (w.sreg 60)

def execJmpr (sa : BitVec 6) (s : State) : Host.Outcome State Fault Refusal :=
  checked (.s 0x25 0 sa 0 0) s fun w => s.jumpTo w (w.sreg sa)

/-! ### The reconvergence stack (R60 to R63) -/

/-- Where entry `i` of the spill area lies: 46,080 bytes behind the start of the warp's frame (R62, R176, R356). -/
def Warp.spillAt (w : Warp) (i : Nat) : Nat := w.frame + 46080 + 64 * i

/-- The 64 bytes of a spilled entry (R62). -/
def entryBytes (e : StackEntry) : List Byte :=
  natBytes 4 (e.offset.toNat + (if e.kind = .pending then 2 ^ 31 else 0)) ++ natBytes 12 e.mask.toNat ++ natBytes 48 0

/-- The entry of 64 spilled bytes; bytes 16 to 63 are ignored (R62). -/
def entryAt (mem : Memory) (a : Nat) : StackEntry :=
  let h := Memory.readWord mem a
  { kind := if h.getLsbD 31 then .pending else .join, offset := h.extractLsb' 0 24,
    mask := BitVec.ofNat 96 (Memory.readNat mem (a + 4) 12) }

/-- PUSH: with 32 entries on chip the oldest is written to the spill area first (R62). -/
def pushEntry (mem : Memory) (w : Warp) (e : StackEntry) : Memory × Warp :=
  if w.stack.length < 32 then (mem, { w with stack := e :: w.stack })
  else
    match w.stack.getLast? with
    | some old =>
      (Memory.writeBytes mem (w.spillAt w.spilled) (entryBytes old),
        { w with stack := e :: w.stack.dropLast, spilled := w.spilled + 1 })
    | none => (mem, { w with stack := e :: w.stack })

/-- After a pop: with fewer than 32 entries on chip and some spilled, the most recently spilled comes back (R62). -/
def refill (mem : Memory) (w : Warp) : Warp :=
  if w.stack.length < 32 ∧ 0 < w.spilled then
    { w with stack := w.stack ++ [entryAt mem (w.spillAt (w.spilled - 1))], spilled := w.spilled - 1 }
  else w

/-- POP, or none where the stack is empty. -/
def popEntry (mem : Memory) (w : Warp) : Option (StackEntry × Warp) :=
  match w.stack with
  | [] => none
  | e :: rest => some (e, refill mem { w with stack := rest })

/-- How many entries DIVERGE pushes (R60). -/
def divergePushes (taken fall : BitVec 96) : Nat := if taken ≠ 0 ∧ fall ≠ 0 then 2 else 1

/-- DIVERGE (R60): the JOIN entry, the PENDING entry when both paths have threads, the mask, and the next run. An entry holds 24
bits of an offset (R62): a J or F outside the code section, which may reach 16 MiB, is held by its low 24 bits (DESIGN CHOICE,
assumption log 42). -/
def diverge (mem : Memory) (w : Warp) (p : BitVec 96) (t f j : Nat) : (Memory × Warp) × Nat :=
  let m := w.mask
  let taken := m &&& p
  let fall := m &&& ~~~p
  let (mem1, w1) := pushEntry mem w ⟨.join, BitVec.ofNat 24 j, m⟩
  if taken ≠ 0 ∧ fall ≠ 0 then
    let (mem2, w2) := pushEntry mem1 w1 ⟨.pending, BitVec.ofNat 24 f, fall⟩
    ((mem2, w2.setMask taken), t)
  else if taken ≠ 0 then ((mem1, w1.setMask taken), t)
  else ((mem1, w1.setMask fall), f)

/-- `vbr` (R102): *divergence overflow* where the pushes would exceed 1,024 entries (R63); a never-instruction
continues at F. -/
def execVbr (pred : BitVec 4) (neg : BitVec 1) (target reconv : BitVec 16) (s : State) :
    Host.Outcome State Fault Refusal :=
  checked (.r 0x4E pred neg 0 target reconv) s fun w =>
    let p := s.predOf w pred neg
    let f := w.after
    if isNever pred neg then s.goTo w f
    else if 1024 < w.depth + divergePushes (w.mask &&& p) (w.mask &&& ~~~p) then
      s.trapHere w .divergenceOverflow .none
    else
      let ((mem, w'), next) := diverge s.mem w p (relTarget w.here (target.signExtend 32)) f
        (relTarget w.here (reconv.signExtend 32))
      (s.goTo w' next).stackWritten mem w w.spilled w'.spilled

/-- `rcv` (R103): RECONVERGE at the word that follows (R61). -/
def execRcv (s : State) : Host.Outcome State Fault Refusal :=
  checked (.s 0x26 0 0 0 0) s fun w =>
    match popEntry s.mem w with
    | none => s.goTo w w.after
    | some (e, w1) => s.goTo (w1.setMask e.mask) (if e.kind = .pending then e.offset.toNat else w.after)

/-- Clears threads from the spilled entries 0 to n - 1. -/
def clearSpilled (mem : Memory) (w : Warp) (x : BitVec 96) (n : Nat) : Memory :=
  match n with
  | 0 => mem
  | k + 1 =>
    let m := clearSpilled mem w x k
    let e := entryAt m (w.spillAt k)
    Memory.writeBytes m (w.spillAt k) (entryBytes { e with mask := e.mask &&& ~~~x })

/-- Clears the threads of an ended path from every entry (R104). -/
def clearThreads (mem : Memory) (w : Warp) (x : BitVec 96) : Memory × Warp :=
  (clearSpilled mem w x w.spilled, { w with stack := w.stack.map fun e => { e with mask := e.mask &&& ~~~x } })

/-- Pops entries until one has threads left (R104); at most `fuel` pops. -/
def popLive (mem : Memory) (w : Warp) (fuel : Nat) : Option StackEntry × Warp :=
  match fuel with
  | 0 => (none, w)
  | k + 1 =>
    match popEntry mem w with
    | none => (none, w)
    | some (e, w1) => if e.mask = 0 then popLive mem w1 k else (some e, w1)

/-- `exit` (R104): the path's threads leave every entry; the warp goes on with the first entry that has threads left,
and retires when none has. A JOIN entry continues behind the extent of the run at its offset, or at the offset itself
where that word has no extent; while a page of the extent is not translated, the `exit` waits with nothing done (R295). -/
def execExit (s : State) : Host.Outcome State Fault Refusal :=
  checked (.s 0x27 0 0 0 0) s fun w =>
    let (mem, w1) := clearThreads s.mem w w.mask
    let done (t : State) : State := t.stackWritten mem w 0 w.spilled
    match popLive mem w1 (w1.depth + 1) with
    | (none, w2) =>
      let w3 := { w2 with phase := .retiring (match w.run with | some r => r.header | none => w.next),
                          timerPending := false, watchPending := none, timer := 0, active := false }
      done (s.setWarp s.cur (w3.branched s.time 0xFFFFFFFF))
    | (some e, w2) =>
      if e.kind = .pending then done (s.goTo (w2.setMask e.mask) e.offset.toNat)
      else match s.extentOf w e.offset.toNat with
        | .behind n => done (s.goTo (w2.setMask e.mask) n)
        | .none => done (s.goTo (w2.setMask e.mask) e.offset.toNat)
        | .waits t => t

/-! ### Yield and trap control -/

/-- The warp stands at a run boundary: where it fetches its next run, where that fetch waits for RESOLVE (R295), or with the run
fetched. -/
def Warp.betweenRuns (w : Warp) : Bool :=
  match w.phase with
  | .fetch | .boundary => true
  | .waiting (.translation _) => w.run.isNone
  | _ => false

/-- The warp waits to enter an active position: it is resident, and neither active, nor sleeping, nor blocked, nor halted (R171). -/
def Warp.entering (w : Warp) : Bool := !w.active && !w.debugHalted && w.betweenRuns

/-- `yield` (R106): the warp leaves its active position at the end of its run when a warp of its scheduler waits to enter at the
`yield`, or at any `yield` of the run (DEDUCED, assumption log 43); its aging count restarts. -/
def execYield (s : State) : Host.Outcome State Fault Refusal :=
  checked (.s 0x3B 0 0 0 0) s fun w =>
    let waiting := s.warps.any fun (_, x) => x.core == w.core && x.sched == w.sched && x.entering
    s.finish { w with aging := 0, yielded := w.yielded || waiting }

/-- `trap` (R108), a control transfer, which a BRANCH record names where a handler follows (R318). -/
def execTrap (code : BitVec 12) (s : State) : Host.Outcome State Fault Refusal :=
  checked (.s 0x2A 0 0 1 code) s fun w =>
    s.trapHere (if w.tvec ≠ 0 ∧ w.handlerActive = false then w.branched s.time w.tvec.toNat else w) .softwareTrap (.code code)

/-- Resumes run `off` at instruction `k`: the rest of the run is one issue whose temporaries read as zero (R163). What the run had
read of a latch before its trap it has still read (R98). -/
def Warp.resumeAt (w : Warp) (off k : Nat) : Warp := { w.leaveRun off with resume := some k, readLow := w.readLowHeld }

/-- TRET of R163 for a warp in a handler. While the extent of the run it follows is not translated, it waits (R295). After a protection or
a page lost of a run fetch, whose TIDX is 0xFFFFFFFF, the Resume column says "after", and the spec names no instruction there: the model
takes index TIDX + 1 as 2^32, so that the run at TRUN is fetched again and, where its words can then be read, the warp goes on behind it
(DESIGN CHOICE, assumption log 53). -/
def State.returnFromTrap (s : State) (id : Nat) (w : Warp) : State :=
  let w1 := { w with handlerActive := false, trapMask := w.tinfo.getLsbD 1 }
  let run := w.trun.toNat
  if w.tinfo.getLsbD 31 then
    s.setWarp id ({ w1 with tinfo := w.tinfo &&& 0x7FFFFFFF }.transfer s.time (4 * (w.tinfo.extractLsb' 2 22).toNat))
  else
    let inside (k : Nat) : State := s.setWarp id ((w1.branched s.time run).resumeAt run k)
    match resumeOf w.tcause w.tinfo with
    | .at_ => if w.tidx = 0xFFFFFFFF then s.setWarp id (w1.transfer s.time run) else inside w.tidx.toNat
    | .after => inside (w.tidx.toNat + 1)
    | .nextRun => match s.extentOf w run with
      | .behind n => s.setWarp id (w1.transfer s.time n)
      | .none => s.setWarp id (w1.transfer s.time run)
      | .waits t => t
    | .none => s.terminate id w1 ⟨w.tcause.extractLsb' 0 8, false, false, true⟩

/-- `tret` (R110, R163): outside a handler it is an illegal instruction. -/
def execTret (s : State) : Host.Outcome State Fault Refusal :=
  checked (.s 0x2B 0 0 0 0) s fun w =>
    if w.handlerActive = false then s.trapHere w .illegalInstruction .none else s.returnFromTrap s.cur w

/-- `tmsk` (R111); a masked handler under a raised halt line has its stop deferred from then on (R165). -/
def execTmsk (mask : BitVec 1) (s : State) : Host.Outcome State Fault Refusal :=
  checked (.s 0x2C 0 0 1 ((0 : BitVec 11) ++ mask)) s fun w => s.finish (s.noteDeferral { w with trapMask := mask == 1 })

/-- `settmr` (R112): the comparator takes the pair, and a held timer trap is discarded. -/
def execSettmr (sa : BitVec 6) (s : State) : Host.Outcome State Fault Refusal :=
  checked (.s 0x2D 0 sa 0 0) s fun w => s.finish { w with timer := w.spair sa, timerPending := false }

end Sys2Proof.Machine
end

