-- ==== Sys2Proof/Machine/Part.lean ====
section
/-! DEFINITION. Accesses made for an engine operation (R230) and by the part on a context's behalf (R388): status slots,
completion words, mailbox posts, trace records; and the halt line's fall. -/

namespace Sys2Proof.Machine

/-! ### Reaching a page (R230, R361) -/

/-- What an access other than a thread's meets at an address. -/
inductive Reach
  | at_ (leaf : DWord) (pa : Nat)
  | unmapped
  | refused (world : Bool)
  | poisoned
  deriving DecidableEq, Repr

/-- An access in a context through the TLB of a core, `unmapped` where it holds no translation; `kv` is an operation that may
write a page of class KV (R143). The order of the conditions is that of R142. -/
def State.reach (s : State) (core ctx va : Nat) (write kv : Bool) : Reach :=
  if !inRange va then .refused false
  else match s.translated core ctx va false with
    | none => .unmapped
    | some e =>
      if leafPoison e.leaf then .poisoned
      else if leafSecure e.leaf && !s.ctxSecure ctx then .refused true
      else if write && leafClass e.leaf == 2 && !kv then .refused false
      else if write && !leafWritable e.leaf then .refused false
      else .at_ e.leaf (leafPa e.leaf va)

/-- A virtual span cut at page units of 64 KiB: addresses and lengths. -/
def spanPieces (va n fuel : Nat) : List (Nat × Nat) :=
  match fuel with
  | 0 => []
  | k + 1 =>
    if n = 0 then []
    else
      let m := min n (65536 - va % 65536)
      (va, m) :: spanPieces (va + m) (n - m) k

def piecesOf (va n : Nat) : List (Nat × Nat) := spanPieces va n (n / 65536 + 2)

/-! ### The part's own accesses (R388) -/

inductive PartReach
  | go (pa : Nat)
  /-- The page is not translated: a walk is requested, and whatever depends on the access waits. -/
  | wait (s : State)
  /-- The access is dropped. -/
  | drop (s : State)

/-- An access on a context's behalf through a core's TLB, made for `who`. While `who` waits for a walk or for RESOLVE the access
waits; one whose fault the driver answered with FAIL is in `dropped`, and is dropped (R297). The spec names no die for an access
that belongs to no core: it goes through core 0 (DESIGN CHOICE, assumption log 44). -/
def State.partReach (s : State) (who : PartAccess) (core ctx va : Nat) (write : Bool) : PartReach :=
  if s.dropped.contains (who, ctx, va / 65536) then
    .drop { s with dropped := s.dropped.filter fun p => p != (who, ctx, va / 65536) }
  else if s.walking (.part who) then .wait s
  else match s.reach core ctx va write false with
  | .at_ _ pa => .go pa
  | .unmapped => .wait (s.requestWalk ⟨core, ctx, va, .engine, .part who⟩)
  | .refused world => .drop (if world then s.worldViolation else s)
  | .poisoned => .drop s

/-- A write of bytes that lie in one page: the state after, and the completion time of the write, 0 where it is dropped; none where
it must wait. -/
def State.partStore (s : State) (who : PartAccess) (core ctx va : Nat) (bytes : List Byte) : State × Option Nat :=
  match s.partReach who core ctx va true with
  | .go pa => (s.homeWrite pa bytes, some (s.completionOf pa bytes.length))
  | .wait s' => (s', none)
  | .drop s' => (s', some 0)

/-- The same, with false where it must wait. -/
def State.partWrite (s : State) (who : PartAccess) (core ctx va : Nat) (bytes : List Byte) : State × Bool :=
  let (s1, c) := s.partStore who core ctx va bytes
  (s1, c.isSome)

/-! ### The debug mailbox (R311, R312) -/

def State.setContext (s : State) (k : Nat) (c : Context) : State := { s with contexts := Tbl.put s.contexts k c }

/-- MAILBOX_POST: the oldest report of a debug context is posted: its slot is claimed, it waits for room, its bytes are
written, and SEQ last. A report whose access fails for good is dropped. -/
def execMailboxPost (ctx : Nat) (s : State) : Host.Outcome State Fault Refusal :=
  match Tbl.find s.contexts ctx with
  | none => .next s
  | some c =>
    match c.reports with
    | [] => .next s
    | r :: rest =>
      match r.slot with
      | none =>
        match s.partReach (.post ctx) 0 ctx c.mbase true with
        | .wait s' => .next s'
        | .drop s' => .next (s'.setContext ctx { c with reports := rest })
        | .go pa =>
          let i := Memory.readNat s.mem pa 8
          let claimed : Report := { r with slot := some i }
          .next ((s.homeWrite pa (natBytes 8 (i + 1))).setContext ctx { c with reports := claimed :: rest })
      | some i =>
        match s.partReach (.post ctx) 0 ctx c.mbase true with
        | .wait s' => .next s'
        | .drop s' => .next (s'.setContext ctx { c with reports := rest })
        | .go pa =>
          if i - Memory.readNat s.mem (pa + 8) 8 < c.msize then
            let (s1, ok) := s.partWrite (.post ctx) 0 ctx (c.mbase + 64 + 64 * (i % c.msize)) (natBytes 8 (i + 1) ++ r.bytes)
            .next (if ok then s1.setContext ctx { c with reports := rest } else s1)
          else .next s

/-! ### Trace rings (R317) -/

/-- Writes the oldest waiting record of a traced warp to the ring it was emitted for: it claims its number on PIDX and lands in
its slot. -/
def State.flushOne (s : State) (id : Nat) : State :=
  match s.warp? id with
  | none => s
  | some w =>
    match w.trace with
    | none => s
    | some tr =>
      match tr.waiting with
      | [] => s
      | (ring, b) :: rest =>
        let gone (x : Warp) : Warp := { x with trace := some { tr with waiting := rest } }
        match s.partReach (.trace id) w.core ring.ctx (ring.ring + 16) true with
        | .wait s' => s'
        | .drop s' => s'.updWarp id gone
        | .go pa =>
          let i := Memory.readNat s.mem pa 8
          match s.partReach (.trace id) w.core ring.ctx (ring.base + 64 * (i % ring.size)) true with
          | .wait s' => s'
          | .drop s' => (s'.homeWrite pa (natBytes 8 (i + 1))).updWarp id gone
          | .go rec =>
            ((s.homeWrite pa (natBytes 8 (i + 1))).homeWrite rec (natBytes 8 (i + 1) ++ b)).updWarp id gone

/-- Writes waiting records of a warp, oldest first, until one must wait. -/
def State.flushTrace (s : State) (id n : Nat) : State :=
  match n with
  | 0 => s
  | k + 1 => (s.flushOne id).flushTrace id k

/-! ### The halt line falls (R300, R166) -/

/-- Changes every engine operation of the part. -/
def State.mapOps (s : State) (f : EngineOp → EngineOp) : State :=
  let core (k : Core) : Core :=
    { k with copyQueue := k.copyQueue.map f, tableQueue := k.tableQueue.map f, loaderQueue := k.loaderQueue.map f,
             matrixQueue := k.matrixQueue.map f }
  let cluster (k : Cluster) : Cluster :=
    { k with selection := k.selection.map f, attention := k.attention.map f, fabric := k.fabric.map f }
  { s with cores := s.cores.map fun p => (p.1, core p.2), clusters := s.clusters.map fun p => (p.1, cluster p.2) }

/-- The vector registers of a warp as its vector area holds them: register n at offset 384 n (R176). -/
def spillBytes (w : Warp) : List Byte :=
  (List.range w.quota).flatMap fun n => (List.range 96).flatMap fun t => natBytes 4 (lane (listGet [] w.vregs n) t).toNat

/-- The vector registers that the vector area of a warp's frame holds. -/
def unspill (mem : Memory) (w : Warp) : List Lanes :=
  (List.range w.quota).map fun n => lanesOf fun t => Memory.readWord mem (w.frame + 384 * n + 4 * t)

/-- The registers of a warp lie in its frame: it is spilled or stopped (R176, R356). -/
def Warp.inFrame (w : Warp) : Bool := w.spilledRegs || w.phase == .stopped

/-- The vector registers of a warp, on the core or in its frame. -/
def State.vregsOf (s : State) (w : Warp) : List Lanes := if w.inFrame then unspill s.mem w else w.vregs

/-- The lowest warp index that no other warp bound to the core has (DESIGN CHOICE, assumption log 14); a core holds at most 256 (R50). -/
def State.pickIndex (s : State) (core : Nat) (self : Option Nat) : Nat :=
  ((List.range 256).find? fun k => s.warps.all fun p => p.2.core != core || self == some p.1 || p.2.widx != k).getD 0

/-- The restore claim of a spilled warp (R173, R176). -/
def State.claimRestore (s : State) (id : Nat) (w : Warp) : State :=
  if w.spilledRegs then s.updCore w.core fun k => { k with claims := k.claims ++ [⟨w.ordinal, w.quota, .restore id⟩] } else s

/-- A stopped warp goes on: at its next run, or in the wait for a party that it keeps its place in (R251). Its registers come from
its frame; s57 is supplied afresh (R64); PROGRESS reads that of its most recently stopped operation (R358). One that was spilled
stays so, and claims its registers again. -/
def State.restoreWarp (s : State) (id : Nat) (w : Warp) : State :=
  let k := s.pickIndex w.core (some id)
  let up : Warp :=
    { w with
      phase := match w.stopWait with
        | some x => .waiting x
        | none => .fetch
      stopWait := none
      widx := k
      scalars := listPut 0 w.scalars 57 (BitVec.ofNat 32 k)
      vregs := if w.spilledRegs then [] else unspill s.mem w
      progress := match w.stoppedOp with
        | some (_, p) => p
        | none => 0 }
  (s.setWarp id up).claimRestore id up

/-- A warp is taken up again as its partition's line falls. A stopped one goes on; for one held at a fault a REDIRECT that a
debugger wrote while it was held continues it at TARGET, and otherwise it is terminated (R166). -/
def State.takeUp (s : State) (id : Nat) (w : Warp) : State :=
  match w.phase with
  | .stopped => s.restoreWarp id w
  | .faultStopped how =>
    if w.redirected && w.tinfo.getLsbD 31 then
      s.setWarp id ({ w with tinfo := w.tinfo &&& 0x7FFFFFFF }.leaveRun (4 * (w.tinfo.extractLsb' 2 22).toNat))
    else s.setWarp id { w with phase := .terminating how }
  | _ => s

/-- The deferral of a stop ends with the line that asked for it (R165). -/
def Warp.undefer (w : Warp) : Warp := { w with deferred := false, wasDeferred := false }

/-- Takes up the warps of a list that a test names. -/
def State.takeUpAll (s : State) (named : Warp → Bool) (l : List (Nat × Warp)) : State :=
  match l with
  | [] => s
  | (id, w) :: rest => (if named w then s.takeUp id w.undefer else s).takeUpAll named rest

/-- A holder lets the line of a partition go; with no holder left the line falls. What a stop has saved waits to be placed
again. -/
def State.lowerHalt (s : State) (partition : Nat) (holder : HaltHolder) : State :=
  let p := Tbl.findD s.partitions partition Partition.initial
  let left := p.holders.filter fun h => h != holder
  if left.isEmpty then
    let p' : Partition := { p with halt := none, holders := [], haltReport := none }
    let here (w : Warp) : Bool := s.partitionOf w.ctx == partition && decide (w.core < 576)
    let go (o : EngineOp) : EngineOp :=
      match Tbl.find s.contexts o.ctx with
      | some c => if c.partition = partition then { o with stopped := false } else o
      | none => o
    let s1 := s.mapOps go
    let undefer (w : Warp) : Warp := if here w then w.undefer else w
    State.takeUpAll { s1 with partitions := Tbl.put s1.partitions partition p', warps := s1.warps.map fun x => (x.1, undefer x.2) }
      here s1.warps
  else
    let p' : Partition := { p with holders := left }
    { s with partitions := Tbl.put s.partitions partition p' }

end Sys2Proof.Machine
end

