-- ==== Sys2Proof/Machine/Caravan.lean ====
section
/-! DEFINITION. Caravans: completion records (R232, R235), claims on the free store (R173), the launch of a pass (R51,
R178), relays (R189, R190), parties (R249, R250, R252), the end of a pass (R105, R166, R181), the completion of a caravan
(R178), the quota arbiter (R176), and placement (R298, R299). -/

namespace Sys2Proof.Machine

/-! ### Completion records (R232, R235) -/

/-- Drops a warp's oldest record and counts the overrun. -/
def Warp.dropRecord (w : Warp) : Warp :=
  { w with records := w.records.drop 1, overrun := min 255 (w.overrun + 1),
           lostOps := w.lostOps ++ (w.records.take 1).map fun r => r.op }

/-- How many records the warps of a core hold. -/
def State.recordsOn (s : State) (core : Nat) : Nat :=
  s.warps.foldl (fun acc p => if p.2.core = core ∧ p.2.phase ≠ .stopped then acc + p.2.records.length else acc) 0

/-- The warp of a core that holds the most records, the lowest warp index breaking a tie. -/
def State.fullest (s : State) (core : Nat) : Option Nat :=
  (s.warps.foldl (fun (best : Option (Nat × Warp)) p =>
    if p.2.core ≠ core ∨ p.2.phase = .stopped then best
    else match best with
      | none => some p
      | some b =>
        if b.2.records.length < p.2.records.length
            ∨ (b.2.records.length = p.2.records.length ∧ p.2.widx < b.2.widx) then some p else best) none).map
    fun p => p.1

/-- Queues a completion record to a warp: at most 64 of one warp and 256 on its core, the oldest giving way (R235). -/
def State.queueRecord (s : State) (id : Nat) (r : EventRecord) : State :=
  match s.warp? id with
  | none => s
  | some w =>
    let s1 :=
      if 64 ≤ w.records.length then (s.setWarp id w.dropRecord).sample (clusterOf w.core) w.ctx 15 1
      else if 256 ≤ s.recordsOn w.core then
        match s.fullest w.core with
        | some k => (s.updWarp k Warp.dropRecord).sample (clusterOf w.core) w.ctx 15 1
        | none => s
      else s
    (s1.updWarp id fun x => { x with records := x.records ++ [r] }).sample (clusterOf w.core) w.ctx 14 1

/-! ### Warp frames (R356) -/

/-- The lowest free frame of a context. -/
def State.freeFrame (s : State) (ctx : Nat) : Option Nat :=
  match Tbl.find s.contexts ctx with
  | none => none
  | some c => (List.range (min c.nframes (c.frames.length + c.stopFrames.length + 1))).find? fun k => !c.frames.contains k && !c.stopFrames.contains k

/-- The physical address of a frame. -/
def frameAt (c : Context) (k : Nat) : Nat := c.save + 65536 + 131072 * k

def State.takeFrame (s : State) (ctx k : Nat) : State :=
  match Tbl.find s.contexts ctx with
  | none => s
  | some c => s.setContext ctx { c with frames := c.frames ++ [k] }

/-- Gives a warp's frame back. -/
def State.returnFrame (s : State) (w : Warp) : State :=
  match Tbl.find s.contexts w.ctx with
  | none => s
  | some c => s.setContext w.ctx { c with frames := c.frames.filter fun k => frameAt c k != w.frame }

/-! ### The launch of a pass (R51, R168, R178) -/

/-- How many passes a caravan has. -/
def Caravan.passes (c : Caravan) : Nat := c.record.trip + c.record.stages - 1

/-- Resident warps of a core. -/
def State.residents (s : State) (core : Nat) : List (Nat × Warp) :=
  s.warps.filter fun p => p.2.core == core && p.2.phase != .stopped

/-- The scheduler with the fewest warps bound to it, the lowest-numbered winning a tie. -/
def State.pickSched (s : State) (core : Nat) : Nat :=
  let count (k : Nat) : Nat := (s.warps.filter fun p => p.2.core == core && p.2.sched == k).length
  (List.range 4).foldl (fun best k => if count k < count best then k else best) 0

/-- The scalars at pass start: argument words, PASS, WIDX, CBASE and the mask. -/
def firstScalars (c : Caravan) (pass widx : Nat) : List Word :=
  let n := c.taskWords.length
  let mask : BitVec 96 := if n = 0 then BitVec.allOnes 96 else BitVec.ofNat 96 (2 ^ n - 1)
  (List.range 64).map fun k =>
    if k = 0 then 0
    else if k ≤ 55 then listGet 0 c.args (k - 1)
    else if k = 56 then BitVec.ofNat 32 pass
    else if k = 57 then BitVec.ofNat 32 widx
    else if k = 58 then BitVec.ofNat 32 c.record.dbase
    else if k = 59 then BitVec.ofNat 32 (c.record.dbase / 2 ^ 32)
    else if k = 61 then mask.extractLsb' 0 32
    else if k = 62 then mask.extractLsb' 32 32
    else if k = 63 then mask.extractLsb' 64 32
    else 0

/-- Trace as `trc.on` turns it on: nothing is emitted until the ANCHOR at the next safe point (R319). -/
def TraceState.fresh (ring : TraceRing) : TraceState :=
  { ring := ring, wrec := 0, anchorSafe := true, anchorNext := false,
    started := false, off := false, waiting := [] }

/-- A warp as its pass begins (R51). The registers for which R51 gives no value take 0 (assumption log 5). -/
def Warp.first (c : Caravan) (id pass core : Nat) (ordinal : Word) (sched widx frame now cycle : Nat) : Warp :=
  { ctx := c.ctx, core := core, caravan := id, pass := pass, ordinal := ordinal, sched := sched, widx := widx,
    frame := frame, scalars := firstScalars c pass widx,
    vregs := if c.taskWords = [] then [] else
      [lanesOf fun t => (listGet (0, 0) c.taskWords t).1, lanesOf fun t => (listGet (0, 0) c.taskWords t).2],
    temps := [], preds := List.replicate 7 0, quota := 8 * c.record.quota, flags := 0, fpctl := 0, tcause := 0,
    trun := 0, tidx := 0, tinfo := 0, tvec := 0, progress := 0, stepState := 0, wmax := 0,
    horizon := BitVec.ofNat 64 now, wmaxLatch := none, horizonLatch := none, baseLatch := none, readLow := 0, readLowHeld := 0,
    trapMask := false, handlerActive := false, timerPending := false, watchPending := none, timer := 0, tblSel := 0, stack := [],
    spilled := 0, next := c.record.entry, resume := none, run := none, startIdx := 0, idx := 0, pos := 1, target := none,
    remainder := false, wroteTemps := 0, operands := none, phase := .fetch, active := false, aging := 0, eligibleAt := cycle, yielded := false,
    spilledRegs := false, loads := [], stores := [], watches := [], batch := 0, openAll := [], openOps := [], openFlags := 0,
    batches := [], records := [], overrun := 0, lostOps := [], inFlight := 0, children := 0, recChildren := 0, puts := 0,
    arrival := [none, none, none, none], debugHalted := false, haltPending := false, skipBreak := false, step := none,
    stepRuns := 0, watchHits := [none, none, none, none], trace := c.traceRing.map TraceState.fresh, lastOrd := 0, deferred := false,
    wasDeferred := false, stoppedOp := none, stopWait := none, redirected := false, slotDone := false, departed := false, bornCycle := cycle, issuedAt := now }

/-- Launches a pass on its core under an ordinal, in a free frame; its quota is already taken. -/
def State.launchPass (s : State) (id pass : Nat) (ordinal : Word) : State :=
  match s.caravan? id with
  | none => s
  | some c =>
    match c.core, s.freeFrame c.ctx, Tbl.find s.contexts c.ctx with
    | some core, some k, some ctx =>
      let w := Warp.first c id pass core ordinal (s.pickSched core) (s.pickIndex core none) (frameAt ctx k) s.time
        (s.cluster (clusterOf core)).power.cycle
      let s1 := State.setWarp { s with nextId := s.nextId + 1 } s.nextId w
      (s1.takeFrame c.ctx k).updCaravan id fun x =>
        { x with nextPass := max x.nextPass (pass + 1), claimed := max x.claimed (pass + 1) }
    | _, _, _ => s

/-- Pass j is due: every pass numbered 0 to j - D has ended (R178). -/
def Caravan.due (c : Caravan) (j : Nat) : Bool :=
  decide (j < c.passes) && (List.range (j + 1 - c.record.depth)).all fun i => c.ended.contains i

/-- Makes the launch claims of a caravan's due passes, each with the core's next ordinal. -/
def State.claimPasses (s : State) (core id fuel : Nat) : State :=
  match fuel with
  | 0 => s
  | k + 1 =>
    match s.caravan? id with
    | none => s
    | some c =>
      if c.due c.claimed then
        let add (x : Core) : Core :=
          { x with claims := x.claims ++ [⟨x.nextOrdinal, 8 * c.record.quota, .launch id c.claimed⟩],
                   nextOrdinal := x.nextOrdinal + 1 }
        ((s.updCore core add).setCaravan id { c with claimed := c.claimed + 1 }).claimPasses core id k
      else s

/-- Makes every launch claim that is due on a core. -/
def State.makeClaims (s : State) (core : Nat) : State :=
  (s.caravans.filter fun p => p.2.core == some core && p.2.stage == .placed).foldl
    (fun acc p => acc.claimPasses core p.1 32) s

/-! ### Relays (R189) -/

/-- Copies the predecessor's value into a relay-pending slot once it is present. -/
def Caravan.copyRelay (c : Caravan) (k j : Nat) : Caravan :=
  let x := c.slot k j
  if x.relayPending && x.tag == j && c.met k j 1 then
    c.setSlot k j { x with value := c.passValue k j 1, present := true, relayPending := false }
  else c

/-- Pass j relays track k, which counts as its write. -/
def Caravan.relay (c : Caravan) (k j : Nat) : Caravan :=
  let x : Slot := { value := [], present := false, filled := true, tag := j, relayPending := true }
  let c1 := (c.setSlot k j x).markWrote j k
  Caravan.copyRelay
    { c1 with relayed := Tbl.put c1.relayed j (Tbl.findD c1.relayed j 0 ||| BitVec.ofNat 16 (2 ^ k)) } k j

/-- Relays every declared track that the pass has not written (R189). -/
def Caravan.relayAll (c : Caravan) (j : Nat) : Caravan :=
  (List.range c.record.tracks).foldl (fun acc k => if acc.wroteTrack j k then acc else acc.relay k j) c

/-- `hrel` (R190). -/
def execHrel (track : BitVec 12) (s : State) : Host.Outcome State Fault Refusal :=
  checked (.s 0x3D 0 0 1 track) s fun w =>
    (s.updCaravan w.caravan fun c =>
      if c.wroteTrack w.pass track.toNat then c else c.relay track.toNat w.pass).finish w

/-- RELAY_COPY: a relay-pending slot takes the predecessor's value (R189). -/
def execRelayCopy (caravan pass track : Nat) (s : State) : Host.Outcome State Fault Refusal :=
  .next (s.updCaravan caravan fun c => c.copyRelay track pass)

/-! ### Parties (R249, R250, R252) -/

/-- COMPLETE(P): a phase whose arrivals equal its members completes. -/
def Party.complete (p : Party) : Party :=
  if p.arrived ≠ 0 ∧ p.arrived = p.members then { p with phase := p.phase + 1, arrived := 0 } else p

/-- The entry number of a warp's party slot. -/
def State.partyEntry (s : State) (w : Warp) (slot : Nat) : Option Nat :=
  match s.caravan? w.caravan with
  | some c => c.partyBase[slot]?
  | none => none

def State.party? (s : State) (w : Warp) (slot : Nat) : Option Party :=
  match s.partyEntry w slot with
  | some n => Tbl.find (s.cluster (clusterOf w.core)).parties n
  | none => none

def State.setParty (s : State) (w : Warp) (slot : Nat) (p : Party) : State :=
  match s.partyEntry w slot with
  | some n => s.updCluster (clusterOf w.core) fun c => { c with parties := Tbl.put c.parties n p }
  | none => s

/-- No younger warp has arrived at the party, or left it, in the present cycle: the warp's turn has not passed (R252). -/
def Party.inTurn (p : Party) (cycle : Int) (ordinal : Word) : Bool :=
  match p.last with
  | some (c, o) => !(c == cycle && older ordinal o)
  | none => true

def State.partyTurn (s : State) (w : Warp) (slot : Nat) : Bool :=
  match s.party? w slot with
  | some p => p.inTurn (s.cycleOf w.core) w.ordinal
  | none => true

/-- A departing member leaves the party of one slot (R252). -/
def State.leaveParty (s : State) (w : Warp) (slot : Nat) : State :=
  match s.party? w slot with
  | none => s
  | some p =>
    let p1 : Party :=
      { p with members := p.members - 1, last := some (s.cycleOf w.core, w.ordinal),
               arrived := if listGet none w.arrival slot = some p.phase then p.arrived - 1 else p.arrived }
    s.setParty w slot p1.complete

def State.leaveParties (s : State) (w : Warp) : State := (List.range 4).foldl (fun acc k => acc.leaveParty w k) s

/-! ### The end of a pass (R105, R166, R181) -/

/-- The two words of R167. -/
def exitWord0 (cause : BitVec 8) (inHandler noHandler fatalTret : Bool) (ord : Nat) : Nat :=
  cause.toNat + (if inHandler then 2 ^ 8 else 0) + (if noHandler then 2 ^ 9 else 0)
    + (if fatalTret then 2 ^ 10 else 0) + ord % 4096 * 2 ^ 16

/-- The 64 bytes of the status header while DONE is 0 (R181). -/
def Caravan.statusHeader (c : Caravan) : List Byte :=
  natBytes 8 c.ended.length ++ natBytes 8 c.terminated.length
    ++ natBytes 8 (c.terminated.foldl min (2 ^ 64 - 1)) ++ natBytes 40 0

/-- DONE follows a write that is complete at a time (R181). -/
def Caravan.settle (c : Caravan) (time : Nat) : Caravan := { c with settled := max c.settled time }

/-- Writes a pass's status slot, once, and then the header `c` gives: the state after, and false where an access must wait (R388). -/
def State.writeStatus (s : State) (id : Nat) (w : Warp) (c : Caravan) (word0 word1 : Nat) : State × Bool :=
  let slot := c.record.statAddr + 64 + 16 * (w.pass % c.record.statLen)
  let bytes := natBytes 4 word0 ++ natBytes 4 word1 ++ natBytes 4 w.pass ++ natBytes 4 0
  match (if w.slotDone then (s, some 0) else s.partStore (.slot id) w.core c.ctx slot bytes) with
  | (s1, none) => (s1, false)
  | (s1, some done) =>
    let s2 := (s1.updWarp id fun x => { x with slotDone := true }).updCaravan w.caravan fun x => x.settle done
    match s2.partStore (.header id) w.core c.ctx c.record.statAddr c.statusHeader with
    | (s3, none) => (s3, false)
    | (s3, some done) => (s3.updCaravan w.caravan fun x => x.settle done, true)

/-- The arbiter's charge for a pass (R346), in half cluster-cycles: n for n cycles on one core, 2n for a PAIR caravan. -/
def State.chargeQueue (s : State) (queue : Option Nat) (cycles : Nat) (pair : Bool) : State :=
  match queue with
  | none => s
  | some q =>
    match Tbl.find s.queues q with
    | none => s
    | some h =>
      let c : Int := if pair then 2 * cycles else cycles
      { s with queues := Tbl.put s.queues q { h with deficit := min h.deficit (max (h.deficit - c) (-c)) } }

/-- The WATCH reports of a warp's unreported claimed hits, in ascending entry number (R310). -/
def State.watchReports (s : State) (id : Nat) (w : Warp) (ord : Nat) : State :=
  (List.range 4).foldl (fun acc k =>
    match listGet none w.watchHits k, listGet none (s.core w.core).watchpoints k with
    | some h, some e =>
      if e.trap then acc
      else acc.report w.ctx (some id) (w.reportBytes 3 k ord h.threads h.first 0 s.time (s.objOf w))
    | _, _ => acc) s

/-- The reports that the end of a warp makes: its unreported claimed hits, and EXIT where it is being stepped (R308, R310). -/
def State.endReports (s : State) (id : Nat) (w : Warp) : State :=
  let s1 := s.watchReports id w 0
  let s2 := if w.step.isSome then
      s1.report w.ctx (some id) (w.reportBytes 6 0xFF 0 w.mask 0 0 s.time (s.objOf w)) else s1
  s2.updWarp id fun x => { x with watchHits := [none, none, none, none], step := none }

/-- Nothing of the warp is still on its way: loads, stores, matrix operations, engine operations (R105, R209). -/
def State.drained (s : State) (id : Nat) (w : Warp) : Bool :=
  w.loads.isEmpty && w.stores.isEmpty && w.inFlight == 0
    && (s.core w.core).matrixQueue.all fun o => o.warp != id || o.state == .finished

/-- Trace records of the warp still wait to be written. -/
def Warp.tracing (w : Warp) : Bool :=
  match w.trace with
  | some tr => !tr.waiting.isEmpty
  | none => false

/-- What the end of a pass gives back to its cores, its cluster and its context, and what its queue is charged (R105, R166, R346). -/
def State.leaveCore (s : State) (id : Nat) (w : Warp) (c : Caravan) : State :=
  let mine := ((s.core w.core).matrixQueue.filter fun o => o.warp == id).map fun o => o.id
  let drop (k : Core) : Core :=
    { k with matrixQueue := k.matrixQueue.filter fun o => o.warp != id, unsettled := k.unsettled.filter fun u => u.warp != id }
  let s1 := s.updCore w.core fun k =>
    { drop k with free := k.free + (if w.spilledRegs then 0 else w.quota), claims := k.claims.filter fun x => x.kind ≠ .restore id }
  let s2 := s1.updCore (if w.core % 2 = 0 then w.core + 1 else w.core - 1) drop
  let s3 := s2.updCluster (clusterOf w.core) fun k => { k with locks := k.locks.filter fun l => !mine.contains l.owner }
  (s3.returnFrame w).chargeQueue c.queue (s.cycleOf w.core - w.bornCycle).toNat c.record.pair

/-- Counts a terminated pass in its launch. -/
def State.countTerminated (s : State) (launch : Nat) : State :=
  match Tbl.find s.launches launch with
  | some l => { s with launches := Tbl.put s.launches launch { l with terminated := l.terminated + 1 } }
  | none => s

/-- Steps 4 and 5 of R166, which a retirement makes too (R189, R252): the pass relays what it has not written and leaves its parties, once,
whatever its status slot then waits for. -/
def State.depart (s : State) (id : Nat) (w : Warp) : State :=
  if w.departed then s
  else ((s.updCaravan w.caravan fun c => c.relayAll w.pass).leaveParties w).updWarp id fun x => { x with departed := true }

/-- Ends a pass: its reports, which are posted first (R312), its tracks, its parties, its status slot, its quota, its frame and its
records; the successors' claims are made (R105, R166 steps 4 to 7, R178, R181, R252, R310). A traced warp's records are written
first, and a departure from a party waits for its turn in the cycle (R252). -/
def State.endPass (s : State) (id : Nat) (w0 : Warp) (cause : BitVec 8) (how : Ending) (word1 : Nat) : State :=
  let s0 := (s.endReports id w0).flushTrace id (match w0.trace with | some tr => tr.waiting.length | none => 0)
  match s0.warp? id with
  | none => s0
  | some w =>
    if w.tracing || s0.posting id || !(w.departed || (List.range 4).all (s0.partyTurn w)) then s0
    else match s0.caravan? w.caravan with
    | none => { s0 with warps := Tbl.erase s0.warps id }
    | some c =>
      let word0 := exitWord0 cause how.inHandler how.noHandler how.fatalTret w.lastOrd
      let after (c : Caravan) : Caravan :=
        { c with ended := c.ended ++ [w.pass], terminated := if cause = 0 then c.terminated else c.terminated ++ [w.pass] }
      match (s0.depart id w).writeStatus id w (after c) word0 word1 with
      | (s1, false) => s1
      | (s1, true) =>
        let s2 := s1.updCaravan w.caravan fun x => (after x).settle w.wmax.toNat
        let s3 := s2.leaveCore id w c
        let s4 := if cause = 0 then s3 else s3.countTerminated c.launch
        State.makeClaims { s4 with warps := Tbl.erase s4.warps id } w.core

/-- A warp at its end emits no further record (R318). -/
def Warp.traceEnded (w : Warp) : Warp :=
  match w.trace with
  | some tr => { w with trace := some { tr with started := false } }
  | none => w

/-- RETIRE_COMPLETE: a warp whose last threads exited is gone once everything it began is done (R105). -/
def execRetireComplete (w : Nat) (s : State) : Host.Outcome State Fault Refusal :=
  match s.warp? w with
  | none => .next s
  | some x =>
    match x.phase with
    | .retiring header => .next (if s.drained w x then s.endPass w x 0 ⟨0, false, false, false⟩ header else s)
    | _ => .next s

/-- TERMINATE_COMPLETE: a terminated warp is gone once its outstanding work is done (R166). A termination by the driver
has CAUSE 0xFF, and its second word names the run in issue or next (R167). -/
def execTerminateComplete (w : Nat) (s : State) : Host.Outcome State Fault Refusal :=
  match s.warp? w with
  | none => .next s
  | some x =>
    match x.phase with
    | .terminating how =>
      if s.drained w x then
        let word1 := if how.cause = 0xFF then (match x.run with | some r => r.header | none => x.next) else x.trun.toNat
        let word0 := exitWord0 how.cause how.inHandler how.noHandler how.fatalTret x.lastOrd
        let y := (x.traceAdd s.time 5 (natBytes 4 word1 ++ natBytes 4 2 ++ natBytes 4 word0)).traceEnded
        .next ((s.setWarp w y).endPass w y how.cause how word1)
      else .next s
    | _ => .next s

/-! ### The completion of a caravan (R178, R310, R345, R349) -/

/-- Adds to a launch's spawn-tree counter. -/
def State.countLaunch (s : State) (launch : Nat) (n : Int) : State :=
  match Tbl.find s.launches launch with
  | some l => { s with launches := Tbl.put s.launches launch { l with counter := l.counter + n } }
  | none => s

/-- A finished caravan is told to the warp that spawned it, and may finish the caravan of that warp in turn. -/
def State.finishCaravan (s : State) (id fuel : Nat) : State :=
  match fuel with
  | 0 => s
  | k + 1 =>
    match s.caravan? id with
    | none => s
    | some c =>
      if c.done && c.openChildren == 0 && !c.finished then
        let s1 := { s with caravans := Tbl.erase s.caravans id }
        let s2 := match c.parent with
          | none => s1
          | some (w, rec) =>
            let s' := s1.updWarp w fun x =>
              { x with children := x.children - 1, recChildren := if rec.isSome then x.recChildren - 1 else x.recChildren }
            match rec with
            | some tag => s'.queueRecord w ⟨tag, 17, 0, 0⟩
            | none => s'
        match c.parentCaravan with
        | none => s2
        | some p => (s2.updCaravan p fun x => { x with openChildren := x.openChildren - 1 }).finishCaravan p k
      else s

/-- The context has a caravan on a cluster, or among what is saved under a number (R258). -/
def State.residentOn (s : State) (ctx cluster : Nat) : Bool :=
  s.caravans.any fun p => p.2.ctx == ctx && !p.2.done &&
    (match p.2.core with | some k => clusterOf k == cluster | none => false)

/-- The registers, parties, coupling and watchpoints of a caravan go back to its core and cluster. -/
def State.releaseCaravan (s : State) (id : Nat) (c : Caravan) : State :=
  match c.core with
  | none => s
  | some core =>
    let keep (p : Option Watchpoint) : Option Watchpoint := p.filter fun e => e.caravan != id
    let s1 := s.updCore core fun k =>
      { k with free := k.free + 16 * c.record.tracks, watchpoints := k.watchpoints.map keep }
    s1.updCluster (clusterOf core) fun k =>
      { k with parties := k.parties.filter fun p => p.2.caravan ≠ id,
               coupling := if k.coupling = some id then none else k.coupling }

/-- A context with no caravan left on a cluster is no longer resident there. -/
def State.leaveCluster (s : State) (ctx cluster : Nat) : State :=
  if s.residentOn ctx cluster then s
  else s.updCluster cluster fun k =>
    { k with requests := Tbl.erase k.requests ctx, asked := Tbl.erase k.asked ctx, power := { k.power with levels := Tbl.erase k.power.levels ctx } }

/-- A `cpy` from the peer core into the caravan's allotment is still in flight (R223). -/
def State.copiedInto (s : State) (id : Nat) (core : Nat) : Bool :=
  (s.core (if core % 2 = 0 then core + 1 else core - 1)).copyQueue.any fun o =>
    match o.kind with
    | .cpy 3 _ _ _ dest => dest == id && o.state != .finished
    | _ => false

/-- CARAVAN_COMPLETE: every pass has ended, every relay is filled and every status slot written; DONE is written last, a release
at package scope, once the writes before it are complete, and the front end is told (R149, R178, R181, R345). While a `cpy` from the peer
core into the allotment is in flight R223 has the release of the allotment wait; the model holds DONE and the front end's notice back with
it (DESIGN CHOICE, assumption log 54). -/
def execCaravanComplete (caravan : Nat) (s : State) : Host.Outcome State Fault Refusal :=
  match s.caravan? caravan with
  | none => .next s
  | some c =>
    let relays := c.tracks.any fun t => t.any fun x => x.relayPending
    if c.done || c.ended.length < c.passes || relays || s.copiedInto caravan (c.core.getD 0) || decide (s.time < c.settled) then .next s
    else
      let (s1, ok) := s.partWrite (.done caravan) (c.core.getD 0) c.ctx (c.record.statAddr + 24) (natBytes 4 1)
      if !ok then .next s1
      else
        let s2 := (s1.releaseCaravan caravan c).setCaravan caravan { c with done := true, core := none }
        .next (((s2.leaveCluster c.ctx (clusterOf (c.core.getD 0))).countLaunch c.launch (-1)).finishCaravan caravan (s.caravans.length + 1))

/-! ### Claims (R173, R176) -/

/-- The oldest claim of a core. -/
def oldestClaim (l : List Claim) : Option Claim :=
  l.foldl (fun best c => match best with
    | none => some c
    | some b => if older c.ordinal b.ordinal then some c else some b) none

/-- The remainder of the run in issue from its instruction `k` on, which a stop may name (R65, R175, R251), or the run
behind it where it has no such instruction. What the run has read of a latch it has still read (R98). -/
def Warp.remainderFrom (w : Warp) (k : Nat) : Warp :=
  match w.run with
  | some r =>
    if k < r.len then { w.leaveRun r.header with resume := some k, remainder := true, readLow := w.readLow } else w.leaveRun r.behind
  | none => w

/-- Serves a claim that fits. -/
def State.serveClaim (s : State) (core : Nat) (c : Claim) : State :=
  let s1 := s.updCore core fun k => { k with free := k.free - c.size, claims := k.claims.filter fun x => x != c }
  match c.kind with
  | .grow w n => s1.updWarp w fun x => { x with quota := n, phase := .fetch }
  | .launch id pass => s1.launchPass id pass c.ordinal
  | .restore w =>
    match s1.warp? w with
    | none => s1
    | some x =>
      let s2 := s1.setWarp w { x with vregs := unspill s1.mem x, spilledRegs := false }
      match x.phase with
      | .waiting (.vgrow n) => s2.updCore core fun k =>
          { k with claims := k.claims ++ [⟨x.ordinal, n - x.quota, .grow w n⟩] }
      | _ => s2

/-- The core may hold some more warps: it has at most 256 (R50). -/
def State.warpRoom (s : State) (core n : Nat) : Bool := decide ((s.warps.filter fun p => p.2.core == core).length + n ≤ 256)

/-- A claim can be served: it fits in the free store whole, and a launch finds a free frame and fewer than 256 warps on the core (R50,
R173, R356). -/
def State.claimFits (s : State) (core : Nat) (c : Claim) : Bool :=
  decide (c.size ≤ (s.core core).free) &&
    match c.kind with
    | .launch id _ => match s.caravan? id with
      | some x => (s.freeFrame x.ctx).isSome && s.warpRoom core 1
      | none => true
    | _ => true

/-- The warp waits in a blocked `vgrow`. -/
def Warp.blockedQuota (w : Warp) : Option Nat :=
  match w.phase with
  | .waiting (.vgrow n) => some n
  | _ => none

/-- Spills a warp: its registers go to its vector area, a home write (R153, R176, R331). The restore claim of a warp that waits in
`join` is made when no child is open any more (R350). -/
def State.spill (s : State) (id : Nat) : State :=
  match s.warp? id with
  | none => s
  | some w =>
    let w1 := { w with vregs := [], spilledRegs := true }
    let other (c : Claim) : Bool := match c.kind with
      | .grow x _ => x != id
      | _ => true
    let s1 := ((s.homeWrite w.frame (spillBytes w)).updWarp id fun x => { x with vregs := [], spilledRegs := true }).updCore w.core
      fun k => { k with free := k.free + w.quota, claims := k.claims.filter other }
    if w.phase = .waiting .join then s1 else s1.claimRestore id w1

/-- Sorts warps youngest first. -/
def youngestFirst (l : List (Nat × Warp)) : List (Nat × Warp) :=
  l.foldl (fun acc p =>
    (acc.takeWhile fun q => older p.2.ordinal q.2.ordinal) ++ p :: (acc.dropWhile fun q => older p.2.ordinal q.2.ordinal)) []

/-- Spills warps in order until a number of registers is free. A warp whose loads are on their way is waited for (R49). -/
def State.spillUntil (s : State) (core need : Nat) (order : List (Nat × Warp)) : State :=
  match order with
  | [] => s
  | (id, w) :: rest =>
    if need ≤ (s.core core).free ∨ w.loads ≠ [] then s else (s.spill id).spillUntil core need rest

/-- The warps of a core that wait in `join` with their registers on the core, the youngest first. -/
def State.joinWaiters (s : State) (core : Nat) : List (Nat × Warp) :=
  youngestFirst ((s.residents core).filter fun p => p.2.phase == .waiting .join && !p.2.spilledRegs)

/-- CLAIM_SERVE: the oldest claim of a core is served if it fits; while it does not, no younger one is (R173). A claim that cannot
otherwise be served is, where the spill of warps that wait in `join` makes room (R350; assumption log 20). -/
def execClaimServe (core : Nat) (s : State) : Host.Outcome State Fault Refusal :=
  match oldestClaim (s.core core).claims with
  | none => .next s
  | some c =>
    if 576 ≤ core then .next s
    else if s.claimFits core c then .next (s.serveClaim core c)
    else
      let s1 := s.spillUntil core c.size (s.joinWaiters core)
      .next (if s1.claimFits core c then s1.serveClaim core c else s)

/-- The resident warps of a core that are blocked in `vgrow`, spilled ones among them. -/
def State.blockedOn (s : State) (core : Nat) : List (Nat × Warp) := (s.residents core).filter fun p => p.2.blockedQuota.isSome

/-- The arbiter acts: every resident warp that has not retired is blocked, or one is and nothing has issued for 4,096
cycles (R176). A warp on its way out has not retired until its pass has ended. -/
def State.arbiterActs (s : State) (core : Nat) : Bool :=
  let blocked := s.blockedOn core
  !blocked.isEmpty && (blocked.length == (s.residents core).length || decide (4096 ≤ s.cycleOf core - (s.core core).lastIssue))

/-- The claim that a blocked warp has: that of its `vgrow`, or that of its restore while it is spilled (R176). -/
def Warp.blockedClaim (w : Warp) (id : Nat) : Claim :=
  let n := w.blockedQuota.getD w.quota
  if w.spilledRegs then ⟨w.ordinal, w.quota, .restore id⟩ else ⟨w.ordinal, n - w.quota, .grow id n⟩

/-- QUOTA_ARBITER (R176): the claim of the oldest blocked warp is granted, once the spill of others has made room for it. -/
def execQuotaArbiter (core : Nat) (s : State) : Host.Outcome State Fault Refusal :=
  if 576 ≤ core ∨ s.arbiterActs core = false then .next s
  else
    let blocked := youngestFirst (s.blockedOn core)
    match blocked.getLast? with
    | none => .next s
    | some (a, w) =>
      let c := w.blockedClaim a
      let order := (blocked.filter fun p => p.1 != a && !p.2.spilledRegs)
        ++ (youngestFirst (s.residents core)).filter fun p => !p.2.spilledRegs && p.2.blockedQuota.isNone
      let s1 := s.spillUntil core c.size order
      .next (if c.size ≤ (s1.core core).free then s1.serveClaim core c else s1)

/-! ### vgrow and vshrk (R174, R175) -/

/-- `vgrow`: granted at issue when its claim would be the oldest and fits; otherwise the warp, once its loads are done, is blocked
and leaves its slot and its active position (R175). -/
def execVgrow (count : BitVec 12) (s : State) : Host.Outcome State Fault Refusal :=
  checked (.s 0x35 0 0 1 count) s fun w =>
    let n := count.toNat
    if n ≤ w.quota then s.finish w
    else
      let k := s.core w.core
      let c : Claim := ⟨w.ordinal, n - w.quota, .grow s.cur n⟩
      if (k.claims.all fun x => older w.ordinal x.ordinal) && decide (n - w.quota ≤ k.free) then
        (s.updCore w.core fun x => { x with free := x.free - (n - w.quota) }).finish { w with quota := n }
      else if w.loads ≠ [] then s
      else (s.updCore w.core fun x => { x with claims := x.claims ++ [c] }).setWarp s.cur
        { w.remainderFrom w.idx with phase := .waiting (.vgrow n), active := false }

/-- A load in flight will write a vector register at or above n. -/
def PendingLoad.above (l : PendingLoad) (n : Nat) : Bool :=
  l.codes.any fun c => match codeOf c with
    | .v k => decide (n ≤ k)
    | _ => false

/-- `vshrk`; a load on its way to a register that is lost comes first (R49). -/
def execVshrk (count : BitVec 12) (s : State) : Host.Outcome State Fault Refusal :=
  checked (.s 0x36 0 0 1 count) s fun w =>
    let n := count.toNat
    if w.quota ≤ n then s.finish w
    else if w.loads.any fun l => l.above n then s
    else (s.updCore w.core fun x => { x with free := x.free + (w.quota - n) }).finish
      { w with quota := n, vregs := w.vregs.take n }

/-! ### Placement (R298, R299) -/

/-- Caravans placed on a core. -/
def State.caravansOn (s : State) (core : Nat) : List (Nat × Caravan) :=
  s.caravans.filter fun p => p.2.core == some core

/-- Free party entries of a cluster. -/
def State.freeParties (s : State) (cluster : Nat) : List Nat :=
  (List.range 256).filter fun n => (Tbl.find (s.cluster cluster).parties n).isNone

/-- Registers a placement takes: the handoff file and the first quota, or every pass's quota with parties. -/
def Caravan.need (c : Caravan) : Nat :=
  16 * c.record.tracks + 8 * c.record.quota * (if c.record.parties = 0 then 1 else c.record.trip)

/-- Warp frames a placement takes at once. -/
def Caravan.frameNeed (c : Caravan) : Nat := if c.record.parties = 0 then 1 else c.record.trip

/-- A cluster holds no caravan. -/
def State.clusterEmpty (s : State) (cluster : Nat) : Bool :=
  (s.caravansOn (2 * cluster)).isEmpty && (s.caravansOn (2 * cluster + 1)).isEmpty

/-- A core fits a caravan (R298). While the attention engine holds both arrays it holds the pair coupling (R246, R284). -/
def State.fits (s : State) (c : Caravan) (core : Nat) : Bool :=
  let k := s.core core
  let cl := s.cluster (clusterOf core)
  let here := s.caravansOn core
  let scratch := here.foldl (fun acc p => acc + p.2.record.scratch) 0
  k.claims.isEmpty && decide (c.need ≤ k.free) && decide (here.length < 256) && s.warpRoom core c.frameNeed
    && decide (scratch + c.record.scratch ≤ 393216) && here.all (fun p => p.2.ctx == c.ctx)
    && (c.record.parties == 0 || decide (c.record.parties ≤ (s.freeParties (clusterOf core)).length))
    && (!c.record.pair || (core % 2 == 0 && cl.coupling.isNone && !cl.holding))
    && (s.clusterEmpty (clusterOf core) || cl.fused == c.record.fuseL1)

/-- The context's budgets allow the placement on a core of the die (R299). -/
def State.budgetAllows (s : State) (c : Caravan) (die core : Nat) : Bool :=
  match Tbl.find s.contexts c.ctx with
  | none => false
  | some x => decide (0 ≤ Tbl.findD (s.die die).balance c.ctx 0)
      && (x.headroom || s.residentOn c.ctx (clusterOf core))

/-- Cores of a die that belong to a partition. -/
def State.coresOf (s : State) (partition die : Nat) : List Nat :=
  (Tbl.findD s.partitions partition Partition.initial).clusters.flatMap fun k =>
    if clusterDie k = die then [2 * k, 2 * k + 1] else []

/-- Among fitting cores, the one with the most free registers; the lowest number breaks a tie. -/
def State.pickCore (s : State) (c : Caravan) (partition die : Nat) : Option Nat :=
  (s.coresOf partition die).foldl (fun best k =>
    if s.fits c k then
      match best with
      | none => some k
      | some b =>
        if (s.core b).free < (s.core k).free ∨ ((s.core b).free = (s.core k).free ∧ k < b) then some k else some b
    else best) none

/-- Launches passes 0 to n - 1 at placement, each with the core's next ordinal. -/
def State.launchFirst (s : State) (id core n : Nat) : State :=
  (List.range n).foldl (fun acc j =>
    (acc.launchPass id j (acc.core core).nextOrdinal).updCore core fun k =>
      { k with nextOrdinal := k.nextOrdinal + 1 }) s

/-- What a placement takes of the core and the cluster: registers, L1 mode, coupling, party entries; and what a context
new to them begins with (R225, R239, R246, R248, R255, R258). -/
def State.settleOn (s : State) (id : Nat) (c : Caravan) (core regs : Nat) (phase : Nat → Option Party) : State :=
  let cluster := clusterOf core
  let empty := s.clusterEmpty cluster
  let newOnCluster := !s.residentOn c.ctx cluster
  let newOnCore := (s.caravansOn core).isEmpty
  let entries := (s.freeParties cluster).take c.record.parties
  let changed := empty && (s.cluster cluster).fused != c.record.fuseL1
  let s1 := s.updCore core fun k =>
    { k with free := k.free - regs, tables := if newOnCore then [] else k.tables }
  let s2 := if changed then
      (s1.updCore (2 * cluster) fun k => { k with l1 := [] }).updCore (2 * cluster + 1) fun k => { k with l1 := [] }
    else s1
  let blank (i : Nat) : Party :=
    { caravan := id, slot := i, members := BitVec.ofNat 8 c.record.trip, arrived := 0, phase := 0, last := none }
  let enter (t : Tbl Party) (i : Nat) : Tbl Party := Tbl.put t (listGet 0 entries i) ((phase i).getD (blank i))
  let s3 := s2.updCluster cluster fun k =>
    { k with fused := if empty then c.record.fuseL1 else k.fused,
             coupling := if c.record.pair then some id else k.coupling,
             parties := (List.range entries.length).foldl enter k.parties,
             requests := if newOnCluster && (Tbl.find k.requests c.ctx).isNone then Tbl.put k.requests c.ctx 2 else k.requests,
             power := if newOnCluster then { k.power with levels := Tbl.put k.power.levels c.ctx 0 } else k.power }
  s3.setCaravan id { c with core := some core, stage := .placed, partyBase := entries }

/-- A caravan is the seed of its launch (R345). -/
def Caravan.seed (c : Caravan) : Bool := c.parent.isNone && c.taskWords.isEmpty

/-- A seed is not placed while the seed of an earlier launch of its queue is not (R344, R346). -/
def State.seedWaits (s : State) (c : Caravan) : Bool :=
  c.seed && c.queue.isSome && s.caravans.any fun p =>
    p.2.seed && p.2.queue == c.queue && decide (p.2.launch < c.launch) && match p.2.stage with
      | .pool => true
      | .die _ => true
      | _ => false

/-- PLACEMENT: the caravan at a place of a die's waiting list is placed whole, if it fits, its context's budgets allow
it, no earlier caravan of its context waits there, no earlier seed of its queue waits anywhere, and its partition's line is low
(R298, R299, R300, R346). -/
def execPlacement (die place : Nat) (s : State) : Host.Outcome State Fault Refusal :=
  let waiting := (s.die die).waiting
  match waiting[place]? with
  | none => .next s
  | some id =>
    match s.caravan? id with
    | none => .next (s.updDie die fun d => { d with waiting := d.waiting.filter fun x => x != id })
    | some c =>
      let earlier := (waiting.take place).any fun x => match s.caravan? x with
        | some y => y.ctx == c.ctx
        | none => false
      match Tbl.find s.contexts c.ctx with
      | none => .next s
      | some ctx =>
        let partition := Tbl.findD s.partitions ctx.partition Partition.initial
        match s.pickCore c ctx.partition die with
        | none => .next s
        | some core =>
          if earlier || s.seedWaits c || partition.halt.isSome || !s.budgetAllows c die core
              || decide (ctx.nframes < ctx.frames.length + ctx.stopFrames.length + c.frameNeed) || c.stage != .die die then .next s
          else
            let s1 := s.updDie die fun d => { d with waiting := d.waiting.filter fun x => x != id }
            let s2 := s1.settleOn id c core c.need (fun _ => none)
            .next ((s2.launchFirst id core c.frameNeed).makeClaims core)

end Sys2Proof.Machine
end

