-- ==== Sys2Proof/Machine/MemoryInstr.lean ====
section
/-! DEFINITION. The memory instructions: `ld`, `st`, `lds`, `sts`, the atomics, `mon`, `waitm`, `pref` and `fence`
(R138 to R157), and the events that complete them. -/

namespace Sys2Proof.Machine

/-! ### Loads (R147, R150, R153) -/

/-- An earlier `mon` still on its way arms nothing once a later one has replaced the watch set (R153). -/
def PendingLoad.superseded (l : PendingLoad) : PendingLoad := { l with monitor := false }

/-- Sends a load: its accesses pass the checks of R142 together, and their data arrives later. A load into hK.0 is the
pass's write of the track at its issue, with PRESENT still clear (R187). -/
def State.sendLoad (s : State) (w : Warp) (f : MForm) (take : BitVec 96) (addrs : List ThreadAddr) (monitor : Bool) :
    State :=
  let load : PendingLoad :=
    { id := s.nextId, vd := f.vd, sz := f.sz, path := f.path,
      fresh := monitor || qualFresh f.qual || qualAcq f.qual, stream := qualStream f.qual,
      acquire := qualAcq f.qual, horizon := qualAcq f.qual && scopeOf f.qual != 0, monitor := monitor,
      lines := (addrs.map fun a => a.pa / 128).eraseDups, waiting := addrs, got := [] }
  let earlier := if monitor then w.loads.map PendingLoad.superseded else w.loads
  let w1 := { w with loads := earlier ++ [load], watches := if monitor then [] else w.watches }
  let s1 := State.finish { s with nextId := s.nextId + 1 } w1
  match codeOf f.vd with
  | .h k _ => s1.updCaravan w.caravan fun c => c.writeTrack k w.pass take (fun _ => 0) false
  | _ => s1

/-- The frame of `ld` and `mon`. A load in which no thread takes part only relays through hK.0 (R57, R187). -/
def loadMemory (r : Raw) (f : MForm) (monitor : Bool) (s : State) : Host.Outcome State Fault Refusal :=
  checked r s fun w =>
    if isNever f.pred f.pneg then s.finish w
    else
      let take := s.takes w f.pred f.pneg
      if take = 0 then (s.writeVector s.cur f.vd 0 fun _ => 0).finishCur
      else if !w.mayLoad then s
      else match s.checkMemory w (threadsOf take) (s.memAddr w f.sbase f.vidx (f.off.signExtend 64)) (szBytes f.sz) false with
        | .error d => s.deny w d
        | .ok addrs => s.sendLoad w f take addrs monitor

def execLd (f : MForm) (s : State) : Host.Outcome State Fault Refusal := loadMemory (.m 0x51 f 0) f false s

def execMon (f : MForm) (s : State) : Host.Outcome State Fault Refusal := loadMemory (.m 0x57 f 0) f true s

/-- Serves the first of a load's accesses; an earlier load of the warp to the line goes first (R339). -/
def State.serveLoad (s : State) (id load : Nat) : State :=
  match s.warp? id with
  | none => s
  | some w =>
    match w.loads.find? fun l => l.id == load with
    | none => s
    | some l =>
      match l.waiting with
      | [] => s
      | a :: rest =>
        let earlier := w.loads.any fun x => decide (x.id < l.id) && x.waiting.any fun b => b.pa / 128 == a.pa / 128
        if earlier || !s.servable w l a then s
        else
          let (s1, v) := s.serveOne id w l a
          (s1.tagServed (clusterOf w.core) load (s.levelOf id w l a) (s.inLpddr w.core w.ctx a.va)).updWarp id fun w' =>
            { w' with loads := w'.loads.map fun x =>
                if x.id = load then { x with waiting := rest, got := x.got ++ [(a.thread, v)] } else x }

/-- Serves up to `n` accesses in ascending thread order. -/
def State.serveLoads (s : State) (id load n : Nat) : State :=
  match n with
  | 0 => s
  | k + 1 => (s.serveLoad id load).serveLoads id load k

/-- LOAD_RETURN: up to `count` accesses of a load are served at the home or by a copy, and when none is left the data is
written to the destination (R147). -/
def execLoadReturn (w load count : Nat) (s : State) : Host.Outcome State Fault Refusal :=
  let s1 := s.serveLoads w load count
  match s1.warp? w with
  | none => .next s1
  | some x =>
    match x.loads.find? fun l => l.id == load with
    | none => .next s1
    | some l => .next (if l.waiting.isEmpty then s1.completeLoad w l else s1)

/-! ### Stores (R148) -/

/-- `st`: every thread's bytes are sent to the home of their line, after a release where the store has one. -/
def execSt (f : MForm) (s : State) : Host.Outcome State Fault Refusal :=
  checked (.m 0x52 f 0) s fun w =>
    let take := s.takes w f.pred f.pneg
    let n := szBytes f.sz
    if take = 0 then s.finish w
    else if !w.mayStore then s
    else match s.checkMemory w (threadsOf take) (s.memAddr w f.sbase f.vidx (f.off.signExtend 64)) n true with
      | .error d => s.deny w d
      | .ok addrs =>
        if qualRel f.qual && !s.released w s.cur (scopeOf f.qual) then s
        else (addrs.foldl (fun acc a => acc.sendStore s.cur a.pa (natBytes n (s.storedValue w f.vd n a.thread))) s).finishCur

/-- STORE_ARRIVAL: a store reaches its home, is applied, fires the watches of its line, and takes a completion time
(R148, R153). A store waits for the warp's earlier stores to the same bytes. -/
def execStoreArrival (w store : Nat) (s : State) : Host.Outcome State Fault Refusal :=
  match s.warp? w with
  | none => .next s
  | some x =>
    match x.stores.find? fun y => y.id == store with
    | none => .next s
    | some y =>
      if y.done.isSome || x.storeBehind y then .next s
      else
        let done := s.completionOf y.pa y.bytes.length
        let l := linesOf y.pa y.bytes.length
        let s1 := l.foldl (fun acc k => acc.staleFor x.core k w) (s.homeWrite y.pa y.bytes)
        .next ((s1.moveLines x.core x.ctx l.length true).updWarp w fun x' =>
          { x' with stores := x'.stores.map fun z => if z.id = store then { z with done := some done } else z })

/-- STORE_ACK: the acknowledgement reaches the warp, and WMAX rises to the completion time (R148). -/
def execStoreAck (w store : Nat) (s : State) : Host.Outcome State Fault Refusal :=
  match s.warp? w with
  | none => .next s
  | some x =>
    match x.stores.find? fun y => y.id == store with
    | none => .next s
    | some y =>
      match y.done with
      | none => .next s
      | some c =>
        .next (s.setWarp w { x with stores := x.stores.filter fun z => z.id ≠ store,
                                    wmax := BitVec.ofNat 64 (max x.wmax.toNat c) })

/-! ### Scratchpad (R151) -/

/-- `lds`: performed at issue. -/
def execLds (f : MForm) (s : State) : Host.Outcome State Fault Refusal :=
  checked (.m 0x53 f 0) s fun w =>
    if isNever f.pred f.pneg then s.finish w
    else
      let take := s.takes w f.pred f.pneg
      let ts := threadsOf take
      let n := szBytes f.sz
      let addr := s.scratchAddr w f.sbase f.vidx (f.off.signExtend 32)
      if take = 0 then (s.writeVector s.cur f.vd 0 fun _ => 0).finishCur
      else if !w.mayLoad then s
      else match s.checkScratch w ts addr n false with
        | .error d => s.deny w d
        | .ok _ =>
          let mem := match s.caravan? w.caravan with
            | some c => c.scratch
            | none => []
          let w1 := (s.recordHits w ts addr n true)
          let w2 := if qualAcq f.qual then w1.acquire (scopeOf f.qual) s.time else w1
          let got := ts.map fun t => (t, Memory.readNat mem (addr t) n)
          ((s.setWarp s.cur w2).writeLoaded s.cur f.vd f.sz got).finishCur

/-- `sts`: performed at issue, after a release where it has one. -/
def execSts (f : MForm) (s : State) : Host.Outcome State Fault Refusal :=
  checked (.m 0x54 f 0) s fun w =>
    let take := s.takes w f.pred f.pneg
    let ts := threadsOf take
    let n := szBytes f.sz
    let addr := s.scratchAddr w f.sbase f.vidx (f.off.signExtend 32)
    if take = 0 then s.finish w
    else if !w.mayStore then s
    else match s.checkScratch w ts addr n true with
      | .error d => s.deny w d
      | .ok _ =>
        if qualRel f.qual && !s.released w s.cur (scopeOf f.qual) then s
        else
          let put (m : Memory) (t : Nat) : Memory :=
            Memory.writeBytes m (addr t) (natBytes n (s.storedValue w f.vd n t))
          ((s.updCaravan w.caravan fun c => { c with scratch := ts.foldl put c.scratch }).setWarp
            s.cur (s.recordHits w ts addr n false)).finishCur

/-! ### Atomics (R152) -/

/-- OP(old, x) by AOP on values of `bits` bits; `swap` is the swap value of `cas`. -/
def atomicOp (aop bits old x swap : Nat) : Nat :=
  let m := 2 ^ bits
  let lt (a b : Nat) : Bool := decide (elemInt bits true a < elemInt bits true b)
  match aop with
  | 0 => (old + x) % m
  | 1 => (old + (m - x % m)) % m
  | 2 => if lt x old then x else old
  | 3 => if lt old x then x else old
  | 4 => min old x
  | 5 => max old x
  | 6 => old &&& x
  | 7 => old ||| x
  | 8 => Nat.xor old x
  | 9 => x
  | 10 => if old = x then swap else old
  | 11 => (Fmt.f32.result 0 0 ((Fmt.f32.decode old).add 0 (Fmt.f32.decode x)).1).1
  | _ => (Fmt.f32.result 0 0 ((Fmt.f32.decode old).minMax true (Fmt.f32.decode x)).1).1

/-- The operand of a thread, and for `cas` the swap value behind it. -/
def State.atomicOperands (s : State) (w : Warp) (aop : Nat) (f : AForm) (t : Nat) : Nat × Nat :=
  let n := szBytes f.sz
  (s.storedValue w f.vd n t,
    if aop = 10 then s.storedValue w (f.vd + BitVec.ofNat 8 (szRegs f.sz)) n t else 0)

/-- The threads' atomics on one memory, in ascending thread order: the memory after, and the old value of each (R146). -/
def atomicOver (m : Memory) (aop n : Nat) (operands : Nat → Nat × Nat) (accesses : List (Nat × Nat)) :
    Memory × List (Nat × Nat) :=
  match accesses with
  | [] => (m, [])
  | (t, a) :: rest =>
    let old := Memory.readNat m a n
    let new := atomicOp aop (8 * n) old (operands t).1 (operands t).2
    let (m', got) := atomicOver (Memory.writeNat m a n new) aop n operands rest
    (m', (t, old) :: got)

/-- The state after the atomics of a warp have been made at their homes, with their old values: each write is a home
write that fires watches, takes a completion time, raises WMAX and removes the L1 copy of its line (R148, R152, R224,
R339). -/
def State.atomicAtHome (s : State) (w : Warp) (aop n : Nat) (operands : Nat → Nat × Nat) (addrs : List ThreadAddr) :
    State × List (Nat × Nat) :=
  addrs.foldl (fun (p : State × List (Nat × Nat)) a =>
    let old := Memory.readNat p.1.mem a.pa n
    let new := atomicOp aop (8 * n) old (operands a.thread).1 (operands a.thread).2
    let done := p.1.completionOf a.pa n
    let s0 := (p.1.homeWrite a.pa (natBytes n new)).moveLines w.core w.ctx 1 true
    let s1 := (s0.dropL1 w.core (a.pa / 128)).updWarp s.cur fun x =>
      { x with wmax := BitVec.ofNat 64 (max x.wmax.toNat done) }
    (s1, p.2 ++ [(a.thread, old)])) (s, [])

/-- The frame of `atom`. -/
def atomMemory (aop : BitVec 4) (f : AForm) (s : State) : Host.Outcome State Fault Refusal :=
  checked (.a 0x55 aop f 0) s fun w =>
    if isNever f.pred f.pneg then s.finish w
    else
      let take := s.takes w f.pred f.pneg
      let n := szBytes f.sz
      if take = 0 then (s.writeVector s.cur f.vd 0 fun _ => 0).finishCur
      else if !w.mayStore then s
      else match s.checkMemory w (threadsOf take) (s.memAddr w f.sbase f.vidx (f.off.signExtend 64)) n true with
        | .error d => s.deny w d
        | .ok addrs =>
          if qualRel f.qual && !s.released w s.cur (scopeOf f.qual) then s
          else if addrs.any fun a => w.storing (a.pa / 128) then s
          else
            let (s1, got) := s.atomicAtHome w aop.toNat n (s.atomicOperands w aop.toNat f) addrs
            let s2 := s1.writeLoaded s.cur f.vd f.sz got
            (s2.updWarp s.cur fun x => if qualAcq f.qual then x.acquire (scopeOf f.qual) s.time else x).finishCur

/-- The frame of `atoms`. -/
def atomScratch (aop : BitVec 4) (f : AForm) (s : State) : Host.Outcome State Fault Refusal :=
  checked (.a 0x56 aop f 0) s fun w =>
    if isNever f.pred f.pneg then s.finish w
    else
      let take := s.takes w f.pred f.pneg
      let ts := threadsOf take
      let n := szBytes f.sz
      let addr := s.scratchAddr w f.sbase f.vidx (f.off.signExtend 32)
      if take = 0 then (s.writeVector s.cur f.vd 0 fun _ => 0).finishCur
      else if !w.mayStore then s
      else match s.checkScratch w ts addr n true with
        | .error d => s.deny w d
        | .ok _ =>
          if qualRel f.qual && !s.released w s.cur (scopeOf f.qual) then s
          else
            let mem := match s.caravan? w.caravan with
              | some c => c.scratch
              | none => []
            let (mem', got) := atomicOver mem aop.toNat n (s.atomicOperands w aop.toNat f) (ts.map fun t => (t, addr t))
            let w1 := s.recordHits w ts addr n false
            let w2 := if qualAcq f.qual then w1.acquire (scopeOf f.qual) s.time else w1
            (((s.updCaravan w.caravan fun c => { c with scratch := mem' }).setWarp s.cur w2).writeLoaded
              s.cur f.vd f.sz got).finishCur

def execAtomAdd (f : AForm) (s : State) : Host.Outcome State Fault Refusal := atomMemory 0 f s

def execAtomSub (f : AForm) (s : State) : Host.Outcome State Fault Refusal := atomMemory 1 f s

def execAtomMin (f : AForm) (s : State) : Host.Outcome State Fault Refusal := atomMemory 2 f s

def execAtomMax (f : AForm) (s : State) : Host.Outcome State Fault Refusal := atomMemory 3 f s

def execAtomMinu (f : AForm) (s : State) : Host.Outcome State Fault Refusal := atomMemory 4 f s

def execAtomMaxu (f : AForm) (s : State) : Host.Outcome State Fault Refusal := atomMemory 5 f s

def execAtomAnd (f : AForm) (s : State) : Host.Outcome State Fault Refusal := atomMemory 6 f s

def execAtomOr (f : AForm) (s : State) : Host.Outcome State Fault Refusal := atomMemory 7 f s

def execAtomXor (f : AForm) (s : State) : Host.Outcome State Fault Refusal := atomMemory 8 f s

def execAtomXchg (f : AForm) (s : State) : Host.Outcome State Fault Refusal := atomMemory 9 f s

def execAtomCas (f : AForm) (s : State) : Host.Outcome State Fault Refusal := atomMemory 10 f s

def execAtomFaddF32 (f : AForm) (s : State) : Host.Outcome State Fault Refusal := atomMemory 11 f s

def execAtomFmaxF32 (f : AForm) (s : State) : Host.Outcome State Fault Refusal := atomMemory 12 f s

def execAtomsAdd (f : AForm) (s : State) : Host.Outcome State Fault Refusal := atomScratch 0 f s

def execAtomsSub (f : AForm) (s : State) : Host.Outcome State Fault Refusal := atomScratch 1 f s

def execAtomsMin (f : AForm) (s : State) : Host.Outcome State Fault Refusal := atomScratch 2 f s

def execAtomsMax (f : AForm) (s : State) : Host.Outcome State Fault Refusal := atomScratch 3 f s

def execAtomsMinu (f : AForm) (s : State) : Host.Outcome State Fault Refusal := atomScratch 4 f s

def execAtomsMaxu (f : AForm) (s : State) : Host.Outcome State Fault Refusal := atomScratch 5 f s

def execAtomsAnd (f : AForm) (s : State) : Host.Outcome State Fault Refusal := atomScratch 6 f s

def execAtomsOr (f : AForm) (s : State) : Host.Outcome State Fault Refusal := atomScratch 7 f s

def execAtomsXor (f : AForm) (s : State) : Host.Outcome State Fault Refusal := atomScratch 8 f s

def execAtomsXchg (f : AForm) (s : State) : Host.Outcome State Fault Refusal := atomScratch 9 f s

def execAtomsCas (f : AForm) (s : State) : Host.Outcome State Fault Refusal := atomScratch 10 f s

def execAtomsFaddF32 (f : AForm) (s : State) : Host.Outcome State Fault Refusal := atomScratch 11 f s

def execAtomsFmaxF32 (f : AForm) (s : State) : Host.Outcome State Fault Refusal := atomScratch 12 f s

/-! ### Watching a line (R154) -/

/-- The warp waits inside its instruction; one that ends its run leaves the active position (R171). -/
def Warp.waitIn (w : Warp) (what : Wait) : Warp :=
  { w with phase := .waiting what, active := w.active && !w.lastOfRun }

/-- A sleeping `waitm` returns: the watch set is empty and the run goes on. -/
def Warp.wake (w : Warp) : Warp := { w with watches := [] }.advance

/-- Some armed watch has fired. -/
def Warp.watchFired (w : Warp) : Bool := w.watches.any fun x => x.fired

/-- `waitm`: returns at once where a watch has fired, a halt line is up, or nothing is armed and no limit is given;
otherwise the warp sleeps. A `mon` still on its way is waited for (R49). -/
def execWaitm (sa : BitVec 6) (s : State) : Host.Outcome State Fault Refusal :=
  checked (.s 0x29 0 sa 0 0) s fun w =>
    let a := (w.sreg sa).toNat
    if w.loads.any fun l => l.monitor then s
    else if w.watchFired || s.halted w || (w.watches.isEmpty && a == 0) then s.setWarp s.cur w.wake
    else s.setWarp s.cur (w.waitIn (.waitm (if a = 0 then none else some (s.time + a))))

/-- WAITM_WAKE: a watch has fired or a halt line is up (R154). -/
def execWaitmWake (w : Nat) (s : State) : Host.Outcome State Fault Refusal :=
  match s.warp? w with
  | none => .next s
  | some x =>
    match x.phase with
    | .waiting (.waitm _) => .next (if x.watchFired || s.halted x then s.setWarp w x.wake else s)
    | _ => .next s

/-- WAITM_TIMEOUT: the limit is reached (R154). -/
def execWaitmTimeout (w : Nat) (s : State) : Host.Outcome State Fault Refusal :=
  match s.warp? w with
  | none => .next s
  | some x =>
    match x.phase with
    | .waiting (.waitm (some limit)) => .next (if limit ≤ s.time then s.setWarp w x.wake else s)
    | _ => .next s

/-! ### Prefetch (R155) -/

/-- The line a thread's prefetch reaches, or none where it is dropped; no fault is posted (R295). -/
def State.prefTarget (s : State) (w : Warp) (va t : Nat) : State × Option ThreadAddr :=
  if !inRange va then (s, none)
  else match s.peek w.core w.ctx va with
    | (s1, none) => (s1, none)
    | (s1, some x) =>
      match s1.peekRefused w.ctx x.leaf with
      | some u => (u, none)
      | none =>
        if lockConflict (s.cluster (clusterOf w.core)).locks (.memory w.ctx) va 1 false then (s1, none)
        else (s1, some ⟨t, va, leafPa x.leaf va⟩)

/-- The lines that the threads' prefetches reach, in ascending thread order. -/
def State.prefTargets (s : State) (w : Warp) (ts : List Nat) (addr : Nat → Nat) : State × List ThreadAddr :=
  match ts with
  | [] => (s, [])
  | t :: rest =>
    let (s1, x) := s.prefTarget w (addr t) t
    let (s2, l) := s1.prefTargets w rest addr
    (s2, x.toList ++ l)

/-- Brings one line toward the core on the path; with `.stream` it stops at the home slice. -/
def State.prefetch (s : State) (w : Warp) (f : MForm) (a : ThreadAddr) : State :=
  if qualStream f.qual then s.touchLine (a.pa / 128)
  else if f.path = 0 then (s.readLine s.cur w false (a.pa / 128)).1
  else if f.path = 1 then (s.readConst w false a).1
  else (s.readTile w false a).1

/-- `pref`: never traps; a prefetch of a line on which a store of the warp is on its way waits as a load would. -/
def execPref (f : MForm) (s : State) : Host.Outcome State Fault Refusal :=
  checked (.m 0x58 f 0) s fun w =>
    let (s1, targets) := s.prefTargets w (threadsOf (s.takes w f.pred f.pneg)) (s.memAddr w f.sbase f.vidx (f.off.signExtend 64))
    if targets.any fun a => w.storing (a.pa / 128) then s
    else (targets.foldl (fun acc a => acc.prefetch w f a) s1).finishCur

/-! ### Fences (R156, R157) -/

def execFenceRel (scope : BitVec 2) (s : State) : Host.Outcome State Fault Refusal :=
  checked (.s 0x30 0 0 1 ((0 : BitVec 10) ++ scope)) s fun w =>
    if s.released w s.cur scope.toNat then s.finish w else s

/-- `fence.acq`; an acquire still on its way comes first. -/
def execFenceAcq (scope : BitVec 2) (s : State) : Host.Outcome State Fault Refusal :=
  checked (.s 0x30 0 0 1 ((1 : BitVec 10) ++ scope)) s fun w =>
    if w.mayLoad then s.finish (w.acquire scope.toNat s.time) else s

def execFenceFull (scope : BitVec 2) (s : State) : Host.Outcome State Fault Refusal :=
  checked (.s 0x30 0 0 1 ((2 : BitVec 10) ++ scope)) s fun w =>
    if s.released w s.cur scope.toNat then s.finish (w.acquire scope.toNat s.time) else s

/-- Discards the constant and tile caches a path fence names. -/
def Core.discardPaths (c : Core) (paths : BitVec 3) : Core :=
  { c with constCache := if paths.getLsbD 1 then [] else c.constCache,
           tileCache := if paths.getLsbD 2 then [] else c.tileCache }

/-- `fence.path` (R157): a release, then the caches of the core, or of both cores of the cluster, are discarded, and
with bit 0 of the mask (`gen`) HORIZON takes the time. -/
def execFencePath (scope : BitVec 2) (paths : BitVec 3) (s : State) : Host.Outcome State Fault Refusal :=
  checked (.s 0x30 0 0 1 ((0 : BitVec 5) ++ paths ++ (3 : BitVec 2) ++ scope)) s fun w =>
    if s.released w s.cur scope.toNat then
      let cores := if scope = 0 then [w.core] else [2 * clusterOf w.core, 2 * clusterOf w.core + 1]
      let s1 := cores.foldl (fun acc k => acc.updCore k fun c => c.discardPaths paths) s
      s1.finish (if paths.getLsbD 0 then { w with horizon := BitVec.ofNat 64 s.time } else w)
    else s

end Sys2Proof.Machine
end

