-- ==== Sys2Proof/Machine/Issue.lean ====
section
/-! DEFINITION. How a warp comes to issue: the fetch of a run (R20, R23), what a run boundary takes (R113, R305), the
active positions (R171), the charge bucket (R254 to R257), the choice of a run (R169, R170), its issue (R59), the timer
(R112), and the stop of a warp (R65, R165, R358). -/

namespace Sys2Proof.Machine

/-! ### Stops (R65, R165) -/

/-- The warp stands where its next issue has not begun, which counts as a run boundary for a stop: a boundary, a point that R65
names, or the point at which a `tret` resumes a run in its middle (R165: before the resumed run; DEDUCED, assumption log 46). -/
def Warp.stopPoint (w : Warp) : Bool :=
  match w.phase with
  | .fetch | .boundary => true
  | _ => false

/-- The halt line is up for the warp, and its stop is not deferred. -/
def State.stopping (s : State) (w : Warp) : Bool := s.halted w && !s.defers w

/-- The warp must stop where it stands before it does anything else. -/
def State.mustStop (s : State) (w : Warp) : Bool := s.stopping w && w.stopPoint

/-! ### What a boundary takes (R113, R162, R305) -/

/-- The timer comparator is reached: the trap becomes due and the comparator is cleared (R112). -/
def Warp.timerReached (w : Warp) (now : Nat) : Warp :=
  if w.timer ≠ 0 ∧ w.timer.toNat ≤ now then { w with timer := 0, timerPending := true } else w

/-- TINFO of a watchpoint set as a trap: THREAD and DETAIL (R160). -/
def watchInfo (entry thread : Nat) : Word := BitVec.ofNat 32 (thread * 2 ^ 8 + entry * 2 ^ 16)

/-- The hits recorded for an entry, where the entry is set, or is not set, as a trap. -/
def State.hitsOf (s : State) (w : Warp) (trap : Bool) (k : Nat) : Option WatchHits :=
  match listGet none w.watchHits k, listGet none (s.core w.core).watchpoints k with
  | some h, some e => if e.trap == trap then some h else none
  | _, _ => none

/-- The first hit among those of entries set as traps. -/
def State.firstHit (s : State) (w : Warp) : Option (Nat × WatchHits) :=
  (List.range 4).foldl (fun best k => match s.hitsOf w true k, best with
    | some h, some b => if h.order < b.2.order then some (k, h) else best
    | some h, none => some (k, h)
    | none, _ => best) none

/-- At a safe point the hits of entries set as traps make the watchpoint cause pending with the TINFO fields of the first
(R162, R310). R162 gives the warp one pending bit and speaks only of later hits of the same watchpoint: of hits of several entries that
fall due together, or while one is pending, the model keeps the fields of the first and drops the others (DESIGN CHOICE, assumption
log 54). -/
def State.watchDue (s : State) (w : Warp) : Warp :=
  match s.firstHit w with
  | none => w
  | some (k, h) =>
    { w with watchPending := some (w.watchPending.getD (watchInfo k h.thread)),
             watchHits := (List.range 4).map fun i =>
               if (s.hitsOf w true i).isSome then none else listGet none w.watchHits i }

/-- The watchpoint trap is taken: what its entry has recorded since the hit that made it due changes nothing (R162). -/
def State.takeWatch (s : State) (w : Warp) (info : Word) : Warp :=
  let k := (info.extractLsb' 16 4).toNat
  { w with watchPending := none, watchHits := if (s.hitsOf w true k).isSome then listPut none w.watchHits k none else w.watchHits }

/-- Takes a pending maskable trap, the timer first; none where none is due or traps are held (R162). -/
def State.takeTrap (s : State) (id : Nat) (w : Warp) : Option State :=
  if w.trapMask || w.handlerActive then none
  else if w.timerPending then
    let x := { w with timerPending := false }
    some ((s.setWarp id x).enter id x .timer w.next 0xFFFFFFFF .none)
  else match w.watchPending with
    | none => none
    | some info =>
      let x := s.takeWatch w info
      some ((s.setWarp id x).enter id x .watchpoint w.next 0xFFFFFFFF ⟨0x000F7F00, info⟩)

/-- The breakpoint table of the warp's context holds the safe point (R306). -/
def State.breakMatch (s : State) (w : Warp) (run : Run) : Bool :=
  match Tbl.find s.contexts w.ctx with
  | some c => run.stop && c.breakpoints.contains (s.objOf w, run.ord)
  | none => false

/-- FOCUS of STEPSTATE is cleared at the end of a step (R309). -/
def Warp.endStep (w : Warp) : Warp := { w with step := none, stepState := w.stepState &&& 0xFFFFFFFE }

/-- The debug halt due at a boundary, with the reports of its reasons in their order (R305); none where no reason is
due. A boundary from which a debugger has just released the warp is not tested again. -/
def State.debugHalt (s : State) (id : Nat) (w : Warp) (run : Run) : Option State :=
  let stepEnds := w.step.isSome && run.stop && decide (1 ≤ w.stepRuns)
  let breaks := s.breakMatch w run
  let watches := run.stop && (List.range 4).any fun k => (s.hitsOf w false k).isSome
  if w.skipBreak || !(stepEnds || breaks || watches || w.haltPending) then none
  else
    let rep (acc : State) (kind info : Nat) : State :=
      acc.report w.ctx (some id) (w.reportBytes kind 0xFF run.ord w.mask info run.header s.time (s.objOf w))
    let s1 := if stepEnds then rep s 2 w.endStep.stepState.toNat else s
    let s2 := if breaks then rep s1 1 0 else s1
    let s3 := if watches then s2.watchReports id w run.ord else s2
    let s4 := if w.haltPending then rep s3 4 0 else s3
    let w1 := if stepEnds then w.endStep else w
    let w2 := { w1 with debugHalted := true, active := false, haltPending := false,
                        watchHits := if watches then [none, none, none, none] else w1.watchHits }
    some (s4.setWarp id (w2.tracePreempt s.time run.header 1).anchorOwed)

/-- An ANCHOR record where one is due at a boundary: at the safe point that `trc.on` or `trc.anchor` waits for, at any boundary after
a debug halt or a stop, and at the boundary of a whole run once WREC has reached 4,095 (R318, R319). ORD is 0 at a boundary that is
no safe point. -/
def State.traceAnchor (s : State) (w : Warp) (run : Run) : Warp :=
  match w.trace with
  | none => w
  | some tr =>
    let whole := w.resume.isNone
    let safe := whole && run.stop
    if (tr.anchorSafe && safe) || (tr.started && (tr.anchorNext || (whole && decide (4095 ≤ tr.wrec)))) then
      let payload := natBytes 8 (s.objOf w) ++ natBytes 2 (if safe then run.ord else 0) ++ natBytes 2 w.depth
        ++ natBytes 12 w.mask.toNat ++ natBytes 4 run.header
      { w with trace := some { tr with anchorSafe := tr.anchorSafe && !safe, anchorNext := false, started := true,
                                       wrec := 0, waiting := tr.waiting ++ [(tr.ring, w.traceBytes s.time 1 0 payload)] } }
    else w

/-- What a warp at the header of a run takes before the run may issue: a debug halt, an ANCHOR that is due, then a maskable trap. At
a point inside a run only the ANCHOR can be due. -/
def State.boundary (s : State) (id : Nat) (w : Warp) (run : Run) : Option State :=
  let settle (x : Warp) : Option State := if x = w then none else some (s.setWarp id x)
  if s.mustStop w then none
  else if w.resume.isSome then settle (s.traceAnchor w run)
  else
    let w1 := w.timerReached s.time
    let w2 := if run.stop then s.watchDue w1 else w1
    match (s.setWarp id w2).debugHalt id w2 run with
    | some t => some t
    | none =>
      let w3 := s.traceAnchor w2 run
      match (s.setWarp id w3).takeTrap id w3 with
      | some t => some t
      | none => settle w3

/-! ### Fetch (R20, R23) -/

/-- The header at a warp's next offset as far as it can be read: one that fails R20 is no safe point. -/
def State.headerRun (s : State) (w : Warp) (c : Caravan) : Run :=
  match s.codeWord w.core c w.next with
  | some h => if headerOk h then runOf w.next [h] 0 else { runOf w.next [] 0 with stop := false, ord := 0 }
  | none => { runOf w.next [] 0 with stop := false, ord := 0 }

/-- The warp still stands before the run that it stood before. -/
def Warp.standsAt (y x : Warp) : Bool :=
  y.phase == .fetch && !y.debugHalted && y.handlerActive == x.handlerActive && y.next == x.next

/-- A cause of the run about to begin: a debug halt or a trap due at its boundary is taken before it (R113, R162, R305). -/
def State.runCause (s : State) (id : Nat) (w : Warp) (run : Run) (cause : Cause) (idx : Word) (f : TrapFields) : State :=
  let s1 := if w.resume.isNone then (s.boundary id w run).getD s else s
  match s1.warp? id with
  | none => s1
  | some x =>
    if x.standsAt w then (if cause = .protection then s1.worldViolation else s1).enter id x cause w.next idx f else s1

/-- The words of the run at a warp's next header have been fetched. A warp that resumes behind the last instruction leaves the run. -/
def State.fetched (s : State) (id : Nat) (w : Warp) (c : Caravan) (ws : List Word) : State :=
  let run0 := runOf w.next ws 0
  let run := { run0 with cost := chargeOf run0.raws (s.cluster (clusterOf w.core)).power.weights }
  match w.resume with
  | some k =>
    if run.len ≤ k then s.setWarp id (w.leaveRun run.behind)
    else s.setWarp id { w with run := some run, phase := .boundary }
  | none =>
    match predecode run c.record.tracks s.featAccept with
    | some (i, cause) =>
      s.runCause id w run cause (BitVec.ofNat 32 i) (if cause = .illegalOperand then .detail 0 else .none)
    | none => s.setWarp id { w with run := some run, phase := .boundary }

/-- Fetches the run at a warp's next header. A page that may not be fetched from is refused before what it holds is judged (R361). For a
cause of a fetch the spec gives neither TIDX nor THREAD: the model writes TIDX 0xFFFFFFFF, as a bad run header does, and THREAD 0 (DESIGN
CHOICE, assumption log 53). -/
def State.fetchRun (s : State) (id : Nat) (w : Warp) (c : Caravan) : State :=
  match fetchWords (s.codeWord w.core c) c.codeSize w.next with
  | .miss off =>
    match s.fetchRefused w.core c off with
    | some cause =>
      s.runCause id w (s.headerRun w c) cause 0xFFFFFFFF (.memory 0 false (if cause = .protection then 3 else 9))
    | none => s.requestWalk ⟨w.core, w.ctx, c.codeBase + off, .fetch, .warp id⟩
  | .bad => s.runCause id w (s.headerRun w c) .badRunHeader 0xFFFFFFFF .none
  | .words ws => s.fetched id w c ws

/-- RUN_FETCH: fetches and checks the run at a warp's next header; the rest of a run entered in its middle is not
predecoded again (R163). -/
def execRunFetch (w : Nat) (s : State) : Host.Outcome State Fault Refusal :=
  match s.warp? w with
  | none => .next s
  | some x =>
    match x.phase, s.caravan? x.caravan with
    | .fetch, some c => .next (if x.debugHalted || s.mustStop x then s else s.fetchRun w x c)
    | _, _ => .next s

/-! ### Slots and active positions (R59, R170, R171) -/

/-- A warp in this state keeps its scheduler's issue slot. -/
def Warp.holdsSlot (w : Warp) : Bool :=
  match w.phase with
  | .issuing => true
  | .waiting (.mwait _) => !w.lastOfRun
  | .waiting (.evwait _) => !w.lastOfRun
  | .waiting (.waitm _) => !w.lastOfRun
  | .waiting .join => !w.lastOfRun
  | .waiting (.translation _) => w.run.isSome
  | _ => false

/-- The warps of a scheduler. -/
def State.onSched (s : State) (core sched : Nat) : List (Nat × Warp) :=
  s.warps.filter fun p => p.2.core == core && p.2.sched == sched && p.2.phase != .stopped

/-- The oldest of some warps by launch ordinal. -/
def oldestWarp (l : List (Nat × Warp)) : Option (Nat × Warp) :=
  l.foldl (fun best p => match best with
    | none => some p
    | some b => if older p.2.ordinal b.2.ordinal then some p else some b) none

/-- A warp at a boundary gives up its position: it has executed `yield`, or was not eligible for 256 cycles (R171). -/
def Warp.leaves (w : Warp) (cycle : Int) : Bool :=
  w.active && w.betweenRuns && (w.yielded || decide (256 ≤ cycle - w.eligibleAt))

/-- Warps leave their positions while another waits to enter: the state, and the warps that left. -/
def State.leavePositions (s : State) (core sched : Nat) : State × List Nat :=
  let l := s.onSched core sched
  let out := if l.any fun p => p.2.entering then (l.filter fun p => p.2.leaves (s.cycleOf core)).map fun p => p.1 else []
  let settle (p : Nat × Warp) : Warp :=
    if out.contains p.1 then { p.2 with active := false, yielded := false }
    else if p.2.betweenRuns then { p.2 with yielded := false }
    else p.2
  (l.foldl (fun acc p => acc.setWarp p.1 (settle p)) s, out)

/-- Fills free positions with waiting warps, oldest first; four positions to a scheduler. `out` names warps that do not enter. -/
def State.fillPositions (s : State) (core sched fuel : Nat) (out : List Nat) : State :=
  match fuel with
  | 0 => s
  | k + 1 =>
    let l := s.onSched core sched
    if 4 ≤ (l.filter fun p => p.2.active).length then s
    else match oldestWarp (l.filter fun p => p.2.entering && !out.contains p.1) with
      | none => s
      | some (id, w) => (s.setWarp id { w with active := true, eligibleAt := s.cycleOf core }).fillPositions core sched k out

/-- The positions of a scheduler are settled: a place that a warp has just left goes to one that waited (R106, R171). -/
def State.settlePositions (s : State) (core sched : Nat) : State :=
  let (s1, out) := s.leavePositions core sched
  (s1.fillPositions core sched 4 out).fillPositions core sched 4 []

/-! ### The charge bucket (R254 to R257) -/

/-- The contexts with a caravan placed on a cluster. -/
def State.contextsOn (s : State) (cluster : Nat) : List Nat :=
  ((s.caravans.filter fun p => p.2.stage == .placed && !p.2.done &&
    (match p.2.core with | some k => clusterOf k == cluster | none => false)).map fun p => p.2.ctx).eraseDups

/-- The request that counts for the bucket and the rail: at most FCAP (R386). -/
def State.cappedRequest (s : State) (cluster ctx : Nat) : Nat :=
  let cap := match Tbl.find s.contexts ctx with
    | some c => c.fcap
    | none => 3
  min (Tbl.findD (s.cluster cluster).requests ctx 2).toNat cap

def State.hasHeadroom (s : State) (ctx : Nat) : Bool :=
  match Tbl.find s.contexts ctx with
  | some c => c.headroom
  | none => false

/-- w_c of R255. -/
def State.bucketWeight (s : State) (cluster ctx : Nat) : Nat :=
  let w := match Tbl.find s.contexts ctx with
    | some c => c.weight
    | none => 1
  if s.cappedRequest cluster ctx = 3 ∧ s.hasHeadroom ctx = true then 2 * w else w

/-- x times the share of a context, truncated to a multiple of 2^-8 and in units of 2^-8 (R255). -/
def State.shareOf (s : State) (cluster ctx x : Nat) : Nat :=
  let total := (s.contextsOn cluster).foldl (fun acc c => acc + s.bucketWeight cluster c) 0
  x * 256 * s.bucketWeight cluster ctx / max total 1

/-- CAP_c in units of 2^-8. -/
def State.bucketCap (s : State) (cluster ctx : Nat) : Nat := s.shareOf cluster ctx (s.cluster cluster).power.cap

/-- The bucket after some cycles: every level refills up to its cap. -/
def State.passCycles (s : State) (cluster n : Nat) : State :=
  if n = 0 then s
  else
    let p := (s.cluster cluster).power
    let fill (l : Tbl Nat) (c : Nat) : Tbl Nat :=
      Tbl.put l c (min (s.bucketCap cluster c) (Tbl.findD l c 0 + n * s.shareOf cluster c p.rate))
    s.updCluster cluster fun k =>
      { k with power := { p with levels := (s.contextsOn cluster).foldl fill p.levels, cycle := p.cycle + n, tested := [] } }

/-- The charge of a run, at most its context's cap. -/
def State.chargeHere (s : State) (cluster ctx : Nat) (run : Run) : Nat := min (run.cost * 256) (s.bucketCap cluster ctx)

/-- The bucket holds the run's charge (R257). -/
def State.bucketHolds (s : State) (cluster ctx : Nat) (run : Run) : Bool :=
  let p := (s.cluster cluster).power
  let q := s.chargeHere cluster ctx run
  let level := Tbl.findD p.levels ctx 0
  if run.matrixBearing then decide (q + min (p.mres * 256) (s.bucketCap cluster ctx - q) ≤ level)
  else decide (q ≤ level)

/-- The charge is subtracted when the run issues. -/
def State.chargeBucket (s : State) (cluster ctx : Nat) (run : Run) : State :=
  let q := s.chargeHere cluster ctx run
  s.updCluster cluster fun k =>
    { k with power := { k.power with levels := Tbl.put k.power.levels ctx (Tbl.findD k.power.levels ctx 0 - q) } }

/-! ### Eligibility and choice (R169, R170) -/

/-- The position of the first instruction a warp would issue, and that instruction. -/
def Warp.firstRaw (w : Warp) (run : Run) : Option (Nat × Raw) := run.raws[w.resume.getD 0]?

/-- Every engine that a run names is free (condition 4 of R169). The spec makes one class not free: the SFUs while the attention
engine has taken them (R284); the others take what they are given (DEDUCED, assumption log 45). -/
def State.enginesFree (s : State) (w : Warp) (run : Run) : Bool := !(run.eng.getLsbD 1 && (s.cluster (clusterOf w.core)).holding)

/-- The five conditions of R169 hold for an active warp, but for the charge that may still withhold its run: what counts for the aging
count (R170, R257). -/
def State.eligibleToAge (s : State) (w : Warp) : Bool :=
  match w.phase, w.run, s.caravan? w.caravan with
  | .boundary, some run, some c =>
    w.active && !w.debugHalted && !w.spilledRegs && !s.mustStop w && c.needsMet run w.pass && s.enginesFree w run
      && match w.firstRaw run with
        | some (_, r) => !(s.hazard w r)
        | none => false
  | _, _, _ => false

/-- The five conditions of R169 hold for an active warp, and the bucket holds its run's charge (R257). -/
def State.eligible (s : State) (w : Warp) : Bool :=
  s.eligibleToAge w && match w.run with
    | some run => s.bucketHolds (clusterOf w.core) w.ctx run
    | none => false

/-- The eligible warps of a scheduler. -/
def State.eligibleOn (s : State) (core sched : Nat) : List (Nat × Warp) :=
  (s.onSched core sched).filter fun p => s.eligible p.2

/-- The warp that R170 chooses among some. -/
def chooseWarp (l : List (Nat × Warp)) : Option (Nat × Warp) :=
  match oldestWarp (l.filter fun p => decide (512 ≤ p.2.aging)) with
  | some p => some p
  | none => oldestWarp l

/-! ### Issue (R59) -/

/-- RUNS of STEPSTATE counts the runs of a step, saturating (R309). -/
def Warp.countStep (w : Warp) : Warp :=
  if w.step.isSome then
    let n := min 4095 (w.stepRuns + 1)
    { w with stepRuns := n, stepState := (w.stepState &&& 0xFFF000FF) ||| BitVec.ofNat 32 (n * 2 ^ 8) }
  else w

/-- The copy of a slot that was current as a cycle began: the one a run issued in it uses (R239, R241). -/
def TableSlot.curIn (t : TableSlot) (cycle : Int) : Bool :=
  match t.switched with
  | some (c, before) => if c = cycle then before else t.cur
  | none => t.cur

/-- CUR of each table slot of a core for a run issued in a cycle, as bits. -/
def Core.tableBits (c : Core) (cycle : Int) : BitVec 8 :=
  BitVec.ofNat 8 ((List.range 8).foldl (fun acc k =>
    acc + if (match c.tables[k]? with | some t => t.curIn cycle | none => false) then 2 ^ k else 0) 0)

/-- The warp at the first instruction of its issue; temporaries begin at zero (R53). -/
def State.begin (s : State) (w : Warp) (run : Run) : Warp :=
  let k := w.resume.getD 0
  let w1 := w.traceAdd s.time 2 (natBytes 4 run.header ++ natBytes 12 w.mask.toNat ++ natBytes 4 k)
  { w1.countStep with
    phase := .issuing, startIdx := k, idx := k, pos := (match run.raws[k]? with | some x => x.1 | none => 1), temps := [],
    wroteTemps := 0, resume := none, remainder := decide (0 < k), aging := 0,
    skipBreak := false,
    lastOrd := if run.stop && k == 0 then run.ord else w.lastOrd, tblSel := (s.core w.core).tableBits (s.cycleOf w.core),
    issuedAt := s.time }

/-- A warp wins its scheduler's slot: the charge is taken, the run begins, and the warp's instructions come next. -/
def State.issueWarp (s : State) (id : Nat) (w : Warp) (run : Run) : State :=
  let cluster := clusterOf w.core
  let s1 := (s.chargeBucket cluster w.ctx run).setWarp id (s.begin w run)
  let s2 := (s1.updCore w.core fun c => { c with lastIssue := s.cycleOf w.core }).sample cluster w.ctx 1 1
  { s2 with cur := id }

/-- The aging counts of the warps that were eligible in a cycle in which another issued; a withheld run counts as eligible here (R170,
R257). -/
def State.countWaiting (s : State) (able : List (Nat × Warp)) (issued : Nat) : State :=
  able.foldl (fun acc p => if p.1 = issued then acc else acc.setWarp p.1 { p.2 with aging := p.2.aging + 1 }) s

/-- Notes the cycle in which the eligible warps of a scheduler have been so (R171). -/
def State.noteEligible (s : State) (core sched : Nat) : State :=
  (s.eligibleOn core sched).foldl (fun acc p => acc.setWarp p.1 { p.2 with eligibleAt := s.cycleOf core }) s

/-- The place of a scheduler among the eight in cycle k (R257). -/
def testPlace (k g : Nat) : Nat := (g + 8 - k % 8) % 8

/-- The scheduler may be tested in the present cycle: none that comes after it has been. -/
def Power.mayTest (p : Power) (g : Nat) : Bool :=
  p.tested.all fun t => decide (testPlace p.cycle t < testPlace p.cycle g)

/-- What falls due at the boundaries of a scheduler's warps, warp by warp. -/
def State.boundaries (s : State) (l : List (Nat × Warp)) : State :=
  match l with
  | [] => s
  | (id, w) :: rest =>
    match w.phase, w.run with
    | .boundary, some run =>
      if w.debugHalted then s.boundaries rest
      else match s.boundary id w run with
        | some t => t.boundaries rest
        | none => s.boundaries rest
    | _, _ => s.boundaries rest

/-- One visit of a scheduler in the present cycle of its cluster. -/
def State.visit (s : State) (core sched : Nat) : State :=
  let cluster := clusterOf core
  let g := 4 * (core % 2) + sched
  if (s.cluster cluster).power.mayTest g = false then s
  else
    let s1 := (s.updCluster cluster fun k => { k with power := { k.power with tested := k.power.tested ++ [g] } }).noteEligible core sched
    if (s1.onSched core sched).any fun p => p.2.holdsSlot then s1
    else
      let s2 := (s1.boundaries (s1.onSched core sched)).settlePositions core sched
      let able := s2.eligibleOn core sched
      match chooseWarp able with
      | none => s2
      | some (id, w) =>
        match w.run with
        | some run => (s2.countWaiting ((s2.onSched core sched).filter fun p => s2.eligibleToAge p.2) id).issueWarp id w run
        | none => s2

/-- RUN_ISSUE: after some cycles of its cluster a scheduler takes what is due at its warps' boundaries, settles its
active positions and issues at most one run (R169 to R171, R257, R305). The package has 576 cores (R4). -/
def execRunIssue (core sched cycles : Nat) (s : State) : Host.Outcome State Fault Refusal :=
  .next (if 576 ≤ core then s else (s.passCycles (clusterOf core) cycles).visit core (sched % 4))

/-! ### The timer (R112) -/

/-- TIMER: at a run boundary the comparator is reached and the trap becomes due. -/
def execTimer (w : Nat) (s : State) : Host.Outcome State Fault Refusal :=
  match s.warp? w with
  | none => .next s
  | some x =>
    .next (if (x.phase == .fetch || x.phase == .boundary) && x.resume.isNone then s.setWarp w (x.timerReached s.time) else s)

/-! ### Stops (R65, R165, R357, R358) -/

/-- A stop record (R358). -/
def stopRecord (unit flags core caravan pass progress now : Nat) : StopRecord :=
  natBytes 1 unit ++ natBytes 1 flags ++ natBytes 2 0 ++ natBytes 4 core ++ natBytes 4 caravan ++ natBytes 4 pass
    ++ natBytes 4 progress ++ natBytes 4 0 ++ natBytes 8 now

/-- Appends a stop record to those of a partition's present stop. -/
def State.addStop (s : State) (partition : Nat) (r : StopRecord) : State :=
  let p := Tbl.findD s.partitions partition Partition.initial
  { s with partitions := Tbl.put s.partitions partition { p with stops := p.stops ++ [r] } }

/-- The header that a warp stands at, where it can be read and is one: what a stop finds there (R65). -/
def State.headerAt (s : State) (w : Warp) : Option Word :=
  match w.run, s.caravan? w.caravan with
  | some run, _ => some (listGet 0 run.words 0)
  | none, some c =>
    if c.codeSize < w.next + 4 ∨ w.next % 4 ≠ 0 then none
    else match (s.lookUp w.core w.ctx (c.codeBase + w.next) true).2 with
      | .ok e => if leafPoison e.leaf || (leafSecure e.leaf && !s.ctxSecure w.ctx) then none
        else some (Memory.readWord s.mem (leafPa e.leaf (c.codeBase + w.next)))
      | .error _ => none
  | none, none => none

/-- The safe-point record of the run a warp stands at, fetched or not, where it stands at a safe point (R43, R65). -/
def State.safePointOf (s : State) (w : Warp) : Option SafePoint :=
  if w.stopPoint && w.resume.isNone then
    match s.headerAt w with
    | some h =>
      if headerOk h && headerStop h then
        match s.objects.find? fun o => o.ctx == w.ctx && o.objId == s.objOf w with
        | some o => o.safePoints.find? fun p => p.ord == headerOrd h && p.header == w.next
        | none => none
      else none
    | none => none
  else none

/-- Every register a safe point marks as not live holds zero after restore (R66). -/
def Warp.keepLive (w : Warp) (p : SafePoint) : Warp :=
  { w with
    scalars := (List.range 64).map fun k =>
      if p.slive.getLsbD k || (56 ≤ k && k ≤ 59) || 61 ≤ k then listGet 0 w.scalars k else 0
    vregs := (List.range w.quota).map fun k => if p.vlive.getLsbD k then listGet [] w.vregs k else []
    preds := (List.range 7).map fun k => if p.plive.getLsbD k then listGet 0 w.preds k else 0 }

/-- The boundary before the run in issue, or before the remainder of a run in issue: the issue is made again as a whole, what it has
done before its wait included (R210, R236, R350; DEDUCED, assumption log 46). -/
def Warp.beforeIssue (w : Warp) : Warp :=
  match w.run with
  | some r => if w.startIdx = 0 then w.leaveRun r.header else w.remainderFrom w.startIdx
  | none => w

/-- A warp that waits at an instruction the halt ends: it stands at the boundary before its run (R210, R236, R350), at its blocked
`vgrow` (R175), or keeps its place in a party's wait (R251). -/
def Warp.standing (w : Warp) : Option Warp :=
  match w.phase with
  | .waiting (.bar slot phase) => some { w with stopWait := some (.bar slot phase) }
  | .waiting (.vgrow _) => some { w with phase := .fetch }
  | .waiting (.mwait _) => some w.beforeIssue
  | .waiting (.evwait _) => some w.beforeIssue
  | .waiting .join => some w.beforeIssue
  | _ => if w.stopPoint then some w else none

/-- Withdraws a warp's claims, which are made again on restore (R175, R176). -/
def State.withdraw (s : State) (id : Nat) (w : Warp) : State :=
  let own (c : Claim) : Bool := match c.kind with
    | .grow x _ => x == id
    | .restore x => x == id
    | _ => false
  s.updCore w.core fun k => { k with claims := k.claims.filter fun c => !own c }

/-- Stops a warp: what R64 lists is kept, its vector registers in the vector area of its frame (R356), its watches and temporaries are
not kept, and its stop record is made. A register that a safe point does not mark as live is written as zero (R66). -/
def State.stopWarp (s : State) (id : Nat) (w : Warp) : State :=
  let hdr := match w.run with
    | some r => r.header
    | none => w.next
  let w1 := { w with vregs := s.vregsOf w }
  let w2 := match s.safePointOf w with
    | some p => w1.keepLive p
    | none => w1
  let flags := (if w.wasDeferred || w.deferred || (w.handlerActive && w.trapMask) then 1 else 0) + (if w.handlerActive then 2 else 0)
  let w3 := { w2 with phase := .stopped, run := none, active := false, watches := [], temps := [], wroteTemps := 0, vregs := [],
                      yielded := false, wasDeferred := false, deferred := false }
  let s1 := ((s.withdraw id w).homeWrite w.frame (spillBytes w2)).addStop (s.partitionOf w.ctx)
    (stopRecord 0 flags w.core w.caravan w.pass 0 s.time)
  s1.setWarp id (w3.tracePreempt s.time hdr 0).anchorOwed

/-- WARP_STOP: under a raised halt line a warp stops at a run boundary, or where it waits at one; its loads are done
first (R158). -/
def execWarpStop (w : Nat) (s : State) : Host.Outcome State Fault Refusal :=
  match s.warp? w with
  | none => .next s
  | some x =>
    match x.standing with
    | none => .next s
    | some y => .next (if s.stopping x && x.loads.isEmpty then s.stopWarp w y else s)

/-- HALT_DEFER_TIMEOUT: 20 us after the rise of the line the deferral of a warp in a masked handler ends (R165). -/
def execHaltDeferTimeout (w : Nat) (s : State) : Host.Outcome State Fault Refusal :=
  match s.warp? w with
  | none => .next s
  | some x =>
    match (Tbl.findD s.partitions (s.partitionOf x.ctx) Partition.initial).halt with
    | none => .next s
    | some rise =>
      .next (if x.handlerActive && x.trapMask && decide (rise + 20000 ≤ s.time) then
        s.setWarp w { x with deferred := true, wasDeferred := true } else s)

end Sys2Proof.Machine
end

