-- ==== Sys2Proof/Machine/Engine.lean ====
section
/-! DEFINITION. What every engine operation shares: its queue, its range locks (R227 to R229), its issue, the pages it meets
(R230, R234), its completion record (R230, R232, R233) and its stop (R231, R357, R358). -/

namespace Sys2Proof.Machine

/-! ### Queues -/

/-- The operations a unit holds, oldest first. -/
def State.queueOf (s : State) (u : EngineUnit) : List EngineOp :=
  match u with
  | .copy k => (s.core k).copyQueue
  | .loader k => (s.core k).loaderQueue
  | .matrix k => (s.core k).matrixQueue
  | .table k => (s.core k).tableQueue
  | .selection c => (s.cluster c).selection
  | .attention c => (s.cluster c).attention
  | .fabric c => (s.cluster c).fabric

def State.setQueue (s : State) (u : EngineUnit) (l : List EngineOp) : State :=
  match u with
  | .copy k => s.updCore k fun c => { c with copyQueue := l }
  | .loader k => s.updCore k fun c => { c with loaderQueue := l }
  | .matrix k => s.updCore k fun c => { c with matrixQueue := l }
  | .table k => s.updCore k fun c => { c with tableQueue := l }
  | .selection k => s.updCluster k fun c => { c with selection := l }
  | .attention k => s.updCluster k fun c => { c with attention := l }
  | .fabric k => s.updCluster k fun c => { c with fabric := l }

/-- The other core of a cluster. -/
def otherCore (core : Nat) : Nat := if core % 2 = 0 then core + 1 else core - 1

/-- The cluster a unit belongs to. -/
def clusterOfUnit (u : EngineUnit) : Nat :=
  match u with
  | .copy k | .loader k | .matrix k | .table k => clusterOf k
  | .selection c | .attention c | .fabric c => c

/-- Every operation of a cluster's units. -/
def State.clusterOps (s : State) (cluster : Nat) : List EngineOp :=
  [EngineUnit.copy (2 * cluster), .copy (2 * cluster + 1), .loader (2 * cluster), .loader (2 * cluster + 1),
   .matrix (2 * cluster), .matrix (2 * cluster + 1), .table (2 * cluster), .table (2 * cluster + 1), .selection cluster,
   .attention cluster, .fabric cluster].flatMap fun u => s.queueOf u

/-- Replaces an operation in its unit's queue. -/
def State.setOp (s : State) (u : EngineUnit) (o : EngineOp) : State :=
  s.setQueue u ((s.queueOf u).map fun x => if x.id = o.id then o else x)

/-- The first operation that is not finished: the one a unit that works in order performs. -/
def State.headOp (s : State) (u : EngineUnit) : Option EngineOp := (s.queueOf u).find? fun o => o.state != .finished

/-- How many operations of a queue have not yet queued their record and hold one of its places. -/
def State.held (s : State) (u : EngineUnit) : Nat := ((s.queueOf u).filter fun o => o.state != .finished).length

/-- A new operation of the current warp. -/
def State.newOp (s : State) (w : Warp) (kind : OpKind) (tag : Word) : EngineOp :=
  { id := s.nextId, warp := s.cur, ctx := w.ctx, core := w.core, caravan := w.caravan, pass := w.pass, tag := tag,
    kind := kind, state := .queued, progress := 0, status := 0, settled := 0, flags := 0, batch := none, data := [],
    pages := [], lost := 0, stopped := false, cursor := 0, result := 0, blocks := 0, rows := [],
    source := [], walk := none }

/-! ### Locks (R227, R228) -/

/-- A span an operation reads or writes. -/
structure Span where
  space : LockSpace
  at_ : Nat
  bytes : Nat
  write : Bool
  deriving DecidableEq, Repr

def Span.first (x : Span) : Nat := x.at_ / 256
def Span.last (x : Span) : Nat := (x.at_ + x.bytes - 1) / 256

/-- Two spans name a granule in common in one space. -/
def Span.meets (x y : Span) : Bool := x.space == y.space && decide (x.first ≤ y.last) && decide (y.first ≤ x.last)

def LockSpace.scratch? (x : LockSpace) : Bool :=
  match x with
  | .memory _ => false
  | .scratch _ _ => true

/-- The scratchpad of the warp's caravan, and the memory of its context. -/
def Warp.scratchSpace (w : Warp) : LockSpace := .scratch w.core w.caravan
def Warp.memorySpace (w : Warp) : LockSpace := .memory w.ctx

/-- TINFO of a range conflict at issue (R228). -/
def conflictFields (x : Span) (own : Bool) : TrapFields :=
  .memory 0 x.space.scratch? (if own || x.write then 7 else 6)

/-- The conflict an operation meets at issue: between its own read and write spans, or with a lock already held. -/
def spanConflict (locks : List RangeLock) (spans : List Span) : Option TrapFields :=
  let live := spans.filter fun x => x.bytes != 0
  match live.find? fun x => !x.write && live.any fun y => y.write && x.meets y with
  | some x => some (conflictFields x true)
  | none =>
    (live.find? fun x => lockConflict locks x.space x.at_ x.bytes x.write).map fun x => conflictFields x false

/-- The locks of an operation. -/
def locksFor (owner : Nat) (spans : List Span) : List RangeLock :=
  (spans.filter fun x => x.bytes != 0).map fun x => ⟨x.space, x.first, x.last, x.write, owner⟩

/-- The table has room for an operation's locks: 64 entries (R227). -/
def State.lockRoom (s : State) (cluster : Nat) (spans : List Span) : Bool :=
  decide ((s.cluster cluster).locks.length + (spans.filter fun x => x.bytes != 0).length ≤ 64)

def State.addLocks (s : State) (cluster owner : Nat) (spans : List Span) : State :=
  s.updCluster cluster fun k => { k with locks := k.locks ++ locksFor owner spans }

/-- Releases the locks of an operation (R229). -/
def State.releaseLocks (s : State) (cluster owner : Nat) : State :=
  s.updCluster cluster fun k => { k with locks := k.locks.filter fun l => l.owner != owner }

/-! ### The scratchpad and its operand blocks -/

/-- The scratchpad of a caravan. -/
def State.scratchOf (s : State) (caravan : Nat) : Memory :=
  match s.caravan? caravan with
  | some c => c.scratch
  | none => []

/-- The scratchpad in which the instruction in issue finds its operand blocks: a waiting instruction keeps what it first
read, so that a later store has no effect on it (R202). -/
def State.operandMem (s : State) (w : Warp) : Memory := w.operands.getD (s.scratchOf w.caravan)

/-- The instruction waits to complete its issue with the operand blocks it has read. -/
def State.holdIssue (s : State) (w : Warp) : State :=
  s.setWarp s.cur { w with operands := some (s.operandMem w) }

def State.scratchWrite (s : State) (caravan a : Nat) (bytes : List Byte) : State :=
  s.updCaravan caravan fun c => { c with scratch := Memory.writeBytes c.scratch a bytes }

/-! ### Issue -/

/-- Puts an operation of the current warp in its queue with its locks; it is in flight until its record is queued. -/
def State.enqueue (s : State) (u : EngineUnit) (o : EngineOp) (spans : List Span) : State :=
  (((State.setQueue { s with nextId := s.nextId + 1 } u (s.queueOf u ++ [o])).addLocks (clusterOfUnit u) o.id spans).updWarp
    o.warp fun w => { w with inFlight := w.inFlight + 1 }).finishCur

/-- The last steps of an engine instruction's issue: the locks of R228, then room in the lock table and in a queue of
`limit` operations, for which it waits holding the slot; `mark` is what else the issue does. -/
def State.issueOp (s : State) (w : Warp) (u : EngineUnit) (limit : Nat) (kind : OpKind) (tag : Word)
    (spans : List Span) (mark : State → EngineOp → State × EngineOp := fun s o => (s, o)) : State :=
  match spanConflict (s.cluster (clusterOf w.core)).locks spans with
  | some f => s.trapHere w .rangeConflict f
  | none =>
    if limit ≤ s.held u || !s.lockRoom (clusterOfUnit u) spans then s.holdIssue w
    else
      let (s1, o) := mark s (s.newOp w kind tag)
      s1.enqueue u o spans

/-- The checks of an engine instruction's operands, in their order: the first that fails decides. -/
def firstFailure (l : List (Bool × Cause × TrapFields)) : Option (Cause × TrapFields) :=
  (l.find? fun x => x.1).map fun x => x.2

/-- Runs the checks, then `k`. -/
def State.afterChecks (s : State) (w : Warp) (l : List (Bool × Cause × TrapFields)) (k : State) : State :=
  match firstFailure l with
  | some (cause, f) => s.trapHere w cause f
  | none => k

/-- A scratchpad span passes the issuing caravan's allotment. -/
def State.beyond (s : State) (w : Warp) (a n : Nat) : Bool := decide (s.allotment w < a + n)

/-- A memory span passes the addresses a program may use (R140). -/
def outOfRange (a n : Nat) : Bool := decide (2 ^ 55 < a + n) || decide (2 ^ 55 ≤ a)

/-! ### Pages met while running (R230, R234) -/

/-- What an operation meets at an address: it goes on at a physical address, ends with a STATUS, or waits. -/
inductive Met
  | at_ (pa : Nat) (leaf : DWord)
  | ends (status : BitVec 8) (s : State)
  | waits (s : State)

/-- An operation's access. Pages whose fault the driver answered with FAIL are in the operation's `pages`; while the operation waits
for a walk or for RESOLVE it goes no further (R297). -/
def State.meet (s : State) (o : EngineOp) (va : Nat) (write kv : Bool) : Met :=
  if o.pages.contains (o.ctx, va / 65536) then .ends 2 s
  else if s.walking (.engine o.id) then .waits s
  else match s.reach o.core o.ctx va write kv with
  | .at_ leaf pa => .at_ pa leaf
  | .unmapped => .waits (s.requestWalk ⟨o.core, o.ctx, va, .engine, .engine o.id⟩)
  | .refused world => .ends 3 (if world then s.worldViolation else s)
  | .poisoned => .ends 1 s

/-- The same for a span: its pieces' physical addresses and lengths, or the first page that stands in the way. -/
inductive MetSpan
  | go (pieces : List (Nat × Nat))
  | ends (status : BitVec 8) (s : State)
  | waits (s : State)

def State.meetPieces (s : State) (o : EngineOp) (write kv : Bool) (l : List (Nat × Nat)) : MetSpan :=
  match l with
  | [] => .go []
  | (va, n) :: rest =>
    match s.meet o va write kv with
    | .ends c t => .ends c t
    | .waits t => .waits t
    | .at_ pa _ =>
      match s.meetPieces o write kv rest with
      | .go l => .go ((pa, n) :: l)
      | x => x

def State.meetSpan (s : State) (o : EngineOp) (va n : Nat) (write kv : Bool) : MetSpan :=
  s.meetPieces o write kv (piecesOf va n)

/-- The bytes of some physical pieces. -/
def Memory.readPieces (m : Memory) (l : List (Nat × Nat)) : List Byte := l.flatMap fun p => Memory.readBytes m p.1 p.2

/-- Every store and atomic the warp made before the operation has been acknowledged (R337, ENGINE). -/
def State.mayBegin (s : State) (o : EngineOp) : Bool :=
  match s.warp? o.warp with
  | some w => w.stores.all fun x => decide (o.id < x.id)
  | none => true

/-- An operation that a halt line lets run to its end, once it has begun. -/
def OpKind.runsOn (k : OpKind) : Bool :=
  match k with
  | .tblld .. => true
  | .kapp _ => true
  | .ksum .. => true
  | .move .. => true
  | .hold => true
  | _ => false

/-- A halt line stops an operation: a `kapp`, `ksum` or move not yet begun waits its turn after restore; `tblld`, which no run
holds back under a halt, and the hold of an attention tile are not stopped. -/
def OpKind.stops (k : OpKind) (st : OpState) : Bool :=
  match k with
  | .tblld .. => false
  | .hold => false
  | _ => !(k.runsOn && st == .running)

/-- An engine may work on an operation: it may begin, it is not saved with its core, and no halt line stands that stops it. Under such a
line what an engine still finishes of an operation in progress comes with its stop (R214, R231, R266, R286, R358). -/
def State.mayWork (s : State) (o : EngineOp) : Bool :=
  decide (o.core < 576) && s.mayBegin o
    && !(o.kind.stops o.state && (Tbl.findD s.partitions (s.partitionOf o.ctx) Partition.initial).halt.isSome)

/-- Ends the work of an operation with a STATUS. -/
def EngineOp.finish (o : EngineOp) (status : BitVec 8) : EngineOp := { o with state := .finished, status := status }

/-- A write of an operation at its home: memory, watches, and the operation's largest completion time (R148, R230). -/
def State.engineWrite (s : State) (o : EngineOp) (pa : Nat) (bytes : List Byte) : State × EngineOp :=
  ((s.homeWrite pa bytes).moveLines o.core o.ctx (linesOf pa bytes.length).length true,
    { o with settled := max o.settled (s.completionOf pa bytes.length) })

/-- The lines that some physical pieces touch, each once. -/
def linesIn (l : List (Nat × Nat)) : List Nat := (l.flatMap fun p => linesOf p.1 p.2).eraseDups

/-- What an operation's read of some physical pieces moves from L2: every line that it touches, which is filled where the L2 does not
hold it (R230, R299, R327). -/
def State.engineRead (s : State) (o : EngineOp) (l : List (Nat × Nat)) : State :=
  match linesIn l with
  | [] => s
  | ks => (ks.foldl State.touchLine s).moveLines o.core o.ctx ks.length false

/-- Writes bytes over physical pieces. -/
def State.enginePieces (s : State) (o : EngineOp) (l : List (Nat × Nat)) (bytes : List Byte) : State × EngineOp :=
  match l with
  | [] => (s, o)
  | (pa, n) :: rest =>
    let (s1, o1) := s.engineWrite o pa (bytes.take n)
    s1.enginePieces o1 rest (bytes.drop n)

/-! ### Completion records (R230, R232, R233) -/

/-- The ENGINE code of an operation; 0 for one that queues no record. -/
def OpKind.code (k : OpKind) : BitVec 8 :=
  match k with
  | .cpy .. => 1
  | .gath .. => 2
  | .scat .. => 3
  | .wbld .. => 4
  | .acld .. => 5
  | .acst .. => 6
  | .move _ promote => if promote then 7 else 8
  | .tblld .. => 9
  | .kapp _ => 10
  | .ksel _ => 11
  | .katt _ => 12
  | .ksum .. => 13
  | .fput .. => 14
  | .fget .. => 15
  | .fcoll _ => 16
  | _ => 0

/-- The tag of an operation's record: that of its instruction, or the batch number of `acld` and `acst` (R232). -/
def EngineOp.recordTag (o : EngineOp) : Word :=
  match o.kind with
  | .acld .. => o.batch.getD 0
  | .acst .. => o.batch.getD 0
  | _ => o.tag

/-- The operation may queue its record: its work is done, its writes are complete, and an `acld` or `acst` is in a
closed batch (R209, R230). -/
def EngineOp.recordable (o : EngineOp) (now : Nat) : Bool :=
  o.state == .finished && decide (o.settled ≤ now) && o.kind.code != 0 &&
    match o.kind with
    | .acld .. => o.batch.isSome
    | .acst .. => o.batch.isSome
    | _ => true

/-- PROGRESS reads 0 again once the record of the warp's most recently stopped operation is queued, or its batch is complete
(R358). -/
def Warp.progressOver (w : Warp) (ops : List Nat) : Warp :=
  match w.stoppedOp with
  | some (op, _) => if ops.contains op then { w with progress := 0, stoppedOp := none } else w
  | none => w

/-- An `fput` no longer counts for a release at system scope (R382). -/
def OpKind.isPut (k : OpKind) : Bool :=
  match k with
  | .fput .. => true
  | _ => false

/-- Batches at the front with no operation left are complete: their flags reach FLAGS (R83, R209). -/
def Warp.settleBatches (w : Warp) (fuel : Nat) : Warp :=
  match fuel, w.batches with
  | k + 1, b :: rest =>
    if b.ops.isEmpty then
      (({ w with batches := rest, flags := w.flags ||| b.flags } : Warp).progressOver b.members).settleBatches k
    else w
  | _, _ => w

/-- An operation of a warp is complete: it leaves the open set or its batch, which keeps the flags it raised, and batches
with nothing left are complete. -/
def Warp.leaveBatches (w : Warp) (op : Nat) (f : BitVec 11) : Warp :=
  let w1 : Warp :=
    if w.openOps.contains op then { w with openOps := w.openOps.filter fun x => x != op, openFlags := w.openFlags ||| f }
    else { w with batches := w.batches.map fun b =>
      if b.ops.contains op then { b with ops := b.ops.filter fun x => x != op, flags := b.flags ||| f } else b }
  w1.settleBatches w1.batches.length

/-- Takes an operation out of its unit; one of a pair of arrays is in the queues of both (R213). -/
def State.removeOp (s : State) (u : EngineUnit) (id : Nat) : State :=
  let drop (t : State) (u : EngineUnit) : State := t.setQueue u ((t.queueOf u).filter fun x => x.id != id)
  match u with
  | .matrix k => drop (drop s (.matrix k)) (.matrix (otherCore k))
  | _ => drop s u

/-- Queues the record of the operation at a place of a unit's queue; its flags reach FLAGS first (R83), its locks are
released and it leaves the queue. The package has 288 clusters (R4); what a stop has saved queues nothing. -/
def execCompletionRecordQueue (unit : EngineUnit) (place : Nat) (s : State) : Host.Outcome State Fault Refusal :=
  match (s.queueOf unit)[place]? with
  | none => .next s
  | some o =>
    if !o.recordable s.time || decide (288 ≤ clusterOfUnit unit) then .next s
    else
      let s1 := (s.removeOp unit o.id).releaseLocks (clusterOfUnit unit) o.id
      let s2 := s1.updWarp o.warp fun w =>
        (({ w with flags := w.flags ||| o.flags, inFlight := w.inFlight - 1,
                   puts := if o.kind.isPut then w.puts - 1 else w.puts } : Warp).leaveBatches o.id 0).progressOver [o.id]
      .next (s2.queueRecord o.warp ⟨o.recordTag, o.kind.code, o.status, o.id⟩)

end Sys2Proof.Machine
end

