-- ==== Sys2Proof/Machine/Cells.lean ====
section
/-! DEFINITION. The arithmetic of the squarer array: cell operands (R84, R85, R88), the close (R86, R87), packed blocks and
kept positions (R74, R205, R206). -/

namespace Sys2Proof.Machine

/-! ### Element formats (R203) -/

/-- The float format of an FMT code; INT8 is no float format. -/
def matrixFmt (code : Nat) : Fmt :=
  match code with
  | 1 => .e4
  | 2 => .e5
  | 3 => .f4
  | 4 => .lg
  | 5 => .bf16
  | 6 => .f16
  | _ => .f32

/-- Bits of an element of an FMT code. -/
def fmtBits (code : Nat) : Nat :=
  match code with
  | 3 => 4
  | 5 => 16
  | 6 => 16
  | 7 => 32
  | _ => 8

/-- W of R84: 30 for BF16 and FP16, and 15 otherwise. -/
def cellWidth (code : Nat) : Nat := if code = 5 ∨ code = 6 then 30 else 15

/-! ### Cell operands (R84, R87, R88) -/

/-- A cell operand group: its integers and exponent, the positions that hold a NaN or an infinity, whether its scale makes
the block special, and the flags that each position raises. -/
structure Group where
  c : List Int
  e : Int
  specials : List Bool
  special : Bool
  flags : List Flags
  deriving DecidableEq, Repr

def Group.zero : Group := ⟨[], 0, [], false, []⟩

/-- ex(x) = ⌊log2 |x|⌋ of a nonzero finite value. -/
def FVal.ex (v : FVal) : Option Int :=
  match v with
  | .fin _ m e => if m = 0 then none else some (floorLog2 m 1 + e)
  | _ => none

/-- The largest of some exponents. -/
def largestEx (l : List (Option Int)) : Option Int :=
  l.foldl (fun best x => match best, x with
    | some b, some y => some (max b y)
    | none, y => y
    | b, none => b) none

/-- The integer of one element under an exponent m, and the flags of its conversion. -/
def cellInt (w : Nat) (m : Int) (v : FVal) : Int × Flags :=
  match v with
  | .fin n mant e =>
    if mant = 0 then (0, 0)
    else if m < floorLog2 mant 1 + e then
      (if n then -(2 ^ w - 1 : Int) else (2 ^ w - 1 : Int), fSaturated)
    else
      let (k, changed) := roundInteger rne n mant (e + ((w : Int) - 1) - m)
      (if n then -(k : Int) else (k : Int), flagIf changed fInexact ||| flagIf (k == 0) fQZero)
  | _ => (0, 0)

/-- CELLOP on a block of 16 positions: `none` is padding or a position that the packing dropped, which reads as zero. The
scale byte, where there is one, gives σ. -/
def cellOp (half : FmtHalf) (w : Nat) (scale : Option Nat) (codes : List (Option Nat)) : Group :=
  let sigma : Int := match scale with
    | some b => (b : Int) - 127
    | none => 0
  if half.fmt = 0 then
    { c := codes.map fun x => elemInt 8 true (x.getD 0), e := (w : Int) - 1 + sigma, specials := codes.map fun _ => false,
      special := scale == some 0xFF, flags := codes.map fun _ => 0 }
  else
    let z : BitVec 5 := if half.ftz then BitVec.allOnes 5 else 0
    let vals := codes.map fun x => match x with
      | some code => (matrixFmt half.fmt).read z code
      | none => (FVal.fin false 0 0, 0)
    let m : Option Int := if half.oneExp then some half.exp.toInt else largestEx (vals.map fun v => v.1.ex)
    let ints := vals.map fun v => cellInt w (m.getD 0) v.1
    { c := ints.map fun x => x.1, e := match m with
        | some x => x + sigma
        | none => 0
      specials := vals.map fun v => match v.1 with
        | .fin _ _ _ => false
        | _ => true
      special := scale == some 0xFF, flags := (vals.zip ints).map fun x => x.1.2 ||| x.2.2 }

/-- The flags of the positions that count (R82). -/
def Group.flagsAt (g : Group) (counts : Nat → Bool) : Flags :=
  ((List.range 16).filter counts).foldl (fun acc k => acc ||| listGet 0 g.flags k) 0

/-! ### The close (R86 to R88) -/

/-- The contents of a tile element: hi and lo of a CMP pair, or the FP32 value and 0. -/
abbrev Cell := Word × Word

def f32Val (w : Word) : FVal := Fmt.f32.decode w.toNat

def FVal.isFinite (v : FVal) : Bool :=
  match v with
  | .fin _ _ _ => true
  | _ => false

def FVal.isInf (v : FVal) : Bool :=
  match v with
  | .inf _ => true
  | _ => false

/-- A value rounded to nearest into FP32. -/
def f32Of (v : FVal) : Word := BitVec.ofNat 32 (Fmt.f32.result 0 0 v).1

def canonicalNaN : Word := 0x7FC00000

/-- hi and lo of an exact w: hi is w rounded once, lo what is left, +0 beside an infinity, NaN beside a NaN. -/
def pairOf (w : FVal) : Cell :=
  let hi := f32Of w
  match f32Val hi with
  | .nan _ => (canonicalNaN, canonicalNaN)
  | .inf _ => (hi, 0)
  | .fin n m e => (hi, f32Of (w.add 0 (.fin (!n) m e)).1)

/-- An exact value that is not zero was rounded to a zero. -/
def roundedAway (w : FVal) (x : Word) : Bool :=
  match w with
  | .fin _ m _ => m != 0 && x &&& 0x7FFFFFFF == 0
  | _ => false

/-- The exact sum of a close: of a cell and v, and under CMP of its pair and v; a cell that is not finite stays as it is. -/
def closeSum (cmp : Bool) (acc : Cell) (v : FVal) : FVal :=
  let a := f32Val acc.1
  if !cmp then (a.add 0 v).1 else if a.isFinite then ((a.add 0 (f32Val acc.2)).1.add 0 v).1 else a

/-- CLOSE of a value v = P 2^e into a cell, and its flags (R86). A close that rounds a sum that is not zero to zero sets *underflow* and
*inexact*, as R387 has it for closes, where R217 says that a close sets no *inexact* and R86 lists the overflow flags alone (DESIGN CHOICE,
assumption log 55). -/
def closeInto (cmp : Bool) (acc : Cell) (p : Int) (e : Int) : Cell × Flags :=
  let w := closeSum cmp acc (.fin (decide (p < 0)) p.natAbs e)
  let new : Cell := if cmp then pairOf w else (f32Of w, acc.2)
  (new, flagIf ((f32Val acc.1).isFinite && (f32Val new.1).isInf) (fOverflow ||| fAccOverflow)
    ||| flagIf ((f32Val acc.1).isFinite && roundedAway w new.1) (fUnderflow ||| fInexact))

/-- The close of a special block. -/
def closeSpecial (cmp : Bool) (acc : Cell) : Cell × Flags :=
  ((canonicalNaN, if cmp then canonicalNaN else acc.2), fBlockSpecial)

/-- P of a block over the positions combined, from the square sums: (S - ΣA² - ΣB²) / 2. -/
def squareProduct (a b : List Int) (kept : Nat → Bool) : Int :=
  let ks := (List.range 16).filter kept
  let sum (f : Nat → Int) : Int := ks.foldl (fun acc k => acc + f k * f k) 0
  let x (k : Nat) : Int := listGet 0 a k
  let y (k : Nat) : Int := listGet 0 b k
  (sum (fun k => x k + y k) - sum x - sum y) / 2

/-- The block is special for a cell. -/
def specialFor (a b : Group) (kept : Nat → Bool) : Bool :=
  a.special || b.special || (List.range 16).any fun k =>
    kept k && (listGet false a.specials k || listGet false b.specials k)

/-- The close of one block of a cell. -/
def closeBlock (cmp : Bool) (w : Nat) (a b : Group) (kept : Nat → Bool) (acc : Cell) : Cell × Flags :=
  if specialFor a b kept then closeSpecial cmp acc
  else closeInto cmp acc (squareProduct a.c b.c kept) (a.e + b.e - 2 * ((w : Int) - 1))

/-- The drain of a segment of integer-exact mode: its blocks as pairs of groups, with the positions each combines. -/
def drainSegment (cmp : Bool) (w : Nat) (l : List (Group × Group × (Nat → Bool))) (acc : Cell) : Cell × Flags :=
  if l.any fun x => specialFor x.1 x.2.1 x.2.2 then closeSpecial cmp acc
  else
    let p := l.foldl (fun (acc : Int) x => acc + squareProduct x.1.c x.2.1.c x.2.2) 0
    let e := match l with
      | x :: _ => x.1.e + x.2.1.e
      | [] => 0
    closeInto cmp acc p (e - 2 * ((w : Int) - 1))

/-! ### Sparsity (R206) -/

/-- The two positions within a group of four that KEPT names. -/
def keptPair (seed : Word) (j g : Nat) : Nat × Nat :=
  let x0 := seed ^^^ (BitVec.ofNat 32 j * 0x9E3779B9) ^^^ (BitVec.ofNat 32 g * 0x85EBCA6B)
  let x1 := x0 ^^^ (x0 >>> 16)
  let x2 := x1 * 0x7FEB352D
  let x3 := x2 ^^^ (x2 >>> 15)
  match x3.toNat % 6 with
  | 0 => (0, 1)
  | 1 => (0, 2)
  | 2 => (0, 3)
  | 3 => (1, 2)
  | 4 => (1, 3)
  | _ => (2, 3)

/-- Position k of K is kept in column j. -/
def isKept (seed : Word) (j k : Nat) : Bool :=
  let p := keptPair seed j (k / 4)
  k % 4 == p.1 || k % 4 == p.2

/-- The kept positions of block b of column j, in ascending order; every position of a dense region. -/
def keptOf (sparse : Bool) (seed : Word) (j b : Nat) : List Nat :=
  if sparse then (List.range 16).filter fun k => isKept seed j (16 * b + k) else List.range 16

/-! ### Packed blocks (R74, R205) -/

/-- Bytes of a packed block. -/
def blockBytes (fmt blk : Nat) (sparse : Bool) : Nat :=
  fmtBits fmt * (if sparse then 8 else 16) / 8 + (if blk = 16 then 1 else 0)

/-- Blocks of K. -/
def blocksOf (k : Nat) : Nat := (k + 15) / 16

/-- Bytes of a region. -/
def regionBytes (n k fmt blk : Nat) (sparse : Bool) : Nat := n * blocksOf k * blockBytes fmt blk sparse

/-- The elements of a block as packed bytes, FP4 low nibble first. -/
def packCodes (fmt : Nat) (codes : List Nat) : List Byte :=
  if fmt = 3 then
    (List.range (codes.length / 2)).map fun i =>
      BitVec.ofNat 8 (listGet 0 codes (2 * i) + 16 * listGet 0 codes (2 * i + 1))
  else codes.flatMap fun x => natBytes (fmtBits fmt / 8) x

/-- Element i of a packed block. -/
def unpackCode (fmt : Nat) (bytes : List Byte) (i : Nat) : Nat :=
  if fmt = 3 then (listGet 0 bytes (i / 2)).toNat / 16 ^ (i % 2) % 16
  else bytesNat ((bytes.drop (fmtBits fmt / 8 * i)).take (fmtBits fmt / 8))

/-- A packed block of a region as the codes of its 16 positions, dropped ones absent, and its scale byte. -/
def unpackBlock (fmt blk : Nat) (kept : List Nat) (bytes : List Byte) : List (Option Nat) × Option Nat :=
  ((List.range 16).map fun k => (kept.idxOf? k).map fun i => unpackCode fmt bytes i,
    if blk = 16 then some (listGet 0 bytes (bytes.length - 1)).toNat else none)

end Sys2Proof.Machine
end

