-- ==== Sys2Proof/Machine/Matrix.lean ====
section
/-! DEFINITION. The accumulator store and the array queue: shape records (R201, R202), format blocks (R203, R204), tiles (R207,
R208), unsettled slots (R211), `mma` and `mmas` (R213, R215 to R217), `acld` and `acst` (R220), `acrd` and `acwr` (R221),
`acop` (R222), and the events of the queue (R199, R209). -/

namespace Sys2Proof.Machine

/-! ### Shape records (R201, R202) -/

/-- The record at a scratchpad offset. -/
def shapeAt (m : Memory) (a : Nat) : Shape :=
  let w := Memory.readNat m (a + 0x1C) 4
  { base := Memory.readNat m a 8, rows := Memory.readNat m (a + 8) 4, cols := Memory.readNat m (a + 12) 4,
    vrows := Memory.readNat m (a + 16) 4, vcols := Memory.readNat m (a + 20) 4, stride := Memory.readNat m (a + 24) 4,
    layout := w % 4, space := w / 4 % 4 }

/-- A reserved bit of the record is set. -/
def shapeReserved (m : Memory) (a : Nat) : Bool := Memory.readNat m (a + 0x1C) 4 / 16 != 0

/-- Real rows under LAYOUT 0, real columns under LAYOUT 1. -/
def Shape.lines (m : Shape) : Nat := if m.layout = 1 then m.vcols else m.vrows

/-- Bytes of one real row or column of elements of z bits. -/
def Shape.lineBytes (m : Shape) (z : Nat) : Nat := ((if m.layout = 1 then m.vrows else m.vcols) * z + 7) / 8

/-- Bytes from BASE to the last real element. -/
def Shape.span (m : Shape) (z : Nat) : Nat :=
  if m.lines = 0 ∨ m.lineBytes z = 0 then 0 else (m.lines - 1) * m.stride + m.lineBytes z

/-- BASE or STRIDE is not a multiple of 4. -/
def Shape.misaligned (m : Shape) : Bool := m.base % 4 != 0 || m.stride % 4 != 0

/-- Every field lies in its range. -/
def Shape.inRange (m : Shape) (z : Nat) : Bool :=
  decide (1 ≤ m.rows ∧ m.rows ≤ 2 ^ 24 ∧ 1 ≤ m.cols ∧ m.cols ≤ 2 ^ 24 ∧ m.vrows ≤ m.rows ∧ m.vcols ≤ m.cols)
    && m.layout != 3 && m.space != 3
    && (if m.layout = 2 then m.space == 2 && m.stride == 0 else decide (m.lineBytes z ≤ m.stride))
    && (match m.space with
        | 0 => Machine.inRange m.base
        | 1 => decide (m.base < 2 ^ 32)
        | _ => m.base % 256 == 0)

/-- The element at (r, c) is real. -/
def Shape.real (m : Shape) (r c : Nat) : Bool := decide (r < m.vrows ∧ c < m.vcols)

/-- The place of element (r, c) within its line. -/
def Shape.place (m : Shape) (r c : Nat) : Nat := if m.layout = 1 then r else c

/-- The address of the first byte of element (r, c). -/
def Shape.at_ (m : Shape) (z r c : Nat) : Nat :=
  m.base + (if m.layout = 1 then c else r) * m.stride + m.place r c * z / 8

/-- The element at (r, c) from the bytes at its address. -/
def Shape.code (m : Shape) (z r c : Nat) (bytes : List Byte) : Nat :=
  if z = 4 then bytesNat bytes / 16 ^ (m.place r c % 2) % 16 else bytesNat bytes

/-- Bytes of an element of z bits at its address. -/
def elementBytes (z : Nat) : Nat := (z + 7) / 8

/-! ### Format blocks (R203, R204) -/

/-- The half at a scratchpad offset. -/
def halfAt (m : Memory) (a : Nat) : FmtHalf :=
  let b := Memory.readNat m (a + 2) 1
  { fmt := Memory.readNat m a 1, blk := Memory.readNat m (a + 1) 1, ftz := b % 2 == 1, oneExp := b / 2 % 2 == 1,
    exp := BitVec.ofNat 8 (Memory.readNat m (a + 3) 1), scale := Memory.readNat m (a + 8) 8 }

/-- The half at an offset is *format invalid* by itself. A SCALE that is not zero where no block scale is declared counts
as a reserved field that is not zero (DEDUCED). -/
def halfBad (m : Memory) (a : Nat) : Bool :=
  let h := halfAt m a
  decide (7 < h.fmt) || (h.blk != 0 && h.blk != 16) || Memory.readNat m (a + 2) 1 / 4 != 0
    || Memory.readNat m (a + 4) 4 != 0 || (h.ftz && [0, 3, 4].contains h.fmt) || (h.exp != 0 && !h.oneExp)
    || (h.blk == 16 && (h.fmt == 0 || h.oneExp)) || (h.oneExp && (h.fmt == 5 || h.fmt == 6))
    || (h.blk == 0 && h.scale != 0)

/-- The flush bits of a half: E4M3, E5M2, BF16 and FP16 have one (R203). -/
def FmtHalf.flushBits (h : FmtHalf) : BitVec 5 := if h.ftz then 0b11110 else 0

/-- The pair of halves of an `mma` is *format invalid*. -/
def formatsBad (fa fb : FmtHalf) : Bool :=
  fa.fmt == 7 || fb.fmt == 7 || fa.oneExp != fb.oneExp || cellWidth fa.fmt != cellWidth fb.fmt

/-- Integer-exact mode (R87). -/
def exactMode (fa fb : FmtHalf) : Bool := (fa.fmt == 0 && fb.fmt == 0) || (fa.oneExp && fb.oneExp)

/-! ### Tiles (R207, R208) -/

/-- The tile a descriptor names, where it is a valid one. -/
def tileOf (v : DWord) : Option Tile :=
  let t : Tile :=
    { slot := (v.extractLsb' 0 5).toNat, rows := (v.extractLsb' 5 7).toNat, cols := (v.extractLsb' 12 9).toNat,
      cmp := v.getLsbD 21, pairt := v.getLsbD 22 }
  if v.extractLsb' 23 41 = 0 ∧ t.slot ≤ 20 ∧ 1 ≤ t.rows ∧ t.rows ≤ 96 ∧ 1 ≤ t.cols ∧ t.cols ≤ 256
      ∧ (t.cmp = true → t.slot % 2 = 0 ∧ t.slot ≠ 20) ∧ t.pairt = decide (128 < t.cols) then some t
  else none

/-- The slots of a tile. -/
def Tile.slots (t : Tile) : List Nat := if t.cmp then [t.slot, t.slot + 1] else [t.slot]

/-- The core that holds column c of a tile named on a core: columns 128 and up of a pair tile lie on the follower core. -/
def Tile.coreOf (t : Tile) (core c : Nat) : Nat :=
  if t.pairt then (if c < 128 then 2 * (core / 2) else 2 * (core / 2) + 1) else core

/-- The cores that hold columns of a tile. -/
def Tile.cores (t : Tile) (core : Nat) : List Nat :=
  if t.pairt then [2 * (core / 2), 2 * (core / 2) + 1] else [core]

/-- Column c of a slot. -/
def Core.column (k : Core) (slot c : Nat) : Lanes := listGet [] (listGet [] k.tiles slot) c

def Core.setColumn (k : Core) (slot c : Nat) (l : Lanes) : Core :=
  { k with tiles := listPut [] k.tiles slot (listPut [] (listGet [] k.tiles slot) c l) }

/-- Element (r, c) of a tile. -/
def State.cell (s : State) (core : Nat) (t : Tile) (r c : Nat) : Cell :=
  let k := s.core (t.coreOf core c)
  (lane (k.column t.slot (c % 128)) r, if t.cmp then lane (k.column (t.slot + 1) (c % 128)) r else 0)

/-- Writes column c of a tile in some rows. -/
def State.setCells (s : State) (core : Nat) (t : Tile) (c : Nat) (rows : BitVec 96) (f : Nat → Cell) : State :=
  s.updCore (t.coreOf core c) fun k =>
    let k1 := k.setColumn t.slot (c % 128) (mergeLanes (k.column t.slot (c % 128)) rows fun r => (f r).1)
    if t.cmp then
      k1.setColumn (t.slot + 1) (c % 128) (mergeLanes (k1.column (t.slot + 1) (c % 128)) rows fun r => (f r).2)
    else k1

/-- The rows of a tile. -/
def Tile.rowMask (t : Tile) : BitVec 96 := maskOf fun r => decide (r < t.rows)

/-- Changes the cells of some rows of a tile, column by column, and gathers the flags. -/
def State.mapTile (s : State) (core : Nat) (t : Tile) (rows : BitVec 96) (f : Nat → Nat → Cell → Cell × Flags) :
    State × Flags :=
  (List.range t.cols).foldl (fun (acc : State × Flags) c =>
    let out := (List.range 96).map fun r =>
      if rows.getLsbD r then f r c (s.cell core t r c) else (((0, 0), 0) : Cell × Flags)
    (acc.1.setCells core t c rows fun r => (listGet ((0, 0), 0) out r).1,
      out.foldl (fun acc x => acc ||| x.2) acc.2)) (s, 0)

/-! ### Unsettled slots (R211) -/

/-- Some slot of a tile has an unsettled operation; only writers count where `writers` is set. -/
def State.unsettledOn (s : State) (core : Nat) (t : Tile) (writers : Bool) : Bool :=
  (t.cores core).any fun k => (s.core k).unsettled.any fun u => t.slots.contains u.slot && (!writers || u.writer)

/-- Marks the slots of a tile as unsettled for an operation. -/
def State.markSlots (s : State) (core : Nat) (t : Tile) (op warp : Nat) (writer : Bool) : State :=
  (t.cores core).foldl (fun acc k => acc.updCore k fun q =>
    { q with unsettled := q.unsettled ++ t.slots.map fun x =>
        { slot := x, op := op, warp := warp, writer := writer, batch := none, open_ := true } }) s

/-! ### The queue (R199) -/

/-- The queues that an operation on a tile enters have room. -/
def State.arraysFree (s : State) (core : Nat) (t : Tile) : Bool :=
  (t.cores core).all fun k => decide (s.held (.matrix k) < 8)

/-- Queues an operation of the current warp on a tile: it joins the open set, holds its locks and makes its slots
unsettled (R199, R209, R211, R212). -/
def State.queueMatrix (s : State) (w : Warp) (t : Tile) (kind : OpKind) (writer : Bool) (spans : List Span) : State :=
  if !s.arraysFree w.core t || !s.lockRoom (clusterOf w.core) spans then s.holdIssue w
  else
    let o := s.newOp w kind 0
    let s1 := { s with nextId := s.nextId + 1 }
    let s2 := (t.cores w.core).foldl (fun (acc : State) k =>
      acc.setQueue (.matrix k) (acc.queueOf (.matrix k) ++ [o])) s1
    let s3 := (s2.addLocks (clusterOf w.core) o.id spans).markSlots w.core t o.id s.cur writer
    s3.finish { w with openAll := w.openAll ++ [o.id], openOps := w.openOps ++ [o.id] }

/-- A *range conflict* by R211 writes no field of TINFO. -/
def slotConflict : Cause × TrapFields := (.rangeConflict, .none)

/-! ### Checks shared by the instructions that read records (R202, R216) -/

/-- Step 1 of R216 for one record offset. -/
def State.offsetChecks (s : State) (w : Warp) (reg : BitVec 6) : List (Bool × Cause × TrapFields) :=
  let a := (w.sreg reg).toNat
  [(a % 32 != 0, .misaligned, .memory 0 true 0), (s.beyond w a 32, .protection, .memory 0 true 5)]

/-- *Misaligned* of a record's BASE or STRIDE; SPACE is that of the record. -/
def Shape.alignCheck (m : Shape) : Bool × Cause × TrapFields :=
  (m.misaligned, .misaligned, .memory 0 (m.space != 0) 0)

/-- *Protection* of a scratchpad span of n bytes, where it has any. -/
def State.spanCheck (s : State) (w : Warp) (scratch : Bool) (a n : Nat) : Bool × Cause × TrapFields :=
  (scratch && n != 0 && s.beyond w a n, .protection, .memory 0 true 5)

/-- *Range conflict* of an operation's spans (R212, R228). -/
def State.lockCheck (s : State) (w : Warp) (spans : List Span) : Bool × Cause × TrapFields :=
  let c := spanConflict (s.cluster (clusterOf w.core)).locks spans
  (c.isSome, .rangeConflict, c.getD .none)

/-- The caravan of the warp is coupled (R177, R213). -/
def State.coupled (s : State) (w : Warp) : Bool :=
  match s.caravan? w.caravan with
  | some c => c.record.pair
  | none => false

/-! ### mma and mmas (R205, R213, R215 to R217) -/

/-- Columns of B that a core of a pair holds, from the first: all of them without PAIR. -/
def localColumns (pair leader : Bool) (n : Nat) : Nat := if !pair then n else if leader then min n 128 else n - 128

/-- The span of a B operand on a core overlaps the destination of an unfinished `wbld` (R212). -/
def Core.loading (k : Core) (base n : Nat) : Bool :=
  k.regions.any fun r => !r.entered && decide (r.offset < base + n ∧ base < r.offset + r.size)

/-- The region of a core that a B record of `n` columns matches (R205). -/
def Core.regionFor (k : Core) (b : Shape) (fb : FmtHalf) (n : Nat) : Option Region :=
  k.regions.find? fun r => r.entered && r.offset == b.base && r.k == b.rows && r.n == n && r.fmt == fb.fmt && r.blk == fb.blk

/-- Step 5 of R216: every part of B matches a region, of the packing and the seed that the instruction names. -/
def State.regionsMatch (s : State) (w : Warp) (b : Shape) (fb : FmtHalf) (sparse pair : Bool) (seed : Word) : Bool :=
  let one (k : Nat) (leader : Bool) : Option Region := (s.core k).regionFor b fb (localColumns pair leader b.cols)
  let good (r : Region) : Bool := r.sparse == sparse && (!sparse || r.seed == seed)
  b.vrows == b.rows && b.vcols == b.cols &&
    match one w.core true with
    | none => false
    | some r =>
      good r && (!pair || match one (otherCore w.core) false with
        | none => false
        | some q => good q && q.seed == r.seed)

/-- Step 3 of R216 after the alignment of the records. -/
def mmaShapesBad (ra rb : Bool) (a b : Shape) (za : Nat) (d : Option Tile) (cmp pair coupled : Bool) : Bool :=
  ra || rb || !a.inRange za || !b.inRange 0 || a.space != 1 || 1 < a.layout || b.space != 2 || b.layout != 2
    || a.cols != b.rows || 96 < a.rows || (if pair then b.cols < 129 || 256 < b.cols else 128 < b.cols) || (pair && !coupled)
    || match d with
       | none => true
       | some t => t.rows != a.rows || t.cols != b.cols || t.cmp != cmp || t.pairt != pair

/-- `mma` and `mmas`: the steps of R216, and the queue. -/
def mmaOp (op : BitVec 7) (sparse : Bool) (f : XForm) (s : State) : Host.Outcome State Fault Refusal :=
  checked (.x op 0 f 0 0) s fun w =>
    let mem := s.operandMem w
    let oa := (w.sreg f.sa).toNat
    let ob := (w.sreg f.sb).toNat
    let of_ := (w.sreg f.sf).toNat
    let a := shapeAt mem oa
    let b := shapeAt mem ob
    let fa := halfAt mem of_
    let fb := halfAt mem (of_ + 16)
    let za := fmtBits fa.fmt
    let pair := f.pair == 1
    let d := tileOf (w.spair f.sc)
    let scales := if fa.blk = 16 then a.vrows * blocksOf a.cols else 0
    let spans : List Span :=
      [⟨w.scratchSpace, a.base, a.span za, false⟩, ⟨w.scratchSpace, fa.scale, scales, false⟩]
    let seed := w.sreg f.ss
    let size (leader : Bool) : Nat := regionBytes (localColumns pair leader b.cols) b.rows fb.fmt fb.blk sparse
    s.afterChecks w
      (s.offsetChecks w f.sa ++ s.offsetChecks w f.sb ++ s.offsetChecks w f.sf ++
        [(halfBad mem of_ || halfBad mem (of_ + 16) || formatsBad fa fb || (b.space == 2 && fb.scale != 0), .formatInvalid,
           .none),
         a.alignCheck, b.alignCheck,
         (mmaShapesBad (shapeReserved mem oa) (shapeReserved mem ob) a b za d (f.cmp == 1) pair (s.coupled w),
           .shapeMismatch, .none),
         s.spanCheck w true a.base (a.span za), s.spanCheck w true fa.scale scales, s.lockCheck w spans])
      (if (s.core w.core).loading b.base (size true) || (pair && (s.core (otherCore w.core)).loading b.base (size false)) then s.holdIssue w
       else if !s.regionsMatch w b fb sparse pair seed then s.trapHere w .shapeMismatch .none
       else match d with
         | some t => s.queueMatrix w t (.mma t a b fa fb (f.zero == 1) pair sparse seed) true spans
         | none => s)

def execMma (f : XForm) (s : State) : Host.Outcome State Fault Refusal := mmaOp 0x60 false f s
def execMmas (f : XForm) (s : State) : Host.Outcome State Fault Refusal := mmaOp 0x61 true f s

/-- The block b of row i of A, from the scratchpad. -/
def groupA (mem : Memory) (a : Shape) (fa : FmtHalf) (w i b : Nat) : Group :=
  let z := fmtBits fa.fmt
  let codes := (List.range 16).map fun k =>
    if a.real i (16 * b + k) then
      some (a.code z i (16 * b + k) (Memory.readBytes mem (a.at_ z i (16 * b + k)) (elementBytes z)))
    else none
  let scale := if fa.blk = 16 ∧ i < a.vrows then some (Memory.readNat mem (fa.scale + i * blocksOf a.cols + b) 1) else none
  cellOp fa w scale codes

/-- The block b of a core's column j of B, from its weight buffer; `g` is the column's global index. -/
def groupB (weights : Memory) (b : Shape) (fb : FmtHalf) (sparse : Bool) (seed : Word) (w j g blk : Nat) : Group :=
  let n := blockBytes fb.fmt fb.blk sparse
  let bytes := Memory.readBytes weights (b.base + (j * blocksOf b.rows + blk) * n) n
  let (codes, scale) := unpackBlock fb.fmt fb.blk (keptOf sparse seed g blk) bytes
  cellOp fb w scale codes

/-- The closes of a cell from block p to block q: one for each block, or one for each segment that ends there. -/
def closeRange (exact cmp : Bool) (w p q nb : Nat) (ga gb : Nat → Group) (kept : Nat → Nat → Bool) (acc : Cell) :
    Cell × Flags :=
  if exact then
    ((List.range ((nb + 4095) / 4096)).filter fun g => decide (p < min nb (4096 * (g + 1)) ∧ min nb (4096 * (g + 1)) ≤ q)).foldl
      (fun (acc : Cell × Flags) g =>
        let bs := (List.range (min nb (4096 * (g + 1)) - 4096 * g)).map fun x =>
          (ga (4096 * g + x), gb (4096 * g + x), kept (4096 * g + x))
        let r := drainSegment cmp w bs acc.1
        (r.1, acc.2 ||| r.2)) (acc, 0)
  else
    (List.range (q - p)).foldl (fun (acc : Cell × Flags) x =>
      let r := closeBlock cmp w (ga (p + x)) (gb (p + x)) (kept (p + x)) acc.1
      (r.1, acc.2 ||| r.2)) (acc, 0)

/-- Some column of the tile keeps position k of block b of A, so that it may raise a flag (R82). -/
def keptAnywhere (sparse : Bool) (seed : Word) (cols b k : Nat) : Bool :=
  !sparse || (List.range cols).any fun j => isKept seed j (16 * b + k)

/-- Performs the blocks p to q of an `mma`: the state after and the flags (R217). -/
def State.mmaBlocks (s : State) (o : EngineOp) (t : Tile) (a b : Shape) (fa fb : FmtHalf) (zero pair sparse : Bool) (seed : Word)
    (p q : Nat) : State × Flags :=
  let w := cellWidth fa.fmt
  let nb := blocksOf a.cols
  let mem := s.scratchOf o.caravan
  let exact := exactMode fa fb
  let from_ := if exact then p / 4096 * 4096 else p
  let as := (List.range t.rows).map fun i => (List.range (q - from_)).map fun x => groupA mem a fa w i (from_ + x)
  let bs := (List.range t.cols).map fun j =>
    let weights := (s.core (if pair then t.coreOf o.core j else o.core)).weights
    (List.range (q - from_)).map fun x => groupB weights b fb sparse seed w (if pair then j % 128 else j) j (from_ + x)
  let kept (j blk k : Nat) : Bool := !sparse || isKept seed j (16 * blk + k)
  let aFlags := as.foldl (fun acc row => (List.range (q - p)).foldl (fun acc x =>
    acc ||| (listGet Group.zero row (p + x - from_)).flagsAt (keptAnywhere sparse seed t.cols (p + x))) acc) (0 : Flags)
  let bFlags := bs.foldl (fun acc col => (List.range (q - p)).foldl (fun acc x =>
    acc ||| (listGet Group.zero col (p + x - from_)).flagsAt fun _ => true) acc) (0 : Flags)
  let r := s.mapTile o.core t t.rowMask fun i j acc =>
    closeRange exact t.cmp w p q nb (fun x => listGet Group.zero (listGet [] as i) (x - from_))
      (fun x => listGet Group.zero (listGet [] bs j) (x - from_)) (kept j) (if zero && p == 0 then (0, 0) else acc)
  (r.1, r.2 ||| aFlags ||| bFlags)

/-! ### acld and acst (R220) -/

/-- The half is *format invalid* for `acld` and `acst`. -/
def tileFormatBad (h : FmtHalf) : Bool := !([1, 2, 5, 6, 7] : List Nat).contains h.fmt || h.blk != 0

/-- `acld` and `acst`: steps 1 to 5 of R216, the slots of R211 and the locks of R212. The range conflict of R211 stands behind the shapes
and before the spans, which the rules leave open (DESIGN CHOICE, assumption log 54). -/
def tileMove (op : BitVec 7) (store : Bool) (space : BitVec 1) (f : XForm) (s : State) : Host.Outcome State Fault Refusal :=
  checked (.x op ((0 : BitVec 6) ++ space) f 0 0) s fun w =>
    let mem := s.operandMem w
    let oa := (w.sreg f.sa).toNat
    let of_ := (w.sreg f.sf).toNat
    let m := shapeAt mem oa
    let h := halfAt mem of_
    let z := fmtBits h.fmt
    let pair := f.pair == 1
    let d := tileOf (w.spair f.sc)
    let scratch := m.space == 1
    let spans : List Span := [⟨if scratch then w.scratchSpace else w.memorySpace, m.base, m.span z, store⟩]
    let scale : Word := if f.sb = 0 then 0x3F800000 else w.sreg f.sb
    let tileBad := match d with
      | none => true
      | some t => t.rows != m.rows || t.cols != m.cols || t.cmp != (f.cmp == 1) || t.pairt != pair
    let busy := match d with
      | none => false
      | some t => store && s.unsettledOn w.core t true
    s.afterChecks w
      (s.offsetChecks w f.sa ++ s.offsetChecks w f.sf ++
        [(halfBad mem of_ || tileFormatBad h, .formatInvalid, .none), m.alignCheck,
         (shapeReserved mem oa || !m.inRange z || m.space != space.toNat || decide (1 < m.layout) || tileBad
           || (pair && !s.coupled w), .shapeMismatch, .none),
         (busy, slotConflict), s.spanCheck w scratch m.base (m.span z), s.lockCheck w spans])
      (match d with
       | some t => s.queueMatrix w t (if store then .acst t m h scale else .acld t m h scale) (!store) spans
       | none => s)

def execAcld (space : BitVec 1) (f : XForm) (s : State) : Host.Outcome State Fault Refusal := tileMove 0x62 false space f s
def execAcst (space : BitVec 1) (f : XForm) (s : State) : Host.Outcome State Fault Refusal := tileMove 0x63 true space f s

/-- The bytes of the real elements of a matrix, line by line, with the pieces of memory they lie in, or what an access to one of them
meets. -/
def State.readMatrix (s : State) (o : EngineOp) (m : Shape) (z : Nat) : MetSpan × List (List Byte) :=
  (List.range m.lines).foldl (fun (acc : MetSpan × List (List Byte)) i =>
    match acc.1 with
    | .go p =>
      let a := m.base + i * m.stride
      if m.space = 1 then (.go [], acc.2 ++ [Memory.readBytes (s.scratchOf o.caravan) a (m.lineBytes z)])
      else match s.meetSpan o a (m.lineBytes z) false false with
        | .go l => (.go (p ++ l), acc.2 ++ [Memory.readPieces s.mem l])
        | x => (x, acc.2)
    | _ => acc) (.go [], [])

/-- The element (r, c) of a matrix from its lines. -/
def Shape.elementOf (m : Shape) (z : Nat) (lines : List (List Byte)) (r c : Nat) : Nat :=
  let l := listGet [] lines (if m.layout = 1 then c else r)
  m.code z r c ((l.drop (m.place r c * z / 8)).take (elementBytes z))

/-- What `acld` writes to a cell. -/
def loadCell (m : Shape) (h : FmtHalf) (scale : Word) (lines : List (List Byte)) (r c : Nat) : Cell × Flags :=
  let z := fmtBits h.fmt
  if m.real r c then
    let x := (matrixFmt h.fmt).read h.flushBits (m.elementOf z lines r c)
    let p := x.1.mul (f32Val scale)
    let y := Fmt.f32.convert rne false 0 p.1
    ((BitVec.ofNat 32 y.1, 0), x.2 ||| p.2 ||| y.2)
  else ((0, 0), 0)

/-- Performs an `acld`. -/
def State.runAcld (s : State) (o : EngineOp) (t : Tile) (m : Shape) (h : FmtHalf) (scale : Word) : State × EngineOp :=
  match s.readMatrix o m (fmtBits h.fmt) with
  | (.waits x, _) => (x, o)
  | (.ends c x, _) => (x, o.finish c)
  | (.go p, lines) =>
    let r := (s.engineRead o p).mapTile o.core t t.rowMask fun i j _ => loadCell m h scale lines i j
    (r.1, { o with state := .finished, flags := o.flags ||| r.2 })

/-- What `acst` writes for a cell: its code and the flags. -/
def storeCell (cmp : Bool) (h : FmtHalf) (scale : Word) (x : Cell) : Nat × Flags :=
  let v := if cmp then (f32Val x.1).add 0 (f32Val x.2) else (f32Val x.1, 0)
  let p := v.1.mul (f32Val scale)
  let y := (matrixFmt h.fmt).convert rne false 0 p.1
  (y.1, v.2 ||| p.2 ||| y.2)

/-- The real positions of a matrix in ascending row and then ascending column. -/
def Shape.positions (m : Shape) : List (Nat × Nat) :=
  (List.range m.vrows).flatMap fun r => (List.range m.vcols).map fun c => (r, c)

/-- Writes elements in their order until a page stands in the way. -/
def State.storeElements (s : State) (o : EngineOp) (m : Shape) (z : Nat) (code : Nat → Nat → Nat) (l : List (Nat × Nat)) :
    State × EngineOp × Bool :=
  match l with
  | [] => (s, { o with state := .finished }, true)
  | (r, c) :: rest =>
    let bytes := natBytes (z / 8) (code r c)
    let a := m.at_ z r c
    if m.space = 1 then (s.scratchWrite o.caravan a bytes).storeElements o m z code rest
    else match s.meet o a true false with
      | .waits x => (x, o, false)
      | .ends st x => (x, o.finish st, true)
      | .at_ pa _ =>
        let (s1, o1) := s.engineWrite o pa bytes
        s1.storeElements o1 m z code rest

/-- Performs an `acst`; where a page is not yet translated, nothing is written and the operation waits. Where it ends with a
STATUS partway, its flags are those of every real element, also of those it does not write: R220 and R83 do not say (DESIGN
CHOICE, log 48). -/
def State.runAcst (s : State) (o : EngineOp) (t : Tile) (m : Shape) (h : FmtHalf) (scale : Word) : State × EngineOp :=
  let z := fmtBits h.fmt
  let item (r c : Nat) : Nat × Flags := storeCell t.cmp h scale (s.cell o.core t r c)
  let flags := m.positions.foldl (fun acc p => acc ||| (item p.1 p.2).2) (0 : Flags)
  let (s1, o1, done) := s.storeElements { o with flags := o.flags ||| flags } m z (fun r c => (item r c).1) m.positions
  if done then (s1, o1)
  else ({ s with dies := s1.dies, violations := s1.violations, security := s1.security, partitions := s1.partitions }, o)

/-! ### acrd and acwr (R221) -/

/-- The columns of the tile's part on the issuing core. -/
def Tile.localCols (t : Tile) (core : Nat) : Nat :=
  if t.pairt then (if core % 2 = 0 then min t.cols 128 else t.cols - 128) else t.cols

/-- Element (t, col) of the issuing core's part of a tile. -/
def State.localCell (s : State) (core : Nat) (t : Tile) (r col : Nat) : Cell :=
  (lane ((s.core core).column t.slot col) r, if t.cmp then lane ((s.core core).column (t.slot + 1) col) r else 0)

/-- One step rounded into FP32 with its flags. -/
def roundStep (x : FVal × Flags) : Word × Flags :=
  let r := Fmt.f32.result 0 0 x.1
  (BitVec.ofNat 32 r.1, x.2 ||| r.2)

/-- The value of a cell with the flags of forming it: in a CMP pair hi + lo rounded once. -/
def cellStep (cmp : Bool) (x : Cell) : Word × Flags :=
  if cmp then roundStep ((f32Val x.1).add 0 (f32Val x.2)) else (x.1, 0)

/-- The value of a cell. -/
def cellValue (cmp : Bool) (x : Cell) : Word := (cellStep cmp x).1

/-- The tile an accumulator instruction names, after its traps: *shape mismatch* of the descriptor or the column, and the
*range conflict* of R211. -/
def State.withTile (s : State) (w : Warp) (f : VForm) (column writers settle : Bool) (k : Tile → State) : State :=
  match tileOf (w.spair f.sb) with
  | none => s.trapHere w .shapeMismatch .none
  | some t =>
    if column && decide (t.localCols w.core ≤ f.ppar.toNat) then s.trapHere w .shapeMismatch .none
    else if settle && s.unsettledOn w.core t writers then s.trapHere w .rangeConflict .none
    else k t

def execAcrd (f : VForm) (s : State) : Host.Outcome State Fault Refusal :=
  checked (.v 0x64 0 f) s fun w =>
    if isNever f.pred f.pneg then s.finish w
    else
      let take := s.takes w f.pred f.pneg
      if take = 0 then (s.writeVector s.cur f.vd 0 fun _ => 0).finishCur
      else s.withTile w f true true true fun t =>
        (s.writeVector s.cur f.vd take fun r =>
          if r < t.rows then cellValue t.cmp (s.localCell w.core t r f.ppar.toNat) else 0).finishCur

def execAcwr (f : VForm) (s : State) : Host.Outcome State Fault Refusal :=
  checked (.v 0x65 0 f) s fun w =>
    let take := s.takes w f.pred f.pneg
    if take = 0 then s.finish w
    else s.withTile w f true false true fun t =>
      let rows := take &&& t.rowMask
      let col := f.ppar.toNat
      (s.updCore w.core fun k =>
        let k1 := k.setColumn t.slot col (mergeLanes (k.column t.slot col) rows (s.opA w f))
        if t.cmp then k1.setColumn (t.slot + 1) col (mergeLanes (k1.column (t.slot + 1) col) rows fun _ => 0) else k1).finish w

/-! ### acop (R222) -/

/-- A queued `acop`: B is read at issue. -/
def acopQueued (fn : Nat) (f : VForm) (s : State) : Host.Outcome State Fault Refusal :=
  checked (.v 0x66 (BitVec.ofNat 6 fn) f) s fun w =>
    let take := s.takes w f.pred f.pneg
    if take = 0 then s.finish w
    else s.withTile w f false false false fun t =>
      s.queueMatrix w t (.acop fn t (take &&& t.rowMask) (lanesOf (if fn = 0 then fun _ => 0 else s.opB w f))) true []

def execAcopZero (f : VForm) (s : State) : Host.Outcome State Fault Refusal := acopQueued 0 f s
def execAcopMulrow (f : VForm) (s : State) : Host.Outcome State Fault Refusal := acopQueued 1 f s
def execAcopAddrow (f : VForm) (s : State) : Host.Outcome State Fault Refusal := acopQueued 2 f s

/-- A queued `acop` on one cell. In a CMP pair the flags are those of the rounding of hi. -/
def acopCell (fn : Nat) (cmp : Bool) (b : Word) (x : Cell) : Cell × Flags :=
  let v := f32Val b
  let op (a : FVal) : FVal × Flags := if fn = 1 then a.mul v else a.add 0 v
  if fn = 0 then ((0, 0), 0)
  else if !cmp then
    let r := roundStep (op (f32Val x.1))
    ((r.1, x.2), r.2)
  else
    let hi := f32Val x.1
    if hi.isFinite && v.isFinite then
      let w := op (hi.add 0 (f32Val x.2)).1
      (pairOf w.1, (roundStep w).2)
    else
      let r := roundStep (op hi)
      ((r.1, if (f32Val r.1).isNaN then canonicalNaN else 0), r.2)

def State.runAcop (s : State) (o : EngineOp) (fn : Nat) (t : Tile) (rows : BitVec 96) (b : Lanes) : State × Flags :=
  s.mapTile o.core t rows fun r _ x => acopCell fn t.cmp (lane b r) x

/-- A synchronous `acop`: the value and flags of each row. -/
def acopRows (fn : BitVec 6) (f : VForm) (g : List Cell → Bool → Word × Flags) (s : State) :
    Host.Outcome State Fault Refusal :=
  checked (.v 0x66 fn f) s fun w =>
    if isNever f.pred f.pneg then s.finish w
    else
      let take := s.takes w f.pred f.pneg
      if take = 0 then (s.writeVector s.cur f.vd 0 fun _ => 0).finishCur
      else s.withTile w f false true true fun t =>
        let row (r : Nat) : Word × Flags :=
          if r < t.rows then g ((List.range t.cols).map fun c => s.cell w.core t r c) t.cmp else (0, 0)
        ((s.writeVector s.cur f.vd take fun r => (row r).1).updWarp s.cur fun x =>
          x.orFlags (flagsOver take fun r => (row r).2)).finishCur

/-- The sum of a row, one rounding for each step; in CMP the exact sum, rounded once. A signalling NaN is an operand that is one, also
where it is the row's only element (R79, R121). -/
def foldRow (l : List Cell) (cmp : Bool) : Word × Flags :=
  match l with
  | [] => (0, 0)
  | x :: rest =>
    if cmp then
      roundStep (rest.foldl (fun (acc : FVal × Flags) y =>
        let a := acc.1.add 0 (f32Val y.1)
        let b := a.1.add 0 (f32Val y.2)
        (b.1, acc.2 ||| a.2 ||| b.2)) ((f32Val x.1).add 0 (f32Val x.2)))
    else
      let r := rest.foldl (fun (acc : Word × Flags) y =>
        let a := (f32Val acc.1).add 0 (f32Val y.1)
        let b := roundStep a
        (b.1, acc.2 ||| b.2)) (x.1, (f32Val x.1).sigFlag)
      (if (f32Val r.1).isNaN then canonicalNaN else r.1, r.2)

/-- The largest element of a row under R121, with the flags of the roundings of a CMP pair. A signalling NaN is an operand that is one,
also where it is the row's only element (R79, R121). -/
def maxRow (l : List Cell) (cmp : Bool) : Word × Flags :=
  match l.map (cellStep cmp) with
  | [] => (0, 0)
  | x :: rest =>
    let r := rest.foldl (fun (acc : FVal × Flags) y =>
      let m := FVal.minMax true acc.1 (f32Val y.1)
      (m.1, acc.2 ||| y.2 ||| m.2)) (f32Val x.1, x.2 ||| (f32Val x.1).sigFlag)
    (BitVec.ofNat 32 (Fmt.f32.exact r.1), r.2)

def execAcopFold (f : VForm) (s : State) : Host.Outcome State Fault Refusal := acopRows 3 f foldRow s
def execAcopMaxrow (f : VForm) (s : State) : Host.Outcome State Fault Refusal := acopRows 4 f maxRow s

/-! ### The events of the queue (R199, R209) -/

/-- The cores whose arrays perform an operation. -/
def EngineOp.arrays (o : EngineOp) : List Nat :=
  match o.kind with
  | .mma t .. => t.cores o.core
  | .acld t .. => t.cores o.core
  | .acst t .. => t.cores o.core
  | .acop _ t .. => t.cores o.core
  | _ => [o.core]

/-- The attention engine holds the arrays of a core's cluster (R284). -/
def State.arrayHeld (s : State) (core : Nat) : Bool := (s.cluster (clusterOf core)).holding

/-- The operation is the next in the queue of every array that performs it. -/
def State.atHeads (s : State) (o : EngineOp) : Bool :=
  o.arrays.all fun k => match s.headOp (.matrix k) with
    | some x => x.id == o.id
    | none => false

/-- Changes an operation in the queues of its arrays. -/
def State.setMatrixOp (s : State) (o : EngineOp) : State := o.arrays.foldl (fun acc k => acc.setOp (.matrix k) o) s

/-- MATRIX_QUEUE_START: the next operation begins; both arrays of a pair step together. -/
def execMatrixQueueStart (core : Nat) (s : State) : Host.Outcome State Fault Refusal :=
  match s.headOp (.matrix core) with
  | none => .next s
  | some o =>
    .next (if o.state == .queued && o.kind != .hold && !s.arrayHeld core && s.atHeads o && s.mayWork o then
      s.setMatrixOp { o with state := .running } else s)

/-- Segments of integer-exact mode that end from block p to block q. -/
def closedSegments (nb p q : Nat) : Nat :=
  ((List.range ((nb + 4095) / 4096)).filter fun g => decide (p < min nb (4096 * (g + 1)) ∧ min nb (4096 * (g + 1)) ≤ q)).length

/-- The blocks an operation goes through: those of K for `mma`. -/
def EngineOp.matrixBlocks (o : EngineOp) : Nat :=
  match o.kind with
  | .mma _ a .. => blocksOf a.cols
  | _ => 0

/-- Performs an operation on, up to the block q, or to its end. The block closes that the sampler counts are those of each array, and in
integer-exact mode the drains (DESIGN CHOICE, assumption log 50). -/
def State.matrixTo (s : State) (o : EngineOp) (q : Nat) : State × EngineOp :=
  match o.kind with
  | .mma t a b fa fb zero pair sparse seed =>
    let r := s.mmaBlocks o t a b fa fb zero pair sparse seed o.progress q
    let closes := if exactMode fa fb then closedSegments (blocksOf a.cols) o.progress q else q - o.progress
    (r.1.sample (clusterOf o.core) o.ctx 5 (closes * o.arrays.length), { o with progress := q, flags := o.flags ||| r.2, state := if o.matrixBlocks ≤ q then .finished else o.state })
  | .acld t m h scale => s.runAcld o t m h scale
  | .acst t m h scale => s.runAcst o t m h scale
  | .acop fn t rows b =>
    let r := s.runAcop o fn t rows b
    (r.1, { o with flags := o.flags ||| r.2, state := .finished })
  | _ => (s, o)

/-- An operation without a record is complete when its work is done: it leaves the queues, its locks are released and its
warp's batches settle (R209, R212, R229). -/
def State.matrixDone (s : State) (core : Nat) (o : EngineOp) : State :=
  if o.state == .finished && o.kind.code == 0 then
    (((s.removeOp (.matrix core) o.id).releaseLocks (clusterOf core) o.id).updWarp o.warp fun w => w.leaveBatches o.id o.flags)
  else s

/-- MATRIX_OP_COMPLETE: the operation in progress makes its writes and is complete. -/
def execMatrixOpComplete (core : Nat) (s : State) : Host.Outcome State Fault Refusal :=
  match s.headOp (.matrix core) with
  | none => .next s
  | some o =>
    if o.state == .running && s.atHeads o && !s.arrayHeld core && s.mayWork o then
      let (s1, o1) := s.matrixTo o o.matrixBlocks
      .next ((s1.setMatrixOp o1).matrixDone core o1)
    else .next s

/-! ### wbld and the weight loader (R218, R219) -/

/-- The core whose weight buffer a `wbld` writes. -/
def loadTarget (core : Nat) (follower : Bool) : Nat := if follower then otherCore core else core

/-- A region overlaps a destination. -/
def Region.overlaps (r : Region) (dst n : Nat) : Bool := decide (r.offset < dst + n ∧ dst < r.offset + r.size)

/-- `wbld`: the traps of R218 with the steps of R216, the removals, the reserved entry, and the queue of 4 (R219). -/
def execWbld (f : EForm) (s : State) : Host.Outcome State Fault Refusal :=
  checked (.e 0x5C 0 f) s fun w =>
    let mem := s.operandMem w
    let oa := (w.sreg f.sa).toNat
    let of_ := (w.sreg f.sb).toNat
    let m := shapeAt mem oa
    let h := halfAt mem (of_ + 16)
    let z := fmtBits h.fmt
    let dst := (w.sreg f.sc).toNat
    let seed := w.sreg (f.sc + 1)
    let sparse := f.imm.getLsbD 16
    let follower := f.imm.getLsbD 17
    let scratch := m.space == 1
    let size := regionBytes m.cols m.rows h.fmt h.blk sparse
    let scales := if h.blk = 16 then m.vcols * blocksOf m.rows else 0
    let space := if scratch then w.scratchSpace else w.memorySpace
    let spans : List Span := [⟨space, m.base, m.span z, false⟩, ⟨space, h.scale, scales, false⟩]
    let target := loadTarget w.core follower
    let kept := (s.core target).regions.filter fun r => !(r.entered && r.overlaps dst size)
    s.afterChecks w
      (s.offsetChecks w f.sa ++ s.offsetChecks w f.sb ++
        [(halfBad mem (of_ + 16) || h.fmt == 7, .formatInvalid, .none), m.alignCheck,
         (shapeReserved mem oa || !m.inRange z || decide (1 < m.space) || decide (1 < m.layout) || decide (128 < m.cols)
           || (follower && !s.coupled w), .shapeMismatch, .none),
         (dst % 256 != 0, .misaligned, .memory 0 true 0),
         (decide (786432 < dst + size) || decide (32 ≤ kept.length), .shapeMismatch, .none),
         s.spanCheck w scratch m.base (m.span z), s.spanCheck w scratch h.scale scales,
         (!scratch && scales != 0 && !inRange h.scale, .protection, .memory 0 false 4), s.lockCheck w spans])
      (if 4 ≤ s.held (.loader w.core) || !s.lockRoom (clusterOf w.core) spans then s.holdIssue w
       else
         let r : Region := { offset := dst, k := m.rows, n := m.cols, fmt := h.fmt, blk := h.blk, sparse := sparse, seed := seed,
                             size := size, entered := false, op := s.nextId }
         let s1 := s.updCore target fun k => { k with regions := kept ++ [r] }
         s1.enqueue (.loader w.core) (s.newOp w (.wbld m h dst seed sparse follower) (f.imm.extractLsb' 0 16 |>.zeroExtend 32)) spans)

/-- The bytes at an address of the source of a `wbld`, with the pieces of memory they lie in. -/
def State.sourceBytes (s : State) (o : EngineOp) (space a n : Nat) : MetSpan × List Byte :=
  if space = 1 then (.go [], Memory.readBytes (s.scratchOf o.caravan) a n)
  else match s.meetSpan o a n false false with
    | .go l => (.go l, Memory.readPieces s.mem l)
    | x => (x, [])

/-- The codes of some positions of a column of the source, with the pieces of memory they lie in; padding is zero. -/
def State.sourceCodes (s : State) (o : EngineOp) (m : Shape) (z j : Nat) (ks : List Nat) : MetSpan × List Nat :=
  ks.foldl (fun (acc : MetSpan × List Nat) k =>
    match acc.1 with
    | .go p =>
      if m.real k j then
        match s.sourceBytes o m.space (m.at_ z k j) (elementBytes z) with
        | (.go q, b) => (.go (p ++ q), acc.2 ++ [m.code z k j b])
        | (x, _) => (x, acc.2)
      else (.go p, acc.2 ++ [0])
    | _ => acc) (.go [], [])

/-- An earlier queued operation still reads a region that a `wbld` overwrites (R212). -/
def State.regionRead (s : State) (target id dst size : Nat) : Bool :=
  (s.core target).matrixQueue.any fun o =>
    match o.kind with
    | .mma _ _ b _ fb _ pair sparse _ =>
      let n := regionBytes (localColumns pair (target % 2 == 0) b.cols) b.rows fb.fmt fb.blk sparse
      decide (o.id < id) && o.state != .finished && decide (b.base < dst + size ∧ dst < b.base + n)
    | _ => false

/-- A `wbld` ends with a STATUS: its reserved entry is freed, or entered where the STATUS is 0. -/
def State.endLoad (s : State) (u : EngineUnit) (o : EngineOp) (target : Nat) (status : BitVec 8) : State :=
  (s.updCore target fun k =>
    { k with regions := if status = 0 then k.regions.map fun r => if r.op = o.id then { r with entered := true } else r
                        else k.regions.filter fun r => r.op != o.id }).setOp u (o.finish status)

/-- Packs the next block of a `wbld`. -/
def State.packBlock (s : State) (u : EngineUnit) (o : EngineOp) (m : Shape) (h : FmtHalf) (dst : Nat) (seed : Word)
    (sparse follower : Bool) : State :=
  let nb := blocksOf m.rows
  let j := o.progress / nb
  let b := o.progress % nb
  let z := fmtBits h.fmt
  let target := loadTarget o.core follower
  let ks := (keptOf sparse seed (if follower then j + 128 else j) b).map fun k => 16 * b + k
  match s.sourceCodes o m z j ks with
  | (.waits t, _) => t
  | (.ends c t, _) => t.endLoad u o target c
  | (.go p, codes) =>
    let scale : MetSpan × List Byte :=
      if h.blk ≠ 16 then (.go [], []) else if j < m.vcols then s.sourceBytes o m.space (h.scale + j * nb + b) 1 else (.go [], [0])
    match scale with
    | (.waits t, _) => t
    | (.ends c t, _) => t.endLoad u o target c
    | (.go q, e) =>
      let place := dst + o.progress * blockBytes h.fmt h.blk sparse
      let s1 := (s.engineRead o (p ++ q)).updCore target fun k => { k with weights := Memory.writeBytes k.weights place (packCodes h.fmt codes ++ e) }
      let o1 : EngineOp := { o with progress := o.progress + 1, state := .running }
      if m.cols * nb ≤ o1.progress then s1.endLoad u o1 target 0 else s1.setOp u o1

/-- One block of a `wbld` of a core's loader, once no earlier operation reads the region. -/
def State.loaderUnit (s : State) (core : Nat) (o : EngineOp) : State :=
  match o.kind with
  | .wbld m h dst seed sparse follower =>
    if s.regionRead (loadTarget core follower) o.id dst (regionBytes m.cols m.rows h.fmt h.blk sparse) then s
    else s.packBlock (.loader core) o m h dst seed sparse follower
  | _ => s

/-- One block of the `wbld` at the head of a core's loader. -/
def State.loaderStep (s : State) (core : Nat) : State :=
  match s.headOp (.loader core) with
  | none => s
  | some o => if s.mayWork o then s.loaderUnit core o else s

def State.loaderSteps (s : State) (core n : Nat) : State :=
  match n with
  | 0 => s
  | k + 1 => (s.loaderStep core).loaderSteps core k

/-- WEIGHT_LOADER_RUN: the weight loader packs up to `count` blocks. -/
def execWeightLoaderRun (core count : Nat) (s : State) : Host.Outcome State Fault Refusal := .next (s.loaderSteps core count)

end Sys2Proof.Machine
end

