-- ==== Sys2Proof/Machine/Keccak.lean ====
section
/-! DEFINITION. SHA3-256 (R365, R367, R370) and KMAC128 (R331), which the spec names and does not write out: they follow the
standards it names, FIPS 202 and NIST SP 800-185 (PRESUMED, assumption log 52). -/

namespace Sys2Proof.Machine

/-! ### Keccak-f[1600] -/

/-- The 25 lanes of a Keccak state; lane (x, y) stands at place x + 5 y. -/
abbrev Keccak := List (BitVec 64)

def Keccak.lane (a : Keccak) (x y : Nat) : BitVec 64 := a.getD (x % 5 + 5 * (y % 5)) 0

/-- Builds the lanes from a function of x and y. -/
def Keccak.build (f : Nat → Nat → BitVec 64) : Keccak := (List.range 25).map fun i => f (i % 5) (i / 5)

/-- How far each lane is rotated. -/
def keccakOffsets : List Nat :=
  [0, 1, 62, 28, 27] ++ [36, 44, 6, 55, 20] ++ [3, 10, 43, 25, 39] ++ [41, 45, 15, 21, 8] ++ [18, 2, 61, 56, 14]

/-- The constants of the 24 rounds. -/
def keccakConstants : List (BitVec 64) :=
  [0x0000000000000001, 0x0000000000008082, 0x800000000000808A, 0x8000000080008000, 0x000000000000808B, 0x0000000080000001,
   0x8000000080008081, 0x8000000000008009] ++
  [0x000000000000008A, 0x0000000000000088, 0x0000000080008009, 0x000000008000000A, 0x000000008000808B, 0x800000000000008B,
   0x8000000000008089, 0x8000000000008003] ++
  [0x8000000000008002, 0x8000000000000080, 0x000000000000800A, 0x800000008000000A, 0x8000000080008081, 0x8000000000008080,
   0x0000000080000001, 0x8000000080008008]

/-- The parity of each column. -/
def Keccak.columns (a : Keccak) : List (BitVec 64) :=
  (List.range 5).map fun x => a.lane x 0 ^^^ a.lane x 1 ^^^ a.lane x 2 ^^^ a.lane x 3 ^^^ a.lane x 4

def Keccak.theta (a : Keccak) : Keccak :=
  let c := a.columns
  let d := (List.range 5).map fun x => c.getD ((x + 4) % 5) 0 ^^^ (c.getD ((x + 1) % 5) 0).rotateLeft 1
  Keccak.build fun x y => a.lane x y ^^^ d.getD x 0

/-- Rotates the lanes and puts each in its new place. -/
def Keccak.rhoPi (a : Keccak) : Keccak :=
  let b := (List.range 25).map fun i => (a.getD i 0).rotateLeft (keccakOffsets.getD i 0)
  Keccak.build fun x y => Keccak.lane b (x + 3 * y) x

def Keccak.chi (a : Keccak) : Keccak := Keccak.build fun x y => a.lane x y ^^^ (~~~(a.lane (x + 1) y) &&& a.lane (x + 2) y)

/-- One round. -/
def Keccak.round (a : Keccak) (rc : BitVec 64) : Keccak :=
  match a.theta.rhoPi.chi with
  | [] => []
  | h :: rest => (h ^^^ rc) :: rest

def Keccak.permute (a : Keccak) : Keccak := keccakConstants.foldl Keccak.round a

/-! ### The sponge -/

/-- Eight bytes of a block for each lane of the rate. -/
def Keccak.absorb (a : Keccak) (block : List Byte) : Keccak :=
  Keccak.permute ((List.range 25).map fun i => a.getD i 0 ^^^ BitVec.ofNat 64 (bytesNat ((block.drop (8 * i)).take 8)))

def Keccak.absorbAll (a : Keccak) (rate : Nat) (msg : List Byte) (blocks : Nat) : Keccak :=
  match blocks with
  | 0 => a
  | k + 1 => (a.absorb (msg.take rate)).absorbAll rate (msg.drop rate) k

/-- The bytes of a state. -/
def Keccak.bytes (a : Keccak) : List Byte := a.flatMap fun x => natBytes 8 x.toNat

/-- A message with its domain suffix, padded to whole blocks. -/
def spongePad (rate suffix : Nat) (msg : List Byte) : List Byte :=
  let n := rate - msg.length % rate
  if n = 1 then msg ++ [BitVec.ofNat 8 (suffix + 128)]
  else msg ++ [BitVec.ofNat 8 suffix] ++ List.replicate (n - 2) 0 ++ [128]

/-- The first block of output; every use here takes less. -/
def sponge (rate suffix : Nat) (msg : List Byte) : List Byte :=
  (Keccak.absorbAll (List.replicate 25 0) rate (spongePad rate suffix msg) (msg.length / rate + 1)).bytes

/-- SHA3-256 of a byte string, as the number of its bytes, the first lowest. -/
def sha3 (msg : List Byte) : BitVec 256 := BitVec.ofNat 256 (bytesNat ((sponge 136 0x06 msg).take 32))

/-! ### KMAC128 -/

/-- The bytes of a length, the highest first, without leading zeros. -/
def lengthBytes (n : Nat) : List Byte :=
  if n < 256 then [BitVec.ofNat 8 n] else (natBytes 4 n).reverse.dropWhile fun x => x == 0

def leftEncode (n : Nat) : List Byte := BitVec.ofNat 8 (lengthBytes n).length :: lengthBytes n
def rightEncode (n : Nat) : List Byte := lengthBytes n ++ [BitVec.ofNat 8 (lengthBytes n).length]

/-- A byte string with its length in bits before it. -/
def encodeString (b : List Byte) : List Byte := leftEncode (8 * b.length) ++ b

/-- A byte string padded with zeros to whole blocks of the rate, the rate before it. -/
def bytePad (rate : Nat) (b : List Byte) : List Byte :=
  let x := leftEncode rate ++ b
  x ++ List.replicate ((rate - x.length % rate) % rate) 0

/-- The first bytes of KMAC128(K, X, 256, S). -/
def kmac128 (key msg custom : List Byte) : List Byte :=
  let name : List Byte := [0x4B, 0x4D, 0x41, 0x43]
  sponge 168 0x04 (bytePad 168 (encodeString name ++ encodeString custom) ++ bytePad 168 (encodeString key) ++ msg ++ rightEncode 256)

/-- The first 8 bytes of KMAC128(K, X, 256, "RV8 PAGE"), as a number stored little-endian (R331). -/
def pageMac (key : BitVec 256) (msg : List Byte) : BitVec 64 :=
  BitVec.ofNat 64 (bytesNat ((kmac128 (natBytes 32 key.toNat) msg [0x52, 0x56, 0x38, 0x20, 0x50, 0x41, 0x47, 0x45]).take 8))

end Sys2Proof.Machine
end

