-- ==== Sys2Proof/Machine/Move.lean ====
section
/-! DEFINITION. Invalidation (R293, R301), integrity tags (R331), frame rings (R330), poison (R333) and the move of a page
between the tiers (R332, R334, R335). -/

namespace Sys2Proof.Machine

/-! ### What the tables map (R289, R290) -/

/-- The indexes of a table's entries that are not all zero: no other entry can be present. -/
def liveEntries (mem : Memory) (table : Nat) : List Nat :=
  ((mem.filter fun c => decide (table ≤ c.1 ∧ c.1 < table + 65536)).map fun c => (c.1 - table) / 8).eraseDups

/-- The entries of a table that point to tables, with their indexes. -/
def tableEntries (mem : Memory) (table : Nat) : List (Nat × Nat) :=
  (liveEntries mem table).filterMap fun i =>
    let e := Memory.readDWord mem (table + 8 * i)
    if (tableReason e).isNone then some (i, leafBase e) else none

/-- The units of 64 KiB that the tables at a root map: VA, leaf and the address of its entry. -/
def mappedUnits (mem : Memory) (root : Nat) (lpddr : Bool) : List (Nat × DWord × Nat) :=
  (tableEntries mem root).flatMap fun (i2, t1) =>
    (tableEntries mem t1).flatMap fun (i1, t0) =>
      (liveEntries mem t0).filterMap fun i0 =>
        let e := Memory.readDWord mem (t0 + 8 * i0)
        if (leafReason e false lpddr).isNone then some (i2 * 2 ^ 42 + i1 * 2 ^ 29 + i0 * 2 ^ 16, e, t0 + 8 * i0) else none

/-! ### Invalidation (R301) -/

/-- Every TLB entry of the part. -/
def State.allTlb (s : State) : List TlbEntry :=
  s.cores.flatMap (fun p => p.2.tlb) ++ s.clusters.flatMap (fun p => p.2.tlb) ++ s.dies.flatMap (fun p => p.2.tlb)

/-- A TLB entry of the context overlaps the range. -/
def TlbEntry.within (e : TlbEntry) (ctx va n : Nat) : Bool :=
  e.ctx == ctx && decide (e.va < va + n) && decide (va < e.va + e.size)

/-- Physical pages that a range of a context maps: those of its TLB entries, and those of its tables. -/
def State.pagesMapped (s : State) (ctx va n : Nat) : List (Nat × Nat) :=
  let cached := (s.allTlb.filter fun e => e.within ctx va n).map fun e => (leafBase e.leaf, pageBytes (leafSize e.leaf))
  let root := match Tbl.find s.contexts ctx with
    | some c => c.root
    | none => 0
  let walked := ((mappedUnits s.mem root s.lpddr).filter fun u => decide (u.1 < va + n ∧ va < u.1 + 65536)).map fun u =>
    (leafBase u.2.1, pageBytes (leafSize u.2.1))
  cached ++ walked

/-- An address lies in one of some physical ranges. -/
def inPages (pages : List (Nat × Nat)) (pa : Nat) : Bool := pages.any fun p => decide (p.1 ≤ pa ∧ pa < p.1 + p.2)

/-- A core without what it held of a range. -/
def Core.forget (c : Core) (ctx va n : Nat) (pages : List (Nat × Nat)) : Core :=
  { c with tlb := c.tlb.filter fun e => !(e.within ctx va n)
           l1 := c.l1.filter fun x => !(inPages pages (x.line * 128))
           constCache := c.constCache.filter fun x => !(inPages pages (x.line * 64))
           tileCache := c.tileCache.filter fun x => !(inPages pages (x.line * 128)) }

/-- A warp whose armed watches on some pages fire. -/
def Warp.fireWithin (w : Warp) (pages : List (Nat × Nat)) : Warp :=
  { w with watches := w.watches.map fun x => if inPages pages (x.line * 128) then { x with fired := true } else x }

/-- Takes a range of a context out of every TLB, and some physical pages out of every cache; watches on the pages fire. -/
def State.forgetRange (s : State) (ctx va n : Nat) (pages : List (Nat × Nat)) : State :=
  let cluster (c : Cluster) : Cluster := { c with tlb := c.tlb.filter fun e => !(e.within ctx va n) }
  let die (d : Die) : Die := { d with tlb := d.tlb.filter fun e => !(e.within ctx va n) }
  { s with cores := s.cores.map fun p => (p.1, p.2.forget ctx va n pages)
           clusters := s.clusters.map fun p => (p.1, cluster p.2)
           dies := s.dies.map fun p => (p.1, die p.2)
           warps := s.warps.map fun p => (p.1, p.2.fireWithin pages) }

/-- Invalidates a range of a context on every die. -/
def State.invalidate (s : State) (ctx va n : Nat) : State := s.forgetRange ctx va n (s.pagesMapped ctx va n)

/-- `sys.tlbinv` (R301). -/
def execSysTlbinv (f : EForm) (s : State) : Host.Outcome State Fault Refusal :=
  checked (.e 0x77 0 f) s fun w =>
    let va := (w.spair f.sa).toNat
    let n := (w.sreg f.sb).toNat
    if f.imm.getLsbD 0 then (s.invalidate w.ctx 0 (2 ^ 64)).finishCur
    else if va % 65536 ≠ 0 then s.trapHere w .misaligned .none
    else if n = 0 ∨ 2 ^ 24 < n then s.trapHere w .shapeMismatch .none
    else (s.invalidate w.ctx va (n * 65536)).finishCur

/-- `sys.feat` (R302). -/
def execSysFeat (f : EForm) (s : State) : Host.Outcome State Fault Refusal :=
  checked (.e 0x77 1 f) s fun w =>
    let v : DWord := match f.imm.toNat with
      | 0 => s.featOffer.extractLsb' 0 64
      | 1 => s.featOffer.extractLsb' 64 64
      | 2 => s.featAccept.extractLsb' 0 64
      | _ => s.featAccept.extractLsb' 64 64
    s.finish (w.setPair f.sa v)

/-! ### Integrity tags (R331) -/

/-- One bit of CRC-64/ECMA-182. -/
def crcBit (crc : BitVec 64) : BitVec 64 := if crc.getLsbD 63 then (crc <<< 1) ^^^ 0x42F0E1EBA9EA3693 else crc <<< 1

/-- One byte of the CRC, most significant bit first. -/
def crcByte (crc : BitVec 64) (b : Byte) : BitVec 64 :=
  (List.range 8).foldl (fun acc _ => crcBit acc) (crc ^^^ ((b.zeroExtend 64) <<< 56))

def crc64 (bytes : List Byte) : BitVec 64 := bytes.foldl crcByte 0

/-- The tag of a page's bytes. -/
def State.pageTag (s : State) (secure : Bool) (va : Nat) (bytes : List Byte) : BitVec 64 :=
  if secure then pageMac s.security.pageKey (natBytes 8 va ++ bytes) else crc64 bytes

/-- A key/value page's bytes with INTEG read as zero. -/
def integCleared (bytes : List Byte) : List Byte := bytes.take 0x38 ++ natBytes 8 0 ++ bytes.drop 0x40

/-! ### Memory blocks -/

/-- Memory without the cells of a block. -/
def Memory.clearBlock (m : Memory) (a n : Nat) : Memory := m.filter fun c => decide (c.1 < a ∨ a + n ≤ c.1)

/-- Copies a block, as bytes. -/
def Memory.copyBlock (m : Memory) (src dst n : Nat) : Memory :=
  (m.filter fun c => decide (src ≤ c.1 ∧ c.1 < src + n)).foldl (fun acc c => Memory.write acc (dst + (c.1 - src)) c.2)
    (Memory.clearBlock m dst n)

/-! ### Frame rings (R330) -/

/-- The ring of a tier, by its control block's address. -/
def Context.ringOf (c : Context) (promote : Bool) : Nat := if promote then c.hring else c.lring

/-- The frame at HEAD, or none where the ring is empty. -/
def ringFrame (mem : Memory) (ring : Nat) : Option Nat :=
  let head := Memory.readNat mem (ring + 16) 8
  if head = Memory.readNat mem (ring + 24) 8 then none
  else some (Memory.readNat mem (Memory.readNat mem ring 8 + 8 * (head % max 1 (Memory.readNat mem (ring + 8) 4))) 8)

/-- The ring has room for a frame. -/
def ringRoom (mem : Memory) (ring : Nat) : Bool :=
  decide (Memory.readNat mem (ring + 24) 8 < Memory.readNat mem (ring + 16) 8 + Memory.readNat mem (ring + 8) 4)

/-- Takes the frame at HEAD. -/
def State.ringTake (s : State) (ring : Nat) : State := s.homeWrite (ring + 16) (natBytes 8 (Memory.readNat s.mem (ring + 16) 8 + 1))

/-- The address of the entry at TAIL. -/
def ringTail (mem : Memory) (ring : Nat) : Nat :=
  Memory.readNat mem ring 8 + 8 * (Memory.readNat mem (ring + 24) 8 % max 1 (Memory.readNat mem (ring + 8) 4))

/-- Returns a frame at TAIL. -/
def State.ringReturn (s : State) (ring frame : Nat) : State :=
  (s.homeWrite (ringTail s.mem ring) (natBytes 8 frame)).homeWrite (ring + 24) (natBytes 8 (Memory.readNat s.mem (ring + 24) 8 + 1))

/-- The completion time of what a return of a frame writes. -/
def State.returnTime (s : State) (ring : Nat) : Nat := max (s.completionOf (ringTail s.mem ring) 8) (s.completionOf (ring + 24) 8)

/-- Frames that rings have had no room for go back to them, oldest first, while they have. -/
def State.returnOwed (s : State) : State :=
  s.owed.foldl (fun acc p =>
    if ringRoom acc.mem p.1 then acc.ringReturn p.1 p.2 else { acc with owed := acc.owed ++ [p] }) { s with owed := [] }

/-- A frame that a move has freed goes back to its ring, or waits for room there. -/
def State.giveBack (s : State) (freed : Option (Nat × Nat)) : State :=
  match freed with
  | none => s
  | some p => State.returnOwed { s with owed := s.owed ++ [p] }

/-! ### Poison (R333) -/

/-- The POISON bit is set in a leaf entry as its home holds it, and the page is invalidated; a secure page raises alarm level 1. -/
def State.poison (s : State) (ctx va leafAt : Nat) (leaf : DWord) : State :=
  let unit := va / 65536 * 65536
  let s1 := (s.homeWrite leafAt (natBytes 8 (Memory.readDWord s.mem leafAt ||| 0x200).toNat)).invalidate ctx unit 65536
  if leafSecure leaf then s1.raiseAlarm .poison 1 unit else s1

/-! ### MOVE (R332) -/

/-- A store or a waiting load of a moved page goes to its new frame. -/
def moveAddr (src dst pa : Nat) : Nat := if src ≤ pa ∧ pa < src + 65536 then dst + (pa - src) else pa

/-- A `mon` on its way watches the line that will hold what it reads (R153, R337). -/
def PendingLoad.moved (l : PendingLoad) (src dst : Nat) : PendingLoad :=
  { l with waiting := l.waiting.map fun a => { a with pa := moveAddr src dst a.pa }
           lines := l.lines.map fun k => moveAddr src dst (k * 128) / 128 }

def Warp.moved (w : Warp) (src dst : Nat) : Warp :=
  { w with stores := w.stores.map fun x => if x.done.isNone then { x with pa := moveAddr src dst x.pa } else x
           loads := w.loads.map fun l => l.moved src dst }

/-- The leaf entry of a page with a frame and a tier in it; its other bits stay. -/
def movedLeaf (leaf : DWord) (frame : Nat) (promote : Bool) : DWord :=
  let cleared := leaf &&& ~~~((0xFFFFFFFFF : DWord) <<< 16) &&& ~~~(0x40 : DWord)
  cleared ||| BitVec.ofNat 64 (frame / 65536 * 65536) ||| (if promote then 0 else 0x40)

/-- The lines of a frame are filled with the E of the lines that they replace (R327, R332); one that the L2 already held keeps a later
E. -/
def State.carryLeases (s : State) (src dst : Nat) : State :=
  (List.range 512).foldl (fun acc i =>
    acc.holdLine (dst / 128 + i) (max (acc.leaseEnd (dst / 128 + i)) (s.leaseEnd (src / 128 + i)))) s

/-- The copy of a promoted page agrees with its stored tag, or has none to agree with. Once the key store is erased no secure page
passes (R364). -/
def State.tagAgrees (s : State) (leaf : DWord) (va src : Nat) (bytes : List Byte) : Bool :=
  let secure := leafSecure leaf
  let good (stored : BitVec 64) (b : List Byte) : Bool := s.pageTag secure va b == stored
  if secure && !s.security.keysPresent then false
  else if leafClass leaf = 2 then good (BitVec.ofNat 64 (bytesNat ((bytes.drop 0x38).take 8))) (integCleared bytes)
  else match Tbl.find s.tagv (src / 65536) with
    | none => true
    | some tag => good tag bytes

/-- What a move comes to: STATUS, the largest completion time among its writes, and the frame it has freed, which is still to go back to
a ring. -/
structure Moved where
  state : State
  status : BitVec 8
  settled : Nat
  freed : Option (Nat × Nat)

/-- Moves a page of 64 KiB to the other tier, as one step but for the return of its old frame, for an operation on a core: each copy moves
512 lines to and from the homes (R299). The copy is made twice where its check fails; a second failure poisons the page and returns the
frame it took. None where the ring of the destination is empty, so that the move waits (R330). -/
def State.movePage (s : State) (core ctx va : Nat) (leaf : DWord) (leafAt : Nat) (promote : Bool) : Option Moved :=
  match Tbl.find s.contexts ctx with
  | none => none
  | some c =>
    let unit := va / 65536 * 65536
    let src := leafBase leaf
    let ring := c.ringOf promote
    match ringFrame s.mem ring with
    | none => none
    | some f =>
      let bytes := Memory.readBytes s.mem src 65536
      let ok := !promote || s.tagAgrees leaf unit src bytes
      let lines := if ok then 512 else 1024
      let s1 := ((s.moveLines core ctx lines false).moveLines core ctx lines true).ringTake ring
      let settled := max (s.completionOf leafAt 8) (s.completionOf (ring + 16) 8)
      if !ok then some ⟨(s1.ringReturn ring f).poison ctx va leafAt leaf, 1, max settled (s1.returnTime ring), none⟩
      else
        let mv (p : Nat × Warp) : Nat × Warp := (p.1, p.2.moved src f)
        let s2 := { s1 with mem := Memory.copyBlock s1.mem src f 65536, warps := s1.warps.map mv,
                            tagv := Tbl.erase s1.tagv (src / 65536) }
        let s3 := if promote then { s2 with tagv := Tbl.erase s2.tagv (f / 65536) }
          else { s2 with tagv := Tbl.put s2.tagv (f / 65536) (s.pageTag (leafSecure leaf) unit bytes) }
        let s4 := (s3.carryLeases src f).homeWrite leafAt (natBytes 8 (movedLeaf (Memory.readDWord s.mem leafAt) f promote).toNat)
        let s5 := s4.forgetRange ctx unit 65536 ([(src, 65536), (f, 65536)] ++ s4.pagesMapped ctx unit 65536)
        some ⟨s5, 0, max settled (s.completionOf f 65536), some (c.ringOf (!promote), src)⟩

/-! ### prom and dmot (R334, R335) -/

/-- The frame of `prom` and `dmot`. -/
def moveOp (fn : BitVec 7) (promote : Bool) (f : EForm) (s : State) : Host.Outcome State Fault Refusal :=
  checked (.e 0x5B fn f) s fun w =>
    let va := (w.spair f.sa).toNat
    s.afterChecks w [(va % 65536 != 0, .misaligned, .memory 0 false 0), (!inRange va, .protection, .memory 0 false 4)]
      (s.issueOp w (.copy w.core) 8 (.move va promote) f.imm [])

def execProm (f : EForm) (s : State) : Host.Outcome State Fault Refusal := moveOp 0 true f s

def execDmot (f : EForm) (s : State) : Host.Outcome State Fault Refusal := moveOp 1 false f s

/-- The end of a move that has made its copy and holds the frame it freed: the frame goes back to its ring once that has room, and then
the operation's work is done (R330, R332). -/
def State.endMove (s : State) (u : EngineUnit) (o : EngineOp) (ring frame : Nat) : State :=
  if ringRoom s.mem ring then
    (s.ringReturn ring frame).setOp u { o with state := .finished, settled := max o.settled (s.returnTime ring) }
  else s.setOp u { o with state := .running, progress := 1, pages := [(ring, frame)] }

/-- Another move of the page has begun and is not yet done (R335). -/
def State.moving (s : State) (ctx va : Nat) : Bool :=
  s.cores.any fun k => k.2.copyQueue.any fun x => x.ctx == ctx && x.state == .running && match x.kind with
    | .move p _ => p / 65536 == va / 65536
    | _ => false

/-- Performs a queued move under the table of R335. -/
def State.runMove (s : State) (u : EngineUnit) (o : EngineOp) (va : Nat) (promote : Bool) : State :=
  match decide (o.progress = 1), o.pages with
  | true, (ring, frame) :: _ => s.endMove u o ring frame
  | _, _ =>
  if !inRange va then s.setOp u (o.finish 3)
  else if o.pages.contains (o.ctx, va / 65536) then s.setOp u (o.finish 2)
  else if s.walking (.engine o.id) || s.moving o.ctx va then s
  else match s.translated o.core o.ctx va false with
  | none => s.requestWalk ⟨o.core, o.ctx, va, .engine, .engine o.id⟩
  | some e =>
    let leaf := e.leaf
    if leafSecure leaf && !s.ctxSecure o.ctx then s.worldViolation.setOp u (o.finish 3)
    else if leafSize leaf ≠ 0 then s.setOp u (o.finish 3)
    else if leafPoison leaf then s.setOp u (o.finish 1)
    else if leafTier leaf = !promote then s.setOp u (o.finish 0)
    else match s.movePage o.core o.ctx va leaf e.leafAt promote with
      | none => s
      | some m =>
        let o1 := { o with status := m.status, settled := m.settled }
        match m.freed with
        | some (ring, frame) => m.state.endMove u o1 ring frame
        | none => m.state.setOp u (o1.finish m.status)

/-- PAGE_MOVE: the copy engine of a unit comes to a move and performs it. -/
def execPageMove (unit : EngineUnit) (s : State) : Host.Outcome State Fault Refusal :=
  match s.headOp unit with
  | none => .next s
  | some o =>
    match o.kind with
    | .move va promote => .next (if s.mayWork o then s.returnOwed.runMove unit o va promote else s)
    | _ => .next s

end Sys2Proof.Machine
end

