-- ==== Sys2Proof/Machine/KeyPages.lean ====
section
/-! DEFINITION. Key/value pages and the selection unit: page headers and summaries (R261 to R263, R268), `kapp` (R269, R270),
`ksum` (R271), `ksel` (R272 to R275), and the unit's event (R265, R266). -/

namespace Sys2Proof.Machine

/-! ### Formats and limits (R261) -/

/-- Bytes of an element of a page format. -/
def keyBytes (fmt : Nat) : Nat := fmtBits fmt / 8

/-- The formats keys, values and queries may have (R262). -/
def keyFormat (fmt : Nat) : Bool := [1, 2, 5, 6].contains fmt

def headDim (hdim : Nat) : Bool := hdim % 16 == 0 && decide (16 ≤ hdim ∧ hdim ≤ 256)

/-- VOFF of a page. -/
def valueOffset (kfmt hdim cap : Nat) : Nat := 0x1000 + cap * hdim * keyBytes kfmt

/-- Formats and limits of a page are those R261 and R262 allow. -/
def pageLimits (kfmt vfmt sfmt hdim cap : Nat) : Bool :=
  keyFormat kfmt && keyFormat vfmt && sfmt == 5 && headDim hdim
    && decide (1 ≤ cap ∧ cap ≤ 61440 / (hdim * (keyBytes kfmt + keyBytes vfmt)))

/-- Operand conversion of keys, values and queries: no block scale, no flush. -/
def plainHalf (fmt : Nat) : FmtHalf := ⟨fmt, 0, false, false, 0, 0⟩

/-! ### Headers (R262) -/

structure KeyHeader where
  kfmt : Nat
  vfmt : Nat
  svalid : Bool
  hdim : Nat
  count : Nat
  cap : Nat
  pos0 : Nat
  seqid : Nat
  next : Nat
  min : List Nat
  max : List Nat
  deriving DecidableEq, Repr

/-- A field of a byte string. -/
def field (b : List Byte) (off n : Nat) : Nat := bytesNat ((b.drop off).take n)

/-- The BF16 codes of a summary region. -/
def summaryOf (b : List Byte) (off : Nat) : List Nat := (List.range 256).map fun c => field b (off + 2 * c) 2

/-- The header in the first 4 KiB of a page, or none where it is bad. -/
def headerOf (b : List Byte) : Option KeyHeader :=
  let h : KeyHeader :=
    { kfmt := field b 4 1, vfmt := field b 5 1, svalid := field b 7 1 == 1, hdim := field b 8 2, count := field b 0xC 4,
      cap := field b 0x10 4, pos0 := field b 0x18 8, seqid := field b 0x20 8, next := field b 0x28 8,
      min := summaryOf b 0x400, max := summaryOf b 0x600 }
  let zero (off n : Nat) : Bool := field b off n == 0
  if field b 0 4 == 0x5A8E4B76 && decide (field b 7 1 ≤ 1) && zero 0xA 2 && zero 0x14 4 && zero 0x34 4 && zero 0x40 0x3C0
      && zero 0x800 0x800 && pageLimits h.kfmt h.vfmt (field b 6 1) h.hdim h.cap
      && field b 0x30 4 == valueOffset h.kfmt h.hdim h.cap && decide (h.count ≤ h.cap) then some h
  else none

/-- The 4 KiB of a header with an integrity tag. -/
def KeyHeader.bytes (h : KeyHeader) (integ : Nat) : List Byte :=
  natBytes 4 0x5A8E4B76 ++ natBytes 1 h.kfmt ++ natBytes 1 h.vfmt ++ natBytes 1 5 ++ natBytes 1 (if h.svalid then 1 else 0)
    ++ natBytes 2 h.hdim ++ natBytes 2 0 ++ natBytes 4 h.count ++ natBytes 4 h.cap ++ natBytes 4 0 ++ natBytes 8 h.pos0
    ++ natBytes 8 h.seqid ++ natBytes 8 h.next ++ natBytes 4 (valueOffset h.kfmt h.hdim h.cap) ++ natBytes 4 0
    ++ natBytes 8 integ ++ natBytes 0x3C0 0 ++ h.min.flatMap (fun x => natBytes 2 x) ++ h.max.flatMap (fun x => natBytes 2 x)
    ++ natBytes 0x800 0

/-! ### Summaries (R263) -/

/-- A summary of no tokens: channels at or above HDIM hold zero. -/
def emptySummary (hdim code : Nat) : List Nat := (List.range 256).map fun c => if c < hdim then code else 0

def KeyHeader.cleared (h : KeyHeader) : KeyHeader :=
  { h with svalid := true, min := emptySummary h.hdim 0x7F80, max := emptySummary h.hdim 0xFF80 }

/-- A BF16 minimum or maximum with a key element rounded outward. -/
def bound16 (takeMax : Bool) (old : Nat) (k : FVal) : Nat :=
  let r := Fmt.bf16.decode (Fmt.bf16.result (if takeMax then 2 else 3) 0 k).1
  Fmt.bf16.exact (FVal.minMax takeMax (Fmt.bf16.decode old) r).1

/-- Takes a key element of channel c into the summary; a NaN clears SVALID. -/
def KeyHeader.takeKey (h : KeyHeader) (c : Nat) (k : FVal) : KeyHeader :=
  if k.isNaN then { h with svalid := false }
  else { h with min := listPut 0 h.min c (bound16 false (listGet 0 h.min c) k),
                max := listPut 0 h.max c (bound16 true (listGet 0 h.max c) k) }

/-- Takes the keys of some tokens, given as their bytes. -/
def KeyHeader.takeKeys (h : KeyHeader) (bytes : List Byte) : KeyHeader :=
  let n := keyBytes h.kfmt
  (List.range (bytes.length / n)).foldl (fun acc i =>
    acc.takeKey (i % h.hdim) ((matrixFmt h.kfmt).decode (field bytes (n * i) n))) h

/-! ### The header step (R268, R331) -/

/-- Writes a page's header with INTEG recomputed over the page. -/
def State.putHeader (s : State) (o : EngineOp) (pa va : Nat) (secure : Bool) (h : KeyHeader) : State × EngineOp :=
  let page := h.bytes 0 ++ Memory.readBytes s.mem (pa + 0x1000) 0xF000
  s.engineWrite o pa (h.bytes (s.pageTag secure va page).toNat)

/-- The lowest nonzero of two STATUS codes (R267). -/
def worse (a b : BitVec 8) : BitVec 8 := if a = 0 then b else if b = 0 then a else if a.toNat ≤ b.toNat then a else b

/-! ### kapp (R269, R270) -/

/-- The source span of a `kapp` at issue: under INIT its real one; otherwise the largest, clipped at the allotment. -/
def appendSpan (init : Bool) (n hdim kfmt vfmt src allotment : Nat) : Nat :=
  if init then n * hdim * (keyBytes kfmt + keyBytes vfmt)
  else min (n * 1024) (allotment - src)

def execKapp (f : EForm) (s : State) : Host.Outcome State Fault Refusal :=
  checked (.e 0x69 0 f) s fun w =>
    let va := (w.spair f.sa).toNat
    let off := (w.sreg f.sb).toNat
    let b := Memory.readBytes (s.operandMem w) off 64
    let fl := field b 8 4
    let r : KappReq :=
      { block := off, page := va, src := field b 0 4, n := field b 4 4, init := fl % 2 == 1, link := fl / 2 % 2 == 1,
        kfmt := field b 0xC 1, vfmt := field b 0xD 1, sfmt := field b 0xE 1, hdim := field b 0x10 2, cap := field b 0x14 4,
        pos0 := field b 0x18 8, seqid := field b 0x20 8, prev := field b 0x28 8 }
    let span := appendSpan r.init r.n r.hdim r.kfmt r.vfmt r.src (s.allotment w)
    let unused := !r.init && (field b 0xC 3 != 0 || r.hdim != 0 || field b 0x14 0x14 != 0)
    s.afterChecks w
      [(va % 65536 != 0, .misaligned, .memory 0 false 0), (off % 64 != 0, .misaligned, .memory 0 true 0),
       (!inRange va, .protection, .memory 0 false 4), (s.beyond w off 64, .protection, .memory 0 true 5),
       (fl / 4 != 0 || field b 0xF 1 != 0 || field b 0x12 2 != 0 || decide (256 < r.n) || unused || (!r.link && r.prev != 0),
         .shapeMismatch, .none),
       (r.init && !pageLimits r.kfmt r.vfmt r.sfmt r.hdim r.cap, .formatInvalid, .none),
       (r.src % 16 != 0, .misaligned, .memory 0 true 0), s.spanCheck w true r.src span]
      (s.issueOp w (.selection (clusterOf w.core)) 8 (.kapp r) f.imm
        [⟨w.scratchSpace, r.src, span, false⟩, ⟨w.scratchSpace, off, 64, true⟩])

/-- The result fields of an append block; the operation's work is done. -/
def State.endAppend (s : State) (u : EngineUnit) (o : EngineOp) (block result appended count : Nat) (status : BitVec 8) : State :=
  (s.scratchWrite o.caravan (block + 0x30) (natBytes 4 result ++ natBytes 4 appended ++ natBytes 4 count ++ natBytes 4 0)).setOp
    u (o.finish status)

/-- The header a `kapp` starts from. -/
def KappReq.header (r : KappReq) (mem : Memory) (pa : Nat) : Option KeyHeader :=
  if r.init then
    some { kfmt := r.kfmt, vfmt := r.vfmt, svalid := true, hdim := r.hdim, count := 0, cap := r.cap, pos0 := r.pos0,
           seqid := r.seqid, next := 0, min := emptySummary r.hdim 0x7F80, max := emptySummary r.hdim 0xFF80 }
  else headerOf (Memory.readBytes mem pa 4096)

/-- Scratchpad bytes of an operation's caravan. -/
def State.allotmentOf (s : State) (caravan : Nat) : Nat :=
  match s.caravan? caravan with
  | some c => c.record.scratch
  | none => 0

/-- The writes of a `kapp` that nothing stands against: body, header, and the predecessor's link. -/
def State.append (s : State) (u : EngineUnit) (o : EngineOp) (r : KappReq) (pa : Nat) (secure : Bool) (h : KeyHeader)
    (prev : Option (Nat × Bool)) : State :=
  let kn := r.n * h.hdim * keyBytes h.kfmt
  let vn := r.n * h.hdim * keyBytes h.vfmt
  let data := Memory.readBytes (s.scratchOf o.caravan) r.src (kn + vn)
  let (s1, o1) := s.engineWrite o (pa + 0x1000 + h.count * h.hdim * keyBytes h.kfmt) (data.take kn)
  let (s2, o2) := s1.engineWrite o1 (pa + valueOffset h.kfmt h.hdim h.cap + h.count * h.hdim * keyBytes h.vfmt) (data.drop kn)
  let (s3, o3) := s2.putHeader o2 pa r.page secure { h.takeKeys (data.take kn) with count := h.count + r.n }
  let (s4, o4) := match prev with
    | none => (s3, o3)
    | some (ppa, psec) =>
      match headerOf (Memory.readBytes s3.mem ppa 4096) with
      | some q => s3.putHeader o3 ppa r.prev psec { q with next := r.page }
      | none => (s3, o3)
  s4.endAppend u o4 r.block 0 r.n (h.count + r.n) 0

/-- The last check of a `kapp`, of the page PREV that LINK names, and the append. -/
def State.linkAppend (s : State) (u : EngineUnit) (o : EngineOp) (r : KappReq) (pa : Nat) (secure : Bool) (h : KeyHeader)
    (count : Nat) : State :=
  if !r.link then (s.engineRead o [(pa, 4096)]).append u o r pa secure h none
  else if r.prev % 65536 != 0 then s.endAppend u o r.block 3 0 count 0
  else match s.meet o r.prev true true with
    | .waits t => t
    | .ends c t => t.endAppend u o r.block 2 0 count c
    | .at_ ppa pleaf =>
      match headerOf (Memory.readBytes s.mem ppa 4096) with
      | none => s.endAppend u o r.block 3 0 count 0
      | some q =>
        if q.next != 0 then s.endAppend u o r.block 3 0 count 0
        else (s.engineRead o [(pa, 4096), (ppa, 4096)]).append u o r pa secure h (some (ppa, leafSecure pleaf))

/-- Performs a `kapp` as one step. Where it writes nothing, COUNT is what the page's field holds, and a free value where the page
cannot be read (log 49). -/
def State.runKapp (s : State) (u : EngineUnit) (o : EngineOp) (r : KappReq) : State :=
  match s.meet o r.page true true with
  | .waits t => t
  | .ends c t => t.endAppend u o r.block 2 0 (Config.unreadCount o.id).toNat c
  | .at_ pa leaf =>
    let count := Memory.readNat s.mem (pa + 0xC) 4
    match r.header s.mem pa with
    | none => s.endAppend u o r.block 2 0 count 0
    | some h =>
      if h.cap < h.count + r.n then s.endAppend u o r.block 1 0 count 0
      else if !r.init && decide (s.allotmentOf o.caravan < r.src + r.n * h.hdim * (keyBytes h.kfmt + keyBytes h.vfmt)) then
        s.endAppend u o r.block 4 0 count 3
      else s.linkAppend u o r pa (leafSecure leaf) h count

/-! ### ksum (R271) -/

def execKsum (f : EForm) (s : State) : Host.Outcome State Fault Refusal :=
  checked (.e 0x6C 0 f) s fun w =>
    let va := (w.spair f.sa).toNat
    let off := (w.sreg f.sb).toNat
    s.afterChecks w
      [(va % 65536 != 0, .misaligned, .memory 0 false 0), (off % 4 != 0, .misaligned, .memory 0 true 0),
       (!inRange va, .protection, .memory 0 false 4), (s.beyond w off 4, .protection, .memory 0 true 5)]
      (s.issueOp w (.selection (clusterOf w.core)) 8 (.ksum va off) f.imm [⟨w.scratchSpace, off, 4, true⟩])

/-- The result word of a `ksum`; the operation's work is done. -/
def State.endSum (s : State) (u : EngineUnit) (o : EngineOp) (at_ result : Nat) (status : BitVec 8) : State :=
  (s.scratchWrite o.caravan at_ (natBytes 4 result)).setOp u (o.finish status)

/-- Performs a `ksum` as one step. -/
def State.runKsum (s : State) (u : EngineUnit) (o : EngineOp) (page at_ : Nat) : State :=
  match s.meet o page true true with
  | .waits t => t
  | .ends c t => t.endSum u o at_ 2 c
  | .at_ pa leaf =>
    match headerOf (Memory.readBytes s.mem pa 4096) with
    | none => s.endSum u o at_ 2 0
    | some h =>
      let keys := Memory.readBytes s.mem (pa + 0x1000) (h.count * h.hdim * keyBytes h.kfmt)
      let (s1, o1) := (s.engineRead o [(pa, 4096), (pa + 0x1000, keys.length)]).putHeader o pa page (leafSecure leaf) (h.cleared.takeKeys keys)
      s1.endSum u o1 at_ 0 0

/-! ### ksel (R272 to R275) -/

def execKsel (f : EForm) (s : State) : Host.Outcome State Fault Refusal :=
  checked (.e 0x6A 0 f) s fun w =>
    let off := (w.sreg f.sa).toNat
    let b := Memory.readBytes (s.operandMem w) off 64
    let r : KselReq :=
      { block := off, qoff := field b 0 4, nq := field b 4 2, hdim := field b 6 2, addr := field b 8 8, n := field b 0x10 4,
        mode := field b 0x14 1, top := field b 0x15 1 == 1, limit := BitVec.ofNat 32 (field b 0x18 4), waddr := field b 0x20 8 }
    let qn := 4 * r.nq * r.hdim
    let bad := !(decide (1 ≤ r.nq ∧ r.nq ≤ 96)) || !headDim r.hdim || decide (2 ^ 20 < r.n) || decide (1 < r.mode)
      || decide (1 < field b 0x15 1) || field b 0x16 2 != 0 || field b 0x1C 4 != 0
      || (r.top && !(decide (1 ≤ r.limit.toNat ∧ r.limit.toNat ≤ 256)))
    s.afterChecks w
      [(off % 64 != 0, .misaligned, .memory 0 true 0), (s.beyond w off 64, .protection, .memory 0 true 5),
       (bad, .shapeMismatch, .none), (r.qoff % 4 != 0, .misaligned, .memory 0 true 0),
       (r.waddr % 16 != 0, .misaligned, .memory 0 false 0), (outOfRange r.waddr 4096, .protection, .memory 0 false 4),
       s.spanCheck w true r.qoff qn]
      (s.issueOp w (.selection (clusterOf w.core)) 8 (.ksel r) f.imm
        [⟨w.scratchSpace, r.qoff, qn, false⟩, ⟨w.scratchSpace, off, 64, true⟩, ⟨w.memorySpace, r.waddr, 4096, true⟩]
        fun t o => (t, { o with cursor := r.addr }))

/-- A value rounded toward +∞ into FP32. -/
def roundUp (v : FVal) : FVal := Fmt.f32.decode (Fmt.f32.result 2 0 v).1

/-- The larger of two values; a NaN stays (R273: a bound that is NaN counts as +∞). -/
def largerOf (a b : FVal) : FVal := if a.isNaN || b.isNaN then .nan false else (FVal.minMax true a b).1

/-- BOUND(q, p) of a query against a header. -/
def boundOf (h : KeyHeader) (hdim : Nat) (q : Nat → FVal) : FVal :=
  (List.range hdim).foldl (fun acc c =>
    let lo := roundUp ((q c).mul (Fmt.bf16.decode (listGet 0 h.min c))).1
    let hi := roundUp ((q c).mul (Fmt.bf16.decode (listGet 0 h.max c))).1
    let t := largerOf lo hi
    if c = 0 then t else roundUp (acc.add 2 t).1) (.fin false 0 0)

/-- bound(p) as an f32 code: +∞ where SVALID is 0 or the bound is NaN. -/
def pageBound (scratch : Memory) (r : KselReq) (h : KeyHeader) : Nat :=
  let q (i c : Nat) : FVal := Fmt.f32.decode (Memory.readNat scratch (r.qoff + 4 * (i * r.hdim + c)) 4)
  let best := (List.range r.nq).foldl (fun acc i =>
    let x := boundOf h r.hdim (q i)
    if i = 0 then x else largerOf acc x) (.fin false 0 0)
  if !h.svalid || best.isNaN then 0x7F800000 else Fmt.f32.exact best

/-- A page bounded by a `ksel`: its place among the candidates, VA, bound and INDEX. -/
structure Candidate where
  va : Nat
  bound : Nat
  index : Nat
  deriving DecidableEq, Repr

/-- Candidates are kept as waybill records (R274). -/
def Candidate.bytes (c : Candidate) : List Byte := natBytes 8 c.va ++ natBytes 4 c.bound ++ natBytes 4 c.index

def candidatesOf (b : List Byte) : List Candidate :=
  (List.range (b.length / 16)).map fun i => ⟨field b (16 * i) 8, field b (16 * i + 8) 4, field b (16 * i + 12) 4⟩

/-- a comes before b among candidates in descending bound, the earlier in source order first. -/
def Candidate.ahead (a b : Candidate) : Bool :=
  let x := Fmt.f32.decode a.bound
  let y := Fmt.f32.decode b.bound
  y.less x || (x.equal y && decide (a.index < b.index))

/-- Sorts candidates in descending bound. -/
def byBound (l : List Candidate) : List Candidate :=
  l.foldl (fun acc c => acc.takeWhile (fun x => x.ahead c) ++ c :: acc.dropWhile (fun x => x.ahead c)) []

/-- The pages selected (R274), in source order. -/
def selectPages (r : KselReq) (l : List Candidate) : List Candidate :=
  match l with
  | [] => []
  | first :: rest =>
    let last := rest.getLast?.getD first
    let isForced (c : Candidate) : Bool := c.index == first.index || c.index == last.index
    let forced := l.filter isForced
    let others := byBound (l.filter fun c => !isForced c)
    let t := Fmt.f32.decode r.limit.toNat
    let taken := if r.top then others.take (r.limit.toNat - forced.length)
      else others.filter fun c => t.less (Fmt.f32.decode c.bound) || t.equal (Fmt.f32.decode c.bound)
    let kept := taken.take (256 - forced.length)
    l.filter fun c => isForced c || kept.contains c

/-- The largest bound of the rejected pages, or -∞. -/
def rejectedMax (l chosen : List Candidate) : Nat :=
  match byBound (l.filter fun c => !chosen.contains c) with
  | c :: _ => c.bound
  | [] => 0xFF800000

/-- What a unit finds at a page of a key source: the pieces of memory that hold its header and the header, or the STATUS that makes the
page unusable. -/
inductive Visit
  | page (pieces : List (Nat × Nat)) (h : Option KeyHeader)
  | fails (status : BitVec 8) (s : State)
  | waits (s : State)

/-- A snapshot of the header at a VA (R268). -/
def State.visit? (s : State) (o : EngineOp) (va : Nat) : Visit :=
  match s.meetSpan o va 4096 false false with
  | .go l => .page l (headerOf (Memory.readPieces s.mem l))
  | .ends c t => .fails c t
  | .waits t => .waits t

/-- The entry of a table of a key source at an address: where it lies and the page's VA, or the STATUS that makes it unreadable (R264). -/
def State.entry? (s : State) (o : EngineOp) (at_ : Nat) : MetSpan × Nat :=
  match s.meetSpan o at_ 8 false false with
  | .go l => (.go l, bytesNat (Memory.readPieces s.mem l))
  | x => (x, 0)

/-- A page of the walk is unusable: the first one decides RESULT and LOSTVA. A chain ends there. -/
def EngineOp.unusable (o : EngineOp) (chain : Bool) (va : Nat) (status : BitVec 8) : EngineOp :=
  { o with progress := o.progress + 1, status := worse o.status status, cursor := if chain then 0 else o.cursor,
           result := if o.result = 0 then (if status = 1 then 3 else 2) else o.result,
           lost := if o.result = 0 then va else o.lost }

/-- Visits the page at a VA, the next in source order, whose entry of a table or waybill has been read from some pieces of memory. -/
def State.boundPage (s : State) (u : EngineUnit) (o : EngineOp) (r : KselReq) (entry : List (Nat × Nat)) (va : Nat) : State :=
  let chain := r.mode == 0
  match s.visit? o va with
  | .waits t => t
  | .fails c t => (t.engineRead o entry).setOp u (o.unusable chain va c)
  | .page l none => (s.engineRead o (entry ++ l)).setOp u (o.unusable chain va 0)
  | .page l (some h) =>
    let o1 := { o with progress := o.progress + 1, cursor := if chain then h.next else o.cursor }
    let s1 := s.engineRead o (entry ++ l)
    if h.count = 0 then s1.setOp u o1
    else
      let c : Candidate := ⟨va, pageBound (s.scratchOf o.caravan) r h, o.progress⟩
      s1.setOp u { o1 with data := o.data ++ c.bytes }

/-- The walk of a `ksel` is over. -/
def EngineOp.walkOver (o : EngineOp) (r : KselReq) : Bool :=
  r.addr == 0 || decide (r.n ≤ o.progress) || (r.mode == 0 && o.cursor == 0)

/-- Writes the waybill and the block's results; the operation's work is done. Where the second page of the waybill stands in the way, the
records before it are written, as R230 has it for a copy (DEDUCED); COUNT is the number of records written. -/
def State.endSelect (s : State) (u : EngineUnit) (o : EngineOp) (r : KselReq) : State :=
  let l := candidatesOf o.data
  let chosen := selectPages r l
  let records := chosen.flatMap Candidate.bytes
  let limited := r.mode == 0 && r.addr != 0 && r.n != 0 && decide (r.n ≤ o.progress) && o.cursor != 0
  let result := if o.result = 0 && limited then 1 else o.result
  let done (t : State) (x : EngineOp) (count : Nat) (c : BitVec 8) : State :=
    (t.scratchWrite o.caravan (r.block + 0x28) (natBytes 4 count ++ natBytes 4 (rejectedMax l chosen) ++ natBytes 4 l.length
      ++ natBytes 4 result ++ natBytes 8 o.lost)).setOp u (x.finish (worse x.status c))
  match s.meetSpan o r.waddr records.length true false with
  | .waits t => t
  | .go p =>
    let (s1, o1) := s.enginePieces o p records
    done s1 o1 chosen.length 0
  | .ends c t =>
    match s.meet o r.waddr true false with
    | .at_ pa _ =>
      let n := min records.length (65536 - r.waddr % 65536)
      let (s1, o1) := t.engineWrite o pa (records.take n)
      done s1 o1 (n / 16) c
    | _ => done t o 0 c

/-- One step of a `ksel`: the next page in source order, or its end. -/
def State.selectStep (s : State) (u : EngineUnit) (o0 : EngineOp) (r : KselReq) : State :=
  let o := { o0 with state := .running }
  if o.walkOver r then s.endSelect u o r
  else if r.mode = 0 then s.boundPage u o r [] o.cursor
  else
    let at_ := r.addr + 8 * o.progress
    match s.entry? o at_ with
    | (.waits t, _) => t
    | (.ends c t, _) => t.setOp u (o.unusable false at_ c)
    | (.go l, va) => s.boundPage u o r l va

/-- SELECTION_UNIT_RUN: the unit performs the next `kapp` or `ksum`, or takes the next step of a `ksel`. A `kapp` or `ksum`
that has begun is never held up by a halt line (R266). -/
def execSelectionUnitRun (cluster : Nat) (s : State) : Host.Outcome State Fault Refusal :=
  match s.headOp (.selection cluster) with
  | none => .next s
  | some o =>
    if !s.mayWork o then .next s
    else match o.kind with
      | .kapp r => .next (s.runKapp (.selection cluster) o r)
      | .ksum page at_ => .next (s.runKsum (.selection cluster) o page at_)
      | .ksel r => .next (s.selectStep (.selection cluster) o r)
      | _ => .next s

end Sys2Proof.Machine
end

