-- ==== Sys2Proof/Machine/Special.lean ====
section
/-! DEFINITION. The special functions (R128, R129) and the activation table lookup (R130). -/

namespace Sys2Proof.Machine

/-! ### Fixed-point values with `fixBits` fraction bits -/

/-- Fraction bits of the approximations: their error lies below 2^-300, far below the distance of any of these
functions of a binary32 argument from a rounding boundary (DEDUCED, assumption log 13). -/
def fixBits : Nat := 320

def fixOne : Nat := 2 ^ fixBits

/-- The integer square root: the bits of the root from the highest of `k` down. -/
def isqrt (k n : Nat) : Nat :=
  (List.range k).foldl (fun r i => if (r + 2 ^ (k - 1 - i)) * (r + 2 ^ (k - 1 - i)) ≤ n then r + 2 ^ (k - 1 - i) else r) 0

/-- ln 2 = 2 (1/3 + 1/(3 3^3) + 1/(5 3^5) + …). -/
def ln2Fix : Nat := (List.range 110).foldl (fun acc k => acc + 2 * fixOne / ((2 * k + 1) * 3 ^ (2 * k + 1))) 0

/-- arctan(1/n) by its alternating series. -/
def atanInv (n : Nat) : Nat :=
  ((List.range 150).foldl (fun (acc : Int) k =>
    acc + (if k % 2 = 0 then 1 else -1) * ((fixOne / ((2 * k + 1) * n ^ (2 * k + 1)) : Nat) : Int)) 0).toNat

/-- π = 16 arctan(1/5) - 4 arctan(1/239). -/
def piFix : Nat := 16 * atanInv 5 - 4 * atanInv 239

/-- e^y for 0 ≤ y < 1. -/
def expFix (y : Nat) : Nat :=
  ((List.range 90).foldl (fun (p : Nat × Nat) k =>
    let term := p.1 * y / fixOne / (k + 1)
    (term, p.2 + term)) (fixOne, fixOne)).2

/-- log2 of m for 1 ≤ m < 2, through ln m = 2 artanh((m - 1)/(m + 1)). -/
def log2Fix (m : Nat) : Nat :=
  let z := (m - fixOne) * fixOne / (m + fixOne)
  let zz := z * z / fixOne
  let s := ((List.range 110).foldl (fun (p : Nat × Nat) k =>
    (p.1 * zz / fixOne, p.2 + p.1 / (2 * k + 1))) (z, 0)).2
  2 * s * fixOne / ln2Fix

/-- The alternating sum of the terms t, t θ²/((a+1)(a+2)), …, the series of sine (a = 1) and cosine (a = 0). -/
def alternating (t theta a : Nat) : Nat :=
  let sq := theta * theta / fixOne
  ((List.range 60).foldl (fun (p : Nat × Int) k =>
    (p.1 * sq / fixOne / ((a + 2 * k + 1) * (a + 2 * k + 2)),
      p.2 + (if k % 2 = 0 then 1 else -1) * (p.1 : Int))) (t, 0)).2.toNat

/-- sin 2πr and cos 2πr for 0 ≤ r < 1/4. -/
def sinFix (r : Nat) : Nat :=
  let theta := 2 * piFix * r / fixOne
  alternating theta theta 1
def cosFix (r : Nat) : Nat := alternating fixOne (2 * piFix * r / fixOne) 0

/-- tanh y for 0 ≤ y < 32. -/
def tanhFix (y : Nat) : Nat :=
  let e := (List.range 6).foldl (fun x _ => x * x / fixOne) (expFix (y / 32))
  (e - fixOne) * fixOne / (e + fixOne)

/-! ### Results -/

/-- An inexact result: the value lies strictly between a and a + 1 units of 2^(e - fixBits), and is rounded once to
binary32 and flushed (R75, R78, R80, R129). -/
def between (rm : BitVec 2) (resftz : BitVec 5) (neg : Bool) (a : Nat) (e : Int) : Nat × Flags :=
  Fmt.f32.flushResult resftz (Fmt.f32.round (.mode rm) false neg (2 * a + 1) 1 (e - fixBits - 1))

/-- An exact value as a result. -/
def exactly (rm : BitVec 2) (resftz : BitVec 5) (neg : Bool) (m : Nat) (e : Int) : Nat × Flags :=
  Fmt.f32.result rm resftz (.fin neg m e)

/-- Special results (R129): the NaN with *invalid*, the infinities and the zeros. -/
def sfInvalid : Nat × Flags := (Fmt.f32.nanCode, fInvalid)
def sfInf (neg : Bool) (f : Flags) : Nat × Flags := (Fmt.f32.signed neg Fmt.f32.infCode, f)
def sfZero (neg : Bool) : Nat × Flags := (Fmt.f32.signed neg 0, 0)
def sfOne (neg : Bool) : Nat × Flags := (Fmt.f32.signed neg 0x3F800000, 0)

def sfExp2 (z : BitVec 5) (neg : Bool) (m : Nat) (e : Int) : Nat × Flags :=
  if 16 ≤ floorLog2 m 1 + e then exactly 0 z false 1 (if neg then -2000 else 2000)
  else
    let x : Int := (if neg then -1 else 1) * ((m * 2 ^ (e + fixBits).toNat : Nat) : Int)
    let n := x.fdiv fixOne
    let f := (x - n * fixOne).toNat
    if f = 0 then exactly 0 z false 1 (min 2000 (max (-2000) n))
    else between 0 z false (expFix (f * ln2Fix / fixOne)) (min 2000 (max (-2000) n))

def sfLog2 (z : BitVec 5) (m : Nat) (e : Int) : Nat × Flags :=
  let k := m.log2
  let n : Int := e + k
  if m = 2 ^ k then exactly 0 z (decide (n < 0)) n.natAbs 0
  else
    let t : Int := n * fixOne + log2Fix (m * 2 ^ (fixBits - k))
    if t < 0 then between 0 z true (t.natAbs - 1) 0 else between 0 z false t.natAbs 0

def sfRcp (z : BitVec 5) (neg : Bool) (m : Nat) (e : Int) : Nat × Flags :=
  Fmt.f32.flushResult z (Fmt.f32.round rne false neg 1 m (-e))

/-- A magnitude with an even exponent: m' and h with m 2^e = m' 2^(2h). -/
def evenExp (m : Nat) (e : Int) : Nat × Int :=
  if e % 2 = 0 then (m, e / 2) else (2 * m, (e - 1) / 2)

def sfRsqrt (z : BitVec 5) (m : Nat) (e : Int) : Nat × Flags :=
  let (m', h) := evenExp m e
  let a := isqrt (fixBits + 1) (2 ^ (2 * fixBits) / m')
  if a * a * m' = 2 ^ (2 * fixBits) then exactly 0 z false a (-h - fixBits) else between 0 z false a (-h)

def sfSqrt (rm : BitVec 2) (z : BitVec 5) (m : Nat) (e : Int) : Nat × Flags :=
  let (m', h) := evenExp m e
  let a := isqrt (fixBits + 16) (m' * 2 ^ (2 * fixBits))
  if a * a = m' * 2 ^ (2 * fixBits) then exactly rm z false a (h - fixBits) else between rm z false a h

/-- sin 2πx, or cos 2πx, of a nonzero argument: the quarter turn it lies in and the rest r of that quarter. -/
def sfTurn (z : BitVec 5) (cosine neg : Bool) (m : Nat) (e : Int) : Nat × Flags :=
  let x := m * 2 ^ (e + fixBits).toNat % fixOne
  let q := 4 * x / fixOne + (if cosine then 1 else 0)
  let r := x - (4 * x / fixOne) * (fixOne / 4)
  let minus := (q % 4 == 2 || q % 4 == 3) != (neg && !cosine)
  if r = 0 then (if q % 2 = 0 then sfZero false else sfOne minus)
  else between 0 z minus (if q % 2 = 0 then sinFix r else cosFix r) 0

def sfTanh (z : BitVec 5) (neg : Bool) (m : Nat) (e : Int) : Nat × Flags :=
  if 4 ≤ floorLog2 m 1 + e then between 0 z neg (fixOne - 1) 0
  else between 0 z neg (tanhFix (m * 2 ^ (e + fixBits).toNat)) 0

/-- The special functions by FN (R128, R129). -/
def special (fn : Nat) (rm : BitVec 2) (z : BitVec 5) (v : FVal) : Nat × Flags :=
  match v with
  | .nan b => (Fmt.f32.nanCode, flagIf b fInvalid)
  | .inf n =>
    match fn with
    | 0 => if n then sfZero false else sfInf false 0
    | 1 => if n then sfInvalid else sfInf false 0
    | 2 => sfZero n
    | 3 => if n then sfInvalid else sfZero false
    | 4 => if n then sfInvalid else sfInf false 0
    | 7 => sfOne n
    | _ => sfInvalid
  | .fin n m e =>
    if m = 0 then
      match fn with
      | 0 => sfOne false
      | 1 => sfInf true fDivZero
      | 2 => sfInf n fDivZero
      | 3 => sfInf n fDivZero
      | 6 => sfOne false
      | _ => sfZero n
    else match fn with
      | 0 => sfExp2 z n m e
      | 1 => if n then sfInvalid else sfLog2 z m e
      | 2 => sfRcp z n m e
      | 3 => if n then sfInvalid else sfRsqrt z m e
      | 4 => if n then sfInvalid else sfSqrt rm z m e
      | 5 => sfTurn z false n m e
      | 6 => sfTurn z true n m e
      | _ => sfTanh z n m e

/-- A special function of one element: read under operand flush, computed, written. -/
def sfElement (fn : Nat) (f : VForm) (w : Warp) (b : Word) : Word × Flags :=
  let y := w.readF .f32 b 0
  let r := special fn f.rm w.resftz y.1
  (BitVec.ofNat 32 r.1, y.2 ||| r.2)

def execVexp2 (f : VForm) (s : State) : Host.Outcome State Fault Refusal :=
  vectorOp (.v 0x47 0 f) f (fun w t => sfElement 0 f w (s.opB w f t)) s

def execVlog2 (f : VForm) (s : State) : Host.Outcome State Fault Refusal :=
  vectorOp (.v 0x47 1 f) f (fun w t => sfElement 1 f w (s.opB w f t)) s

def execVrcp (f : VForm) (s : State) : Host.Outcome State Fault Refusal :=
  vectorOp (.v 0x47 2 f) f (fun w t => sfElement 2 f w (s.opB w f t)) s

def execVrsqrt (f : VForm) (s : State) : Host.Outcome State Fault Refusal :=
  vectorOp (.v 0x47 3 f) f (fun w t => sfElement 3 f w (s.opB w f t)) s

def execVsqrt (f : VForm) (s : State) : Host.Outcome State Fault Refusal :=
  vectorOp (.v 0x47 4 f) f (fun w t => sfElement 4 f w (s.opB w f t)) s

def execVsin (f : VForm) (s : State) : Host.Outcome State Fault Refusal :=
  vectorOp (.v 0x47 5 f) f (fun w t => sfElement 5 f w (s.opB w f t)) s

def execVcos (f : VForm) (s : State) : Host.Outcome State Fault Refusal :=
  vectorOp (.v 0x47 6 f) f (fun w t => sfElement 6 f w (s.opB w f t)) s

def execVtanh (f : VForm) (s : State) : Host.Outcome State Fault Refusal :=
  vectorOp (.v 0x47 7 f) f (fun w t => sfElement 7 f w (s.opB w f t)) s

end Sys2Proof.Machine
end

