-- ==== Sys2Proof/Machine/Attention.lean ====
section
/-! DEFINITION. Exact attention: the request `katt` (R276 to R278), tiles and masks (R279), the step of a key block (R280), the
results (R281 to R283), the hold of the arrays (R284) and the chain prefetcher (R284, R285). -/

namespace Sys2Proof.Machine

/-! ### The request (R276 to R278) -/

/-- Bytes of an output element. -/
def outBytes (outfmt : Nat) : Nat := if outfmt = 5 then 2 else 4

/-- The descriptors of a request with the rows they own. -/
def sequencesAt (m : Memory) (cuq seqd n : Nat) : List SeqDesc :=
  (List.range n).map fun i =>
    let a := seqd + 32 * i
    { addr := Memory.readNat m a 8, n := Memory.readNat m (a + 8) 4, mode := Memory.readNat m (a + 12) 1,
      qpos := Memory.readNat m (a + 16) 8, rowFrom := Memory.readNat m (cuq + 4 * i) 4,
      rowTo := Memory.readNat m (cuq + 4 * (i + 1)) 4 }

/-- The CUQ table is bad, or a descriptor has a reserved or an out-of-range field. -/
def sequencesBad (m : Memory) (cuq seqd n nq : Nat) : Bool :=
  let l := sequencesAt m cuq seqd n
  Memory.readNat m cuq 4 != 0 || Memory.readNat m (cuq + 4 * n) 4 != nq || l.any (fun x => decide (x.rowTo < x.rowFrom))
    || l.any (fun x => decide (2 ^ 20 < x.n) || decide (2 < x.mode))
    || (List.range n).any fun i => Memory.readNat m (seqd + 32 * i + 13) 3 != 0 || Memory.readNat m (seqd + 32 * i + 24) 8 != 0

/-- The request of the block at a scratchpad offset, apart from its sequences. -/
def requestAt (m : Memory) (off : Nat) : KattReq :=
  let b := Memory.readBytes m off 128
  let fl := field b 0xF 1
  { block := off, qbase := field b 0 8, nq := field b 8 4, hdim := field b 0xC 2, qfmt := field b 0xE 1,
    qscratch := fl % 2 == 1, cmp := fl / 2 % 2 == 1, partialOut := fl / 4 % 2 == 1, qstride := field b 0x10 4,
    mask := field b 0x20 1, eslot := field b 0x21 1, outfmt := field b 0x22 1, mparam := field b 0x24 4,
    scale := BitVec.ofNat 32 (field b 0x28 4), ostride := field b 0x2C 4, out := field b 0x30 8, mlout := field b 0x38 8,
    rstat := field b 0x40 8, seqs := [] }

/-- Bytes from QBASE to the last query. -/
def KattReq.querySpan (r : KattReq) : Nat := (r.nq - 1) * r.qstride + r.hdim * keyBytes r.qfmt

/-- Bytes from OUT to the last output. -/
def KattReq.outSpan (r : KattReq) : Nat := (r.nq - 1) * r.ostride + r.hdim * outBytes r.outfmt

/-- Step 2 of R278. -/
def requestBad (b : List Byte) (r : KattReq) (nseq : Nat) : Bool :=
  let past (a n : Nat) : Bool := decide (2 ^ 55 < a + n)
  field b 0xF 1 / 8 != 0 || field b 0x23 1 != 0 || field b 0x50 0x30 != 0 || !(decide (1 ≤ r.nq ∧ r.nq ≤ 2 ^ 24))
    || !headDim r.hdim || !(decide (1 ≤ nseq ∧ nseq ≤ 1024)) || decide (3 < r.mask) || r.eslot % 2 != 0 || decide (18 < r.eslot)
    || (r.mask == 2 && r.mparam == 0) || (decide (r.mask < 2) && r.mparam != 0) || (!r.partialOut && r.mlout != 0)
    || past r.out r.outSpan || past r.rstat r.nq || (r.partialOut && past r.mlout (8 * r.nq))
    || (!r.qscratch && past r.qbase r.querySpan)

/-- The slots ESLOT to ESLOT + 2 of a core count as written by an operation of the warp (R278). -/
def Core.markEngine (k : Core) (eslot op warp : Nat) : Core :=
  { k with unsettled := k.unsettled ++ [eslot, eslot + 1, eslot + 2].map fun x =>
      { slot := x, op := op, warp := warp, writer := true, batch := none, open_ := false } }

def State.markEngine (s : State) (core eslot op warp : Nat) : State :=
  (s.updCore core fun k => k.markEngine eslot op warp).updCore (otherCore core) fun k => k.markEngine eslot op warp

/-- `katt`: the checks of R278 in their order, and the queue of 4 (R265). -/
def execKatt (f : EForm) (s : State) : Host.Outcome State Fault Refusal :=
  checked (.e 0x6B 0 f) s fun w =>
    let mem := s.operandMem w
    let off := (w.sreg f.sa).toNat
    let b := Memory.readBytes mem off 128
    let r0 := requestAt mem off
    let nseq := field b 0x14 4
    let cuq := field b 0x18 4
    let seqd := field b 0x1C 4
    let r := { r0 with seqs := sequencesAt mem cuq seqd (min nseq 1024) }
    let qspace := if r.qscratch then w.scratchSpace else w.memorySpace
    s.afterChecks w
      [(off % 128 != 0, .misaligned, .memory 0 true 0), (s.beyond w off 128, .protection, .memory 0 true 5),
       (requestBad b r nseq, .shapeMismatch, .none),
       (!keyFormat r.qfmt || (r.outfmt != 5 && r.outfmt != 7), .formatInvalid, .none),
       (r.qbase % 16 != 0, .misaligned, .memory 0 r.qscratch 0), (r.qstride % 16 != 0, .misaligned, .memory 0 r.qscratch 0),
       (r.ostride % 16 != 0, .misaligned, .memory 0 false 0),
       (cuq % 4 != 0 || seqd % 32 != 0, .misaligned, .memory 0 true 0),
       s.spanCheck w r.qscratch r.qbase r.querySpan, s.spanCheck w true cuq (4 * (nseq + 1)),
       s.spanCheck w true seqd (32 * nseq), (sequencesBad mem cuq seqd nseq r.nq, .shapeMismatch, .none)]
      (s.issueOp w (.attention (clusterOf w.core)) 4 (.katt r) f.imm
        [⟨w.scratchSpace, cuq, 4 * (nseq + 1), false⟩, ⟨w.scratchSpace, seqd, 32 * nseq, false⟩,
         ⟨qspace, r.qbase, r.querySpan, false⟩, ⟨w.scratchSpace, off, 128, true⟩, ⟨w.memorySpace, r.out, r.outSpan, true⟩,
         ⟨w.memorySpace, r.rstat, r.nq, true⟩, ⟨w.memorySpace, r.mlout, if r.partialOut then 8 * r.nq else 0, true⟩]
        fun t o => (t.markEngine w.core r.eslot o.id t.cur, o))

/-! ### Tiles and masks (R279) -/

/-- A tile: its sequence and its rows. -/
structure TileRows where
  seq : SeqDesc
  index : Nat
  first : Nat
  last : Nat
  deriving DecidableEq, Repr

/-- The tiles of a request in order: up to 96 consecutive rows of one sequence each. -/
def KattReq.tiles (r : KattReq) : List TileRows :=
  r.seqs.zipIdx.flatMap fun (q, i) =>
    (List.range ((q.rowTo - q.rowFrom + 95) / 96)).map fun t =>
      ⟨q, i, q.rowFrom + 96 * t, min q.rowTo (q.rowFrom + 96 * (t + 1))⟩

/-- A key at position y is visible to a row at position x. -/
def KattReq.visible (r : KattReq) (x y : Nat) : Bool :=
  match r.mask with
  | 0 => true
  | 1 => decide (y ≤ x)
  | 2 => decide (x < y + r.mparam ∧ y ≤ x)
  | _ => decide (y < r.mparam ∨ y ≤ x)

/-- The position of a row. -/
def TileRows.position (t : TileRows) (row : Nat) : Nat := t.seq.qpos + row - t.seq.rowFrom

/-- A key block: its page and its tokens. -/
structure KeyBlock where
  page : KeyPage
  place : Nat
  first : Nat
  count : Nat
  deriving DecidableEq, Repr

/-- The key blocks of a source in order. -/
def keyBlocks (l : List KeyPage) : List KeyBlock :=
  l.zipIdx.flatMap fun (p, i) =>
    (List.range ((p.count + 255) / 256)).map fun b => ⟨p, i, 256 * b, min 256 (p.count - 256 * b)⟩

/-! ### The walk of a source (R264, R281) -/

/-- The walk of a source before its first page. -/
def SeqDesc.begins (q : SeqDesc) : Walk :=
  { pages := [], formats := none, failed := none, status := 0, passed := 0, next := q.addr }

/-- A page or an entry that cannot be used: the first one decides the row status and LOSTVA, and it ends a chain, while a table and a
waybill go on with the next entry. -/
def Walk.fails (k : Walk) (chain : Bool) (va : Nat) (status : BitVec 8) : Walk :=
  { k with failed := some (k.failed.getD (va, if status = 1 then 2 else 3)), status := worse k.status status, passed := k.passed + 1,
           next := if chain then 0 else k.next }

/-- Takes a page with a good header. -/
def Walk.takes (k : Walk) (chain : Bool) (hdim va : Nat) (h : KeyHeader) : Walk :=
  let k1 := { k with next := h.next, passed := k.passed + 1 }
  if h.count = 0 then k1
  else if h.hdim ≠ hdim then k.fails chain va 0
  else
    let fmts := k.formats.getD (h.kfmt, h.vfmt)
    if (h.kfmt, h.vfmt) ≠ fmts then k.fails chain va 0
    else { k1 with formats := some fmts,
                   pages := k.pages ++ [⟨va, h.count, h.pos0, valueOffset h.kfmt h.hdim h.cap, h.kfmt, h.vfmt⟩] }

/-- What a walk does at the page of a VA, whose entry has been read from some pieces of memory: the walk after and the state after, or
the state in which it waits. -/
def State.walkPage (s : State) (o : EngineOp) (chain : Bool) (hdim : Nat) (entry : List (Nat × Nat)) (va : Nat) (k : Walk) :
    Except State (Walk × State) :=
  match s.visit? o va with
  | .waits t => .error t
  | .fails c t => .ok (k.fails chain va c, t.engineRead o entry)
  | .page l none => .ok (k.fails chain va 0, s.engineRead o (entry ++ l))
  | .page l (some h) => .ok (k.takes chain hdim va h, s.engineRead o (entry ++ l))

/-- The walk has passed the whole of its source. -/
def Walk.done (k : Walk) (q : SeqDesc) : Bool :=
  q.addr == 0 || decide (q.n ≤ k.passed) || (q.mode == 0 && k.next == 0)

/-- The next page of a source, in source order. -/
def State.walkStep (s : State) (o : EngineOp) (q : SeqDesc) (hdim : Nat) (k : Walk) : Except State (Walk × State) :=
  if q.mode = 0 then s.walkPage o true hdim [] k.next k
  else
    let at_ := q.addr + (if q.mode = 1 then 8 else 16) * k.passed
    match s.entry? o at_ with
    | (.waits t, _) => .error t
    | (.ends c t, _) => .ok (k.fails false at_ c, t)
    | (.go l, va) => s.walkPage o false hdim l va k

/-! ### The step of a key block (R280) -/

/-- The groups of 16 of some codes. -/
def groupsOf (fmt w : Nat) (codes : List Nat) : List Group :=
  (List.range ((codes.length + 15) / 16)).map fun g =>
    cellOp (plainHalf fmt) w none ((List.range 16).map fun i => codes[16 * g + i]?)

/-- The flags of some groups, every position counting. -/
def groupFlags (l : List Group) : Flags := l.foldl (fun acc g => acc ||| g.flagsAt fun _ => true) 0

/-- The closes of a product of two rows of groups. -/
def closeGroups (cmp : Bool) (w : Nat) (a b : List Group) (acc : Cell) : Cell × Flags :=
  (a.zip b).foldl (fun (acc : Cell × Flags) x =>
    let r := closeBlock cmp w x.1 x.2 (fun _ => true) acc.1
    (r.1, acc.2 ||| r.2)) (acc, 0)

/-- W of a product of two formats in the engine. -/
def productWidth (a b : Nat) : Nat := max (cellWidth a) (cellWidth b)

/-- VEXP2 of the difference of two FP32 values, each rounded once. -/
def exp2Diff (a b : Word) : FVal :=
  Fmt.f32.decode (special 0 0 0 (f32Val (f32Of ((f32Val a).add 0 (f32Val b).negate).1))).1

/-- A row whose score was NaN or +∞. -/
def AttnRow.dead (r : AttnRow) : AttnRow :=
  { r with seen := true, m := canonicalNaN, l := (canonicalNaN, canonicalNaN),
           o := r.o.map fun _ => (canonicalNaN, canonicalNaN) }

def AttnRow.initial (hdim : Nat) : AttnRow := ⟨false, 0xFF800000, (0, 0), List.replicate hdim (0, 0)⟩

/-- What is left of a row's step once its scores are known and some are above -∞. -/
def AttnRow.accumulate (r : AttnRow) (cmp : Bool) (wv : Nat) (m' : Word) (scores : List Word) (values : List (List Group)) :
    AttnRow × Flags :=
  let alpha : FVal := if r.m = 0xFF800000 then .fin false 0 0 else exp2Diff r.m m'
  let ps := scores.map fun x =>
    if x = 0xFF800000 then ((0, 0) : Nat × Flags) else Fmt.e4.convert rne false 0 (exp2Diff x m')
  let l0 := pairOf (((f32Val r.l.1).add 0 (f32Val r.l.2)).1.mul alpha).1
  let l1 := ps.foldl (fun (l : Cell) p =>
    pairOf ((((f32Val l.1).add 0 (f32Val l.2)).1.add 0 (Fmt.e4.decode p.1)).1)) l0
  let pg := groupsOf 1 wv (ps.map fun p => p.1)
  let out := (r.o.zip values).map fun x =>
    let a := acopCell 1 cmp (f32Of alpha) x.1
    let b := closeGroups cmp wv pg x.2 a.1
    (b.1, a.2 ||| b.2)
  ({ r with m := m', l := l1, o := out.map fun x => x.1 },
    ps.foldl (fun acc p => acc ||| p.2) (groupFlags pg) ||| out.foldl (fun acc x => acc ||| x.2) 0)

/-- One row and one key block: `seen` says which keys are visible to it. A row with a score that is NaN or +∞, in this block or an
earlier one, goes through the same products with m' canonical NaN, so that their closes and special blocks raise the flags of any
other row's; its m, l and o are NaN. That m' is NaN already in the block whose score was NaN or +∞ is the model's choice (DESIGN
CHOICE, log 49). -/
def AttnRow.step (r : AttnRow) (cmp : Bool) (wq wv : Nat) (scale : Word) (seen : List Bool) (q : List Group)
    (keys values : List (List Group)) : AttnRow × Flags :=
  let dots := (seen.zip keys).map fun x =>
    if x.1 then
      let d := closeGroups false wq q x.2 (0, 0)
      (f32Of ((f32Val scale).mul (f32Val d.1.1)).1, d.2)
    else ((0xFF800000, 0) : Word × Flags)
  let scores := dots.map fun x => x.1
  let flags := dots.foldl (fun acc x => acc ||| x.2) (0 : Flags)
  let r1 := { r with seen := r.seen || seen.contains true }
  let lost := (f32Val r.m).isNaN || scores.any fun x => (f32Val x).isNaN || x == 0x7F800000
  let m' : Word := if lost then canonicalNaN
    else BitVec.ofNat 32 (Fmt.f32.exact (scores.foldl (fun acc x => (FVal.minMax true acc (f32Val x)).1) (f32Val r.m)))
  if m' = 0xFF800000 then (r1, flags)
  else
    let (r2, f) := r1.accumulate cmp wv m' scores values
    (if lost then r1.dead else r2, flags ||| f)

/-- The keys, or the values, of a block as codes by token. -/
def tokensOf (bytes : List Byte) (hdim z n : Nat) : List (List Nat) :=
  (List.range n).map fun i => (List.range hdim).map fun c => field bytes (z * (i * hdim + c)) z

/-! ### Results (R281, R282) -/

/-- The exact quotient of two values, rounded once into a format; overflow under R80 with Sat clear. -/
def quotient (f : Fmt) (a b : FVal) : Nat :=
  match a, b with
  | .fin n1 m1 e1, .fin n2 m2 e2 =>
    if m2 = 0 then (if m1 = 0 then f.nanCode else f.signed (n1 != n2) f.infCode)
    else if m1 = 0 then f.signed (n1 != n2) 0
    else (f.round rne false (n1 != n2) m1 m2 (e1 - e2)).1
  | .inf n1, .fin n2 _ _ => f.signed (n1 != n2) f.infCode
  | .fin n1 _ _, .inf n2 => f.signed (n1 != n2) 0
  | _, _ => f.nanCode

/-- What a row writes: its output elements as codes, m and l, and its status. -/
def AttnRow.result (r : AttnRow) (outfmt : Nat) (partialOut : Bool) : List Nat × Word × Word × Nat :=
  let f := matrixFmt outfmt
  let l := ((f32Val r.l.1).add 0 (f32Val r.l.2)).1
  if !r.seen then (r.o.map fun _ => 0, 0xFF800000, 0, 1)
  else
    let o (x : Cell) : FVal := ((f32Val x.1).add 0 (f32Val x.2)).1
    (r.o.map fun x => if partialOut then (f.convert rne false 0 (o x)).1 else quotient f (o x) l, r.m, f32Of l, 0)

/-- What a row of a failing sequence writes. -/
def failedResult (outfmt hdim status : Nat) : List Nat × Word × Word × Nat :=
  (List.replicate hdim (matrixFmt outfmt).nanCode, canonicalNaN, canonicalNaN, status)

/-- Writes a span of a request; a page that fails gives the request its STATUS, and the others are still written. Answers
none where a page must be waited for. -/
def State.putSpan (s : State) (o : EngineOp) (va : Nat) (bytes : List Byte) : Except State (State × EngineOp) :=
  match s.meetSpan o va bytes.length true false with
  | .waits t => .error t
  | .ends c t => .ok (t, { o with status := worse o.status c })
  | .go p => .ok (s.enginePieces o p bytes)

/-- Writes the results of some rows. -/
def State.putRows (s : State) (o : EngineOp) (r : KattReq) (l : List (Nat × List Nat × Word × Word × Nat)) :
    Except State (State × EngineOp) :=
  match l with
  | [] => .ok (s, o)
  | (row, codes, m, den, status) :: rest => do
    let (s1, o1) ← s.putSpan o (r.out + row * r.ostride) (codes.flatMap fun x => natBytes (outBytes r.outfmt) x)
    let (s2, o2) ← s1.putSpan o1 (r.rstat + row) (natBytes 1 status)
    let (s3, o3) ← if r.partialOut then s2.putSpan o2 (r.mlout + 8 * row) (natBytes 4 m.toNat ++ natBytes 4 den.toNat)
      else pure (s2, o2)
    s3.putRows o3 r rest

/-! ### The engine (R279, R284, R285) -/

/-- The hold entry of a request in the queue of an array. -/
def holdEntry (o : EngineOp) (id : Nat) : EngineOp :=
  { o with id := id, kind := .hold, state := .queued, progress := 0, pages := [], rows := [], source := [], walk := none }

/-- Places hold entries in both arrays' queues. -/
def State.placeHold (s : State) (cluster : Nat) (o : EngineOp) : State :=
  let put (t : State) (k : Nat) : State := t.setQueue (.matrix k) (t.queueOf (.matrix k) ++ [holdEntry o s.nextId])
  (put (put { s with nextId := s.nextId + 1 } (2 * cluster)) (2 * cluster + 1)).updCluster cluster fun k =>
    { k with holdPlaced := true }

/-- Gives both arrays back. -/
def State.dropHold (s : State) (cluster : Nat) : State :=
  let drop (t : State) (k : Nat) : State := t.setQueue (.matrix k) ((t.queueOf (.matrix k)).filter fun x => x.kind != .hold)
  (drop (drop s (2 * cluster)) (2 * cluster + 1)).updCluster cluster fun k => { k with holdPlaced := false, holding := false }

/-- HOLD: a hold at the head of both queues gives the engine both arrays. -/
def execHold (cluster : Nat) (s : State) : Host.Outcome State Fault Refusal :=
  let ready (k : Nat) : Bool := match s.headOp (.matrix k) with
    | some o => o.kind == .hold && o.state == .queued
    | none => false
  .next (if decide (cluster < 288) && ready (2 * cluster) && ready (2 * cluster + 1) then s.updCluster cluster fun k => { k with holding := true } else s)

/-- The request is complete: LOSTVA is written and the engine's slots hold +0 (R276, R278). -/
def State.endKatt (s : State) (u : EngineUnit) (o : EngineOp) (r : KattReq) : State :=
  let clear (k : Core) : Core := { k with tiles := [r.eslot, r.eslot + 1, r.eslot + 2].foldl (fun t x => listPut [] t x []) k.tiles }
  let s1 := (s.updCore o.core clear).updCore (otherCore o.core) clear
  (s1.scratchWrite o.caravan (r.block + 0x48) (natBytes 8 o.lost)).setOp u (o.finish o.status)

/-- A request that waits leaves no trace of the refusals it met in a step that it makes again. -/
def State.waitFrom (s t : State) : State :=
  { t with violations := s.violations, security := s.security, partitions := s.partitions }

/-- The sequence of a tile is over: the request goes on with the next one. -/
def EngineOp.pastSequence (o : EngineOp) (r : KattReq) (t : TileRows) : EngineOp :=
  { o with blocks := 0, rows := [], source := [], walk := none,
           progress := ((r.tiles.zipIdx.filter fun x => decide (x.1.index ≤ t.index)).length) }

/-- Every row of a tile's sequence takes a failing status; the request goes on with the next sequence. The first page lost or unusable
of the request stands in LOSTVA. -/
def State.failSequence (s : State) (cluster : Nat) (o : EngineOp) (r : KattReq) (t : TileRows) (va status : Nat) (c : BitVec 8) :
    State :=
  let rows := (List.range (t.seq.rowTo - t.seq.rowFrom)).map fun i =>
    (t.seq.rowFrom + i, failedResult r.outfmt r.hdim status)
  let o1 := { o.pastSequence r t with
    status := worse o.status c, lost := if o.result = 0 then va else o.lost, result := 1 }
  match s.putRows o1 r rows with
  | .error x => s.waitFrom x
  | .ok (s1, o2) => (s1.dropHold cluster).setOp (.attention cluster) o2

/-- The output accumulator of a source is an FP32 pair (R283). -/
def KattReq.pairMode (r : KattReq) (l : List KeyPage) : Bool :=
  r.cmp || decide (65536 < l.foldl (fun acc p => acc + p.count) 0)

/-- The start of a tile: its sequence's source is walked page by page; then the hold is placed, or the sequence fails. -/
def State.startTile (s : State) (cluster : Nat) (o : EngineOp) (r : KattReq) (t : TileRows) : State :=
  let k := o.walk.getD t.seq.begins
  if !k.done t.seq then
    match s.walkStep o t.seq r.hdim k with
    | .error x => x
    | .ok (k1, s1) => s1.setOp (.attention cluster) { o with state := .running, walk := some k1 }
  else match k.failed with
    | some (va, status) => s.failSequence cluster o r t va status k.status
    | none =>
      let o1 := { o with state := .running, blocks := 0, source := k.pages, walk := none,
                         rows := List.replicate (t.last - t.first) (AttnRow.initial r.hdim) }
      (s.placeHold cluster o1).setOp (.attention cluster) o1

/-- The queries of a tile's rows as bytes, with the pieces of memory they lie in, or what an access to one meets. -/
def State.queryBytes (s : State) (o : EngineOp) (r : KattReq) (t : TileRows) : MetSpan × List (List Byte) :=
  let n := r.hdim * keyBytes r.qfmt
  (List.range (t.last - t.first)).foldl (fun (acc : MetSpan × List (List Byte)) i =>
    match acc.1 with
    | .go p =>
      let a := r.qbase + (t.first + i) * r.qstride
      if r.qscratch then (.go [], acc.2 ++ [Memory.readBytes (s.scratchOf o.caravan) a n])
      else match s.meetSpan o a n false false with
        | .go l => (.go (p ++ l), acc.2 ++ [Memory.readPieces s.mem l])
        | x => (x, acc.2)
    | _ => acc) (.go [], [])

/-- The rows of a tile after a key block, and the flags. -/
def blockRows (r : KattReq) (t : TileRows) (o : EngineOp) (b : KeyBlock) (queries : List (List Byte)) (kb vb : List Byte) :
    List AttnRow × Flags :=
  let wq := productWidth r.qfmt b.page.kfmt
  let wv := productWidth 1 b.page.vfmt
  let keys := (tokensOf kb r.hdim (keyBytes b.page.kfmt) b.count).map fun x => groupsOf b.page.kfmt wq x
  let toks := tokensOf vb r.hdim (keyBytes b.page.vfmt) b.count
  let values := (List.range r.hdim).map fun c => groupsOf b.page.vfmt wv (toks.map fun x => listGet 0 x c)
  let visible (i : Nat) : List Bool := (List.range b.count).map fun k =>
    r.visible (t.position (t.first + i)) (b.page.pos0 + b.first + k)
  let n := t.last - t.first
  if !((List.range n).any fun i => (visible i).contains true) then (o.rows, 0)
  else
    let out := (List.range n).map fun i =>
      let q := groupsOf r.qfmt wq ((listGet [] (tokensOf (listGet [] queries i) r.hdim (keyBytes r.qfmt) 1) 0))
      let x := AttnRow.step (listGet (AttnRow.initial r.hdim) o.rows i) (r.pairMode o.source) wq wv r.scale (visible i) q keys values
      (x.1, x.2 ||| groupFlags q)
    (out.map fun x => x.1,
      keys.foldl (fun acc g => acc ||| groupFlags g) 0 ||| values.foldl (fun acc g => acc ||| groupFlags g) 0
        ||| out.foldl (fun acc x => acc ||| x.2) 0)

/-- One key block of the tile in progress. A page of it that has become unusable since the walk fails the sequence in the next step. A
query that cannot be read ends the request with its STATUS (DEDUCED). -/
def State.attendBlock (s : State) (cluster : Nat) (o : EngineOp) (r : KattReq) (t : TileRows) (b : KeyBlock) : State :=
  let u : EngineUnit := .attention cluster
  let zk := keyBytes b.page.kfmt
  let zv := keyBytes b.page.vfmt
  match s.queryBytes o r t with
  | (.waits x, _) => x
  | (.ends c x, _) => (x.dropHold cluster).endKatt u { o with status := worse o.status c } r
  | (.go qp, queries) =>
    match s.meetSpan o (b.page.va + 0x1000 + b.first * r.hdim * zk) (b.count * r.hdim * zk) false false with
    | .waits x => x
    | .ends c x => x.setOp u { o with walk := some (t.seq.begins.fails true b.page.va c) }
    | .go kp =>
      match s.meetSpan o (b.page.va + b.page.voff + b.first * r.hdim * zv) (b.count * r.hdim * zv) false false with
      | .waits x => x
      | .ends c x => x.setOp u { o with walk := some (t.seq.begins.fails true b.page.va c) }
      | .go vp =>
        let (rows, f) := blockRows r t o b queries (Memory.readPieces s.mem kp) (Memory.readPieces s.mem vp)
        (((s.engineRead o (qp ++ kp ++ vp)).sample cluster o.ctx 18 1).sample cluster o.ctx 5 (2 * (r.hdim / 16 + (b.count + 15) / 16))).setOp u
          { o with rows := rows, flags := o.flags ||| f, blocks := o.blocks + 1 }

/-- The end of a tile: its rows are written and the arrays given back. -/
def State.endTile (s : State) (cluster : Nat) (o : EngineOp) (r : KattReq) (t : TileRows) : State :=
  match s.putRows o r ((List.range (t.last - t.first)).map fun i =>
      (t.first + i, (listGet (AttnRow.initial r.hdim) o.rows i).result r.outfmt r.partialOut)) with
  | .error x => s.waitFrom x
  | .ok (s1, o1) =>
    (s1.dropHold cluster).setOp (.attention cluster) { o1 with progress := o.progress + 1, blocks := 0, rows := [], source := [] }

/-- The next step of a request: the start of a tile, one key block under the hold, the end of a tile, or the end. -/
def State.attentionStep (s : State) (cluster : Nat) (o : EngineOp) (r : KattReq) : State :=
  match r.tiles[o.progress]? with
  | none => s.endKatt (.attention cluster) o r
  | some t =>
    let k := s.cluster cluster
    if k.holding then
      match o.walk.bind Walk.failed, (keyBlocks o.source)[o.blocks]? with
      | some (va, status), _ => s.failSequence cluster o r t va status ((o.walk.map Walk.status).getD 0)
      | none, some b => s.attendBlock cluster o r t b
      | none, none => s.endTile cluster o r t
    else if k.holdPlaced then s
    else s.startTile cluster o r t

/-- ATTENTION_ENGINE_RUN: the next step of the request at the head of the engine's queue. -/
def execAttentionEngineRun (cluster : Nat) (s : State) : Host.Outcome State Fault Refusal :=
  match s.headOp (.attention cluster) with
  | none => .next s
  | some o =>
    match o.kind with
    | .katt r => .next (if s.mayWork o then s.attentionStep cluster o r else s)
    | _ => .next s

/-! ### The chain prefetcher (R284, R285) -/

/-- What the prefetcher does with a page that its TLB look-up has translated: it is promoted where its tier is LPDDR 6, and filled into
L2. A page that a promotion has just moved is filled when the prefetcher comes to it again; the frame that the promotion frees goes back
to its ring, at once or when that has room (R330). -/
def State.chainFill (s : State) (o : EngineOp) (va : Nat) (e : TlbEntry) : State :=
  match s.peekRefused o.ctx e.leaf with
  | some t => t
  | none =>
    if leafTier e.leaf && leafSize e.leaf == 0 then
      match s.movePage o.core o.ctx va e.leaf e.leafAt true with
      | some m => m.state.giveBack m.freed
      | none => s
    else s.engineRead o [(leafPa e.leaf (va / 65536 * 65536), 65536)]

/-- CHAIN_PREFETCH: a page one to four places ahead of the engine's current page is translated, promoted where its tier is
LPDDR 6, and filled into L2. The prefetcher posts no fault (R295), and does nothing for a page it cannot translate. -/
def execChainPrefetch (cluster ahead : Nat) (s : State) : Host.Outcome State Fault Refusal :=
  match s.headOp (.attention cluster) with
  | none => .next s
  | some o =>
    let here := match (keyBlocks o.source)[o.blocks]? with
      | some b => b.place
      | none => o.source.length
    match o.source[here + ahead]? with
    | none => .next s
    | some p =>
      if ahead = 0 || decide (4 < ahead) || !s.mayWork o then .next s
      else match s.returnOwed.peek o.core o.ctx p.va with
        | (t, none) => .next t
        | (t, some e) => .next (t.chainFill o p.va e)

end Sys2Proof.Machine
end

