-- ==== Sys2Proof/Machine/Copy.lean ====
section
/-! DEFINITION. The copy engine (R231): `cpy` (R237), `gath` and `scat` (R238). -/

namespace Sys2Proof.Machine

/-! ### cpy (R237) -/

/-- The source, respectively the destination, of a direction lies in memory: 0 memory to scratchpad, 1 scratchpad to memory,
2 memory to memory, 3 to the peer core's scratchpad. -/
def cpyFromMemory (dir : Nat) : Bool := dir == 0 || dir == 2
def cpyToMemory (dir : Nat) : Bool := dir == 1 || dir == 2

/-- The caravan on the other core of the cluster that a direction 3 names, with its allotment. -/
def State.peerAllotment (s : State) (w : Warp) (id : Nat) : Nat :=
  match s.caravan? id with
  | some c => if c.core = some (otherCore w.core) ∧ c.ctx = w.ctx then c.record.scratch else 0
  | none => 0

/-- `cpy` of a direction: the checks of R237 in their order, the locks, and the queue of 8 (R231). -/
def cpyOp (dir : Nat) (f : EForm) (s : State) : Host.Outcome State Fault Refusal :=
  checked (.e 0x59 (BitVec.ofNat 7 dir) f) s fun w =>
    let fromMem := cpyFromMemory dir
    let toMem := cpyToMemory dir
    let src := if fromMem then (w.spair f.sa).toNat else (w.sreg f.sa).toNat
    let dst := if toMem then (w.spair f.sb).toNat else (w.sreg f.sb).toNat
    let n := (w.sreg f.sc).toNat
    let dest := if dir = 3 then (w.sreg (f.sc + 1)).toNat else w.caravan
    let dstSpace := if toMem then w.memorySpace
      else if dir = 3 then .scratch (otherCore w.core) dest else w.scratchSpace
    let dstBeyond := !toMem && (if dir = 3 then decide (s.peerAllotment w dest < dst + n) else s.beyond w dst n)
    s.afterChecks w
      [(src % 4 != 0, .misaligned, .memory 0 (!fromMem) 0), (dst % 4 != 0, .misaligned, .memory 0 (!toMem) 0),
       (n % 4 != 0, .misaligned, .memory 0 false 0), (n == 0 || decide (2 ^ 24 < n), .shapeMismatch, .none),
       (fromMem && !inRange src, .protection, .memory 0 false 4), (toMem && !inRange dst, .protection, .memory 0 false 4),
       (!fromMem && s.beyond w src n, .protection, .memory 0 true 5), (dstBeyond, .protection, .memory 0 true 5)]
      (s.issueOp w (.copy w.core) 8 (.cpy dir src dst n dest) f.imm
        [⟨if fromMem then w.memorySpace else w.scratchSpace, src, n, false⟩, ⟨dstSpace, dst, n, true⟩])

def execCpyMs (f : EForm) (s : State) : Host.Outcome State Fault Refusal := cpyOp 0 f s
def execCpySm (f : EForm) (s : State) : Host.Outcome State Fault Refusal := cpyOp 1 f s
def execCpyMm (f : EForm) (s : State) : Host.Outcome State Fault Refusal := cpyOp 2 f s
def execCpyPp (f : EForm) (s : State) : Host.Outcome State Fault Refusal := cpyOp 3 f s

/-! ### gath and scat (R238) -/

/-- The addresses of a list in a scratchpad. -/
def listOf (scratch : Memory) (at_ n : Nat) : List Nat := (List.range n).map fun i => Memory.readNat scratch (at_ + 8 * i) 8

/-- The span from the lowest to the highest address that a list of elements covers: its first address and its length. -/
def listSpan (l : List Nat) (z : Nat) : Nat × Nat :=
  match l with
  | [] => (0, 0)
  | a :: rest =>
    let lo := rest.foldl min a
    let hi := rest.foldl max a
    (lo, hi + z - lo)

/-- z is a power of two from 4 to 4,096. -/
def elementSize (z : Nat) : Bool := [4, 8, 16, 32, 64, 128, 256, 512, 1024, 2048, 4096].contains z

/-- `gath` and `scat`: the checks of R237 with the differences of R238. The list is read whole at issue, where its span may
not be write-locked. -/
def listOp (fn : BitVec 7) (scatter : Bool) (f : EForm) (s : State) : Host.Outcome State Fault Refusal :=
  checked (.e 0x5A fn f) s fun w =>
    let at_ := (w.sreg f.sa).toNat
    let off := (w.sreg f.sb).toNat
    let z := (w.sreg f.sc).toNat
    let n := (w.sreg (f.sc + 1)).toNat
    let sizesOk := elementSize z && decide (1 ≤ n ∧ n ≤ 4096)
    let readable := sizesOk && !s.beyond w at_ (8 * n)
    let l := if readable then listOf (s.operandMem w) at_ n else []
    let (lo, len) := listSpan l z
    let kind : OpKind := if scatter then .scat l off z else .gath l off z
    s.afterChecks w
      [(at_ % 8 != 0, .misaligned, .memory 0 true 0), (off % 4 != 0, .misaligned, .memory 0 true 0),
       (l.any fun a => a % min z 128 != 0, .misaligned, .memory 0 false 0), (!sizesOk, .shapeMismatch, .none),
       (l.any fun a => !inRange a, .protection, .memory 0 false 4),
       (s.beyond w at_ (8 * n) || s.beyond w off (z * n), .protection, .memory 0 true 5),
       (lockConflict (s.cluster (clusterOf w.core)).locks w.scratchSpace at_ (8 * n) false, .rangeConflict, .memory 0 true 6)]
      (s.issueOp w (.copy w.core) 8 kind f.imm
        [⟨w.memorySpace, lo, len, scatter⟩, ⟨w.scratchSpace, off, z * n, !scatter⟩])

def execGath (f : EForm) (s : State) : Host.Outcome State Fault Refusal := listOp 0 false f s
def execScat (f : EForm) (s : State) : Host.Outcome State Fault Refusal := listOp 1 true f s

/-! ### The copy engine (R230, R231) -/

/-- Bytes of the next piece of a `cpy`: to the end of the 256-byte granule of a source in memory, so that each aligned 8-byte unit of
it is read at one time, and else at most 256. -/
def cpyPiece (dir src n p : Nat) : Nat := min (n - p) (if cpyFromMemory dir then 256 - (src + p) % 256 else 256)

/-- An operation with a unit more done, finished where nothing is left. -/
def EngineOp.gone (o : EngineOp) (progress total : Nat) : EngineOp :=
  if total ≤ progress then { o with progress := progress, state := .finished }
  else { o with progress := progress, state := .running }

/-- Writes the bytes of a `cpy`'s next piece at its destination; where its second page stands in the way, those before it (R230). -/
def State.cpyPut (s : State) (u : EngineUnit) (o : EngineOp) (dir dst n dest : Nat) (bytes : List Byte) : State :=
  let p := o.progress
  if cpyToMemory dir then
    match s.meetSpan o (dst + p) bytes.length true false with
    | .waits t => t
    | .go l =>
      let (s1, o1) := s.enginePieces o l bytes
      s1.setOp u (o1.gone (p + bytes.length) n)
    | .ends c t =>
      match s.meet o (dst + p) true false with
      | .at_ pa _ =>
        let (s1, o1) := t.engineWrite o pa (bytes.take (65536 - (dst + p) % 65536))
        s1.setOp u (o1.finish c)
      | _ => t.setOp u (o.finish c)
  else (s.scratchWrite dest (dst + p) bytes).setOp u (o.gone (p + bytes.length) n)

/-- One piece of a `cpy`. -/
def State.cpyStep (s : State) (u : EngineUnit) (o : EngineOp) (dir src dst n dest : Nat) : State :=
  let p := o.progress
  let m := cpyPiece dir src n p
  if cpyFromMemory dir then
    match s.meet o (src + p) false false with
    | .waits t => t
    | .ends c t => t.setOp u (o.finish c)
    | .at_ pa _ => (s.engineRead o [(pa, m)]).cpyPut u o dir dst n dest (Memory.readBytes s.mem pa m)
  else s.cpyPut u o dir dst n dest (Memory.readBytes (s.scratchOf o.caravan) (src + p) m)

/-- One element of a `gath`. -/
def State.gathStep (s : State) (u : EngineUnit) (o : EngineOp) (l : List Nat) (off z : Nat) : State :=
  match s.meetSpan o (listGet 0 l o.progress) z false false with
  | .waits t => t
  | .ends c t => t.setOp u (o.finish c)
  | .go p => ((s.engineRead o p).scratchWrite o.caravan (off + o.progress * z) (Memory.readPieces s.mem p)).setOp u
      (o.gone (o.progress + 1) l.length)

/-- One element of a `scat`. -/
def State.scatStep (s : State) (u : EngineUnit) (o : EngineOp) (l : List Nat) (off z : Nat) : State :=
  match s.meetSpan o (listGet 0 l o.progress) z true false with
  | .waits t => t
  | .ends c t => t.setOp u (o.finish c)
  | .go p =>
    let (s1, o1) := s.enginePieces o p (Memory.readBytes (s.scratchOf o.caravan) (off + o.progress * z) z)
    s1.setOp u (o1.gone (o.progress + 1) l.length)

/-- One unit of an operation of the copy engine of a core. -/
def State.copyUnit (s : State) (core : Nat) (o : EngineOp) : State :=
  match o.kind with
  | .cpy dir src dst n dest => s.cpyStep (.copy core) o dir src dst n dest
  | .gath l off z => s.gathStep (.copy core) o l off z
  | .scat l off z => s.scatStep (.copy core) o l off z
  | _ => s

/-- One unit of the operation at the head of the copy engine of a core. -/
def State.copyStep (s : State) (core : Nat) : State :=
  match s.headOp (.copy core) with
  | none => s
  | some o => if s.mayWork o then s.copyUnit core o else s

/-- Some units, one after another. -/
def State.copySteps (s : State) (core n : Nat) : State :=
  match n with
  | 0 => s
  | k + 1 => (s.copyStep core).copySteps core k

/-- COPY_ENGINE_RUN: the copy engine performs up to `count` pieces or elements. -/
def execCopyEngineRun (core count : Nat) (s : State) : Host.Outcome State Fault Refusal := .next (s.copySteps core count)

end Sys2Proof.Machine
end

