-- ==== Sys2Proof/Machine/Counting.lean ====
section
/-! DEFINITION. What the sampler of a cluster counts of an instruction, and the record of an instruction it tags (R322, R323). -/

namespace Sys2Proof.Machine

/-- One STEP of a scheduler's register L of 20 bits (R323). -/
def lfsrStep (l : Nat) : Nat := l * 2 % 2 ^ 20 + (if (l / 2 ^ 19 + l / 2 ^ 16) % 2 = 1 then 1 else 0)

/-- C after a STEP. -/
def tagCount (period l : Nat) : Nat := period / 2 + l % period

/-- No thread takes part in an instruction that has a predicate. -/
def State.noThread (s : State) (w : Warp) (r : Raw) : Bool :=
  match r with
  | .v _ _ f => s.takes w f.pred f.pneg == 0
  | .m _ f _ => s.takes w f.pred f.pneg == 0
  | .a _ _ f _ => s.takes w f.pred f.pneg == 0
  | _ => false

/-- Some thread of an access to memory reaches a page of the LPDDR 6 tier. -/
def State.reachesLpddr (s : State) (w : Warp) (take : BitVec 96) (addr : Nat → Nat) : Bool :=
  (threadsOf take).any fun t => s.inLpddr w.core w.ctx (addr t)

/-- A store or an atomic reaches a page of the LPDDR 6 tier. -/
def State.homeLpddr (s : State) (w : Warp) (r : Raw) : Bool :=
  match r with
  | .m 0x52 f _ => s.reachesLpddr w (s.takes w f.pred f.pneg) (s.memAddr w f.sbase f.vidx (f.off.signExtend 64))
  | .a 0x55 _ f _ => s.reachesLpddr w (s.takes w f.pred f.pneg) (s.memAddr w f.sbase f.vidx (f.off.signExtend 64))
  | _ => false

/-- LEVEL of an instruction as it leaves the issue: 2 for an access to the scratchpad, a home for a store or an atomic, and 0 for a load
whose data is to come and for what reads no memory; 0 where no thread takes part or where it traps. -/
def issueLevel (op : Nat) (idle : Bool) : Option Nat :=
  if idle then some 0
  else if op = 0x53 ∨ op = 0x54 ∨ op = 0x56 then some 2
  else if op = 0x52 ∨ op = 0x55 then none
  else some 0

/-- The record of an instruction of the warp, before it runs; `load` is the load it has sent. -/
def State.tagRecord (s : State) (w : Warp) (trapped : Bool) (load : Option Nat) : TagRecord :=
  let r := parse w.instrWords.1 w.instrWords.2
  let hdr := match w.run with
    | some x => x.header
    | none => w.next
  { head := natBytes 8 w.issuedAt ++ natBytes 8 (s.objOf w) ++ natBytes 4 w.caravan ++ natBytes 4 w.pass ++ natBytes 2 w.core
      ++ natBytes 1 w.idx ++ natBytes 1 w.sched ++ natBytes 4 hdr ++ natBytes 1 (opNat r) ++ natBytes 1 (fnNat r),
    flags := (if s.noThread w r then 1 else 0) + (if trapped then 2 else 0),
    level := issueLevel (opNat r) (s.noThread w r || trapped), lpddr := s.homeLpddr w r, load := load }

/-- The countdown of the scheduler of a warp, and the record of an instruction it tags. -/
def Sampler.countDown (p : Sampler) (g : Nat) (r : TagRecord) : Sampler :=
  let c := listGet 0 p.countdown g - 1
  if c = 0 then
    let l := lfsrStep (listGet 1 p.lfsr g)
    { p with lfsr := listPut 1 p.lfsr g l, countdown := listPut 0 p.countdown g (tagCount (max 1 p.period) l),
             pending := p.pending ++ [r] }
  else { p with countdown := listPut 0 p.countdown g c }

/-- The warp has left its instruction: it is neither where it was nor waiting to take the instruction up again. -/
def Warp.left (before after : Warp) : Bool :=
  match after.phase with
  | .waiting (.translation _) => false
  | .waiting (.vgrow _) => false
  | .issuing => after.idx != before.idx
  | _ => true

/-- The instruction ended in a trap. -/
def Warp.trapped (before after : Warp) : Bool :=
  match after.phase with
  | .terminating _ => true
  | .faultStopped _ => true
  | _ => after.handlerActive && !before.handlerActive

/-- What the sampler of the cluster counts of an instruction that warp `w` has left as `x`: codes 2 and 10, and the tag (R322,
R323); `load` is the load it has sent. -/
def State.countInstruction (before after : State) (w x : Warp) (load : Option Nat) : State :=
  let cluster := clusterOf w.core
  let p := (after.cluster cluster).sampler
  if p.running && p.owner == some w.ctx then
    let s1 := after.sample cluster w.ctx 2 1
    let s2 := if w.trapped x && x.tcause == 6 then s1.sample cluster w.ctx 10 1 else s1
    if p.tagged then
      s2.updCluster cluster fun k =>
        { k with sampler := k.sampler.countDown (4 * (w.core % 2) + w.sched) (before.tagRecord w (w.trapped x) load) }
    else s2
  else after

/-- The load that an instruction of a warp has sent, whose number would have been `n`. -/
def Warp.sentLoad (x : Warp) (n : Nat) : Option Nat := if x.loads.any fun l => l.id == n then some n else none

/-- What the sampler counts of the instruction the current warp has run, where it has left it. -/
def State.instructionCounted (before after : State) : State :=
  match before.curWarp, Tbl.find after.warps before.cur with
  | some w, some x =>
    if w.phase ≠ .issuing ∨ w.left x = false then after else before.countInstruction after w x (x.sentLoad before.nextId)
  | _, _ => after

end Sys2Proof.Machine
end

