-- ==== Sys2Proof/Machine/WalkEvents.lean ====
section
/-! DEFINITION. The walkers and the die fault queue (R293 to R297), the bandwidth tokens (R299), and the stop of an engine
(R357, R358). -/

namespace Sys2Proof.Machine

/-! ### The die fault queue (R295, R296) -/

/-- The KIND byte of a fault record. -/
def AccessKind.code (k : AccessKind) : Nat :=
  match k with
  | .read => 0
  | .write => 1
  | .fetch => 2
  | .engine => 3

/-- The code object of a requester, or 0 where it is not a warp. -/
def State.requesterObject (s : State) (who : Requester) : Nat :=
  match who with
  | .warp id => match s.warp? id with
    | some w => s.objOf w
    | none => 0
  | _ => 0

/-- The home of an address of a fault record, where it can be written: its translation posts nothing further (R388). -/
def State.recordReach (s : State) (core ctx va : Nat) : State × Option Nat :=
  let t := (s.peek core ctx va).1
  match t.reach core ctx va true false with
  | .at_ _ pa => (t, some pa)
  | .refused true => (t.worldViolation, none)
  | _ => (t, none)

/-- Writes the record of a new entry to its context's fault ring, in the layout of R317 with records of 32 bytes; a record that cannot
be written is dropped (R388). -/
def State.faultRecord (s : State) (die seq reason : Nat) (r : WalkRequest) : State :=
  match Tbl.find s.contexts r.ctx with
  | none => s
  | some c =>
    match s.recordReach r.core r.ctx c.fring with
    | (s0, none) => s0
    | (s0, some pa) =>
      let i := Memory.readNat s0.mem (pa + 16) 8
      let s1 := s0.homeWrite (pa + 16) (natBytes 8 (i + 1))
      let size := max 1 (Memory.readNat s0.mem (pa + 8) 4)
      match s1.recordReach r.core r.ctx (Memory.readNat s0.mem pa 8 + 32 * (i % size)) with
      | (s2, none) => s2
      | (s2, some q) =>
        s2.homeWrite q (natBytes 4 seq ++ natBytes 2 die ++ natBytes 1 reason ++ natBytes 1 r.kind.code
          ++ natBytes 8 (r.va / 65536 * 65536) ++ natBytes 8 (s2.requesterObject r.who) ++ natBytes 4 r.core ++ natBytes 4 0)

/-- A requester waits on an entry; a warp waits inside its instruction, or before its run. -/
def State.waitOn (s : State) (r : WalkRequest) (seq : Nat) : State :=
  match r.who with
  | .warp id => s.updWarp id fun w =>
      match w.phase with
      | .issuing | .fetch => { w with phase := .waiting (.translation seq) }
      | _ => w
  | _ => s

/-- A request leaves the walkers; a warp that waits on an entry makes no other request. -/
def State.takeRequest (s : State) (die : Nat) (r : WalkRequest) (allOfWarp : Bool) : State :=
  let same (q : WalkRequest) : Bool :=
    q == r || (allOfWarp && (match r.who with
      | .warp id => q.who == .warp id
      | _ => false))
  s.updDie die fun d => { d with requests := d.requests.filter fun q => !same q }

/-- An open entry is that of a context, a reason and the page of an address. -/
def FaultEntry.isFor (f : FaultEntry) (ctx va reason : Nat) : Bool :=
  f.ctx == ctx && f.reason == reason && decide (f.va ≤ va ∧ va < f.va + f.size)

/-- A walk that faults posts: the requester joins the open entry of its context, page and reason, or opens one; while all
4,096 entries are open it waits (R295). -/
def State.postFault (s : State) (die : Nat) (r : WalkRequest) (reason : Nat) : State :=
  let d := s.die die
  match d.faults.find? fun f => f.isFor r.ctx r.va reason with
  | some f =>
    let join (g : FaultEntry) : FaultEntry :=
      if g.seq = f.seq ∧ (g.waiters.any fun x => x.who == r.who) = false then { g with waiters := g.waiters ++ [r] } else g
    ((s.takeRequest die r true).updDie die fun d => { d with faults := d.faults.map join }).waitOn r f.seq
  | none =>
    if 4096 ≤ d.faults.length then s
    else
      let span := match Tbl.find s.contexts r.ctx with
        | some c => faultSpan s.mem c.root r.va reason
        | none => 65536
      let f : FaultEntry :=
        { seq := d.seq, ctx := r.ctx, va := r.va / span * span, size := span, reason := reason, waiters := [r] }
      let s1 := (s.takeRequest die r true).updDie die fun d =>
        { d with faults := d.faults ++ [f], seq := (d.seq + 1) % 2 ^ 32 }
      ((s1.waitOn r d.seq).faultRecord die d.seq reason r).sample (clusterOf r.core) r.ctx 17 1

/-! ### TABLE_WALK (R289, R293, R294) -/

/-- Serves a miss: its request leaves the walkers once a TLB or a walk has translated it, and a walk that faults posts. -/
def State.serveMiss (s : State) (die : Nat) (r : WalkRequest) : State :=
  match s.lookUp r.core r.ctx r.va (r.kind == .fetch) with
  | (s1, .ok _) => s1.takeRequest die r false
  | (s1, .error reason) => if (Tbl.find s.contexts r.ctx).isNone then s1.takeRequest die r false else s1.postFault die r reason

/-- TABLE_WALK: the misses of a context on one unit of 64 KiB are served together, in their order. -/
def execTableWalk (core ctx : Nat) (va : BitVec 64) (s : State) : Host.Outcome State Fault Refusal :=
  let die := dieOf core
  let mine := (s.die die).requests.filter fun r => r.ctx == ctx && r.va / 65536 == va.toNat / 65536
  .next (mine.foldl (fun acc r => acc.serveMiss die r) s)

/-! ### RESOLVE (R297) -/

/-- A waiter walks again: its request stands among the die's, and a warp goes on where it waited. -/
def State.retryWaiter (s : State) (die seq : Nat) (r : WalkRequest) : State :=
  let s1 := s.updDie die fun d => { d with requests := d.requests ++ [r] }
  match r.who with
  | .warp id => s1.updWarp id fun w =>
      if w.phase = .waiting (.translation seq) then { w with phase := if w.run.isSome then .issuing else .fetch } else w
  | _ => s1

/-- Adds a page to those an operation may not reach. -/
def EngineOp.failPage (id ctx page : Nat) (o : EngineOp) : EngineOp :=
  if o.id = id then { o with pages := o.pages ++ [(ctx, page)] } else o

/-- A waiter whose page will not come: a warp is terminated with cause *translation fault*, an engine operation ends at
that page with STATUS 2, an access of the part is dropped. The sampler counts the instruction that a warp ends with it. A fatal translation fault writes no field of TINFO. A warp that waits for
its next run stands at a boundary, so that a stop, a debug halt or a trap due there comes first (R113, R305): the run is then fetched
afresh. -/
def State.failWaiter (s : State) (seq : Nat) (r : WalkRequest) : State :=
  let page := r.va / 65536
  match r.who with
  | .warp id =>
    match s.warp? id with
    | some w =>
      if w.phase = .waiting (.translation seq) then
        match w.run with
        | some run =>
          let s1 := s.enter id w .translationFault run.header (BitVec.ofNat 32 w.idx) .none
          match s1.warp? id with
          | some x => s.countInstruction s1 w x none
          | none => s1
        | none =>
          let x : Warp := { w with phase := .fetch }
          let s1 := s.setWarp id x
          match s.caravan? w.caravan with
          | some c => if s.mustStop x then s1 else s1.runCause id x (s.headerRun x c) .translationFault 0xFFFFFFFF .none
          | none => s1
      else s
    | none => s
  | .engine op => s.mapOps (EngineOp.failPage op r.ctx page)
  | .part what => { s with dropped := s.dropped ++ [(what, r.ctx, page)] }

/-- Answers a fault entry; a number that names no open entry is ignored. -/
def State.resolve (s : State) (die seq : Nat) (fail : Bool) : State :=
  match (s.die die).faults.find? fun f => f.seq == seq with
  | none => s
  | some f =>
    let s1 := s.updDie die fun d => { d with faults := d.faults.filter fun g => g.seq != seq }
    if fail then f.waiters.foldl (fun acc r => acc.failWaiter seq r) s1
    else f.waiters.foldl (fun acc r => acc.retryWaiter die seq r) s1

/-! ### Bandwidth tokens (R299) -/

/-- TOKEN_REFILL: once in each microsecond of device time a context's balance on a die gains its share. -/
def execTokenRefill (die ctx : Nat) (s : State) : Host.Outcome State Fault Refusal :=
  match Tbl.find s.contexts ctx with
  | none => .next s
  | some c =>
    let last := Tbl.findD (s.die die).lastToken ctx 0
    .next (if die < 4 ∧ last + 1000 ≤ s.time then
      s.updDie die fun d => { d with balance := Tbl.put d.balance ctx (Tbl.findD d.balance ctx 0 + (c.btok : Int)),
                                     lastToken := Tbl.put d.lastToken ctx (last + 1000) }
      else s)

/-! ### ENGINE_STOP (R214, R219, R231, R266, R286, R357, R358, R382, R383) -/

/-- The UNIT code of a stop record. -/
def stopUnit (u : EngineUnit) : Nat :=
  match u with
  | .matrix _ => 1
  | .copy _ => 2
  | .selection _ => 3
  | .attention _ => 4
  | .fabric _ => 5
  | .loader _ => 6
  | .table _ => 2

/-- PROGRESS of an operation in its stop record: blocks closed or packed, bytes or elements done, pages examined, or the
tile number and the number of key blocks finished in it, whose places in the field the spec leaves open (assumption
log 15). -/
def EngineOp.stopProgress (o : EngineOp) : Nat :=
  match o.kind with
  | .katt _ => (Config.attentionIndex o.progress o.blocks).toNat
  | .ksel _ => o.data.length / 16
  | _ => o.progress

/-- Some units more, one after another, of an operation that stays the one in progress. -/
def State.unitsMore (s : State) (u : EngineUnit) (id n : Nat) (step : State → EngineOp → State) : State :=
  match n, s.headOp u with
  | k + 1, some o => if o.id = id then (step s o).unitsMore u id k step else s
  | _, _ => s

/-- Some units more of the operation in progress in a unit, as far as its engine comes before it stops; an operation not yet begun,
or one behind another, does nothing (R266, R286). -/
def State.workOn (s : State) (u : EngineUnit) (o : EngineOp) (amount : Nat) : State :=
  if o.state != .running || (s.headOp u).map (fun x => x.id) != some o.id then s
  else match u with
  | .matrix k =>
    if s.atHeads o && !s.arrayHeld k then
      let (s1, o1) := s.matrixTo o (min o.matrixBlocks (o.progress + amount))
      (s1.setMatrixOp o1).matrixDone k o1
    else s
  | .copy k => s.unitsMore u o.id amount fun t x => t.copyUnit k x
  | .loader k => s.unitsMore u o.id amount fun t x => t.loaderUnit k x
  | .selection c => match o.kind with
    | .ksel r => if amount = 0 then s else s.selectStep (.selection c) o r
    | _ => s
  | .attention c => match o.kind with
    | .katt r => if amount = 0 then s else s.attentionStep c o r
    | _ => s
  | _ => s

/-- Marks an operation as stopped, with its stop record, one from each array of a pair (R214); PROGRESS of its warp will read it
(R358). -/
def State.stopOp (s : State) (u : EngineUnit) (o : EngineOp) : State :=
  let stop (t : State) (v : EngineUnit) : State := t.setOp v { o with stopped := true }
  let p := o.stopProgress
  let record (t : State) (core : Nat) : State :=
    t.addStop (s.partitionOf o.ctx) (stopRecord (stopUnit u) 0 core o.caravan o.pass p s.time)
  let s1 := match u with
    | .matrix _ => o.arrays.foldl (fun t k => record (stop t (.matrix k)) k) s
    | .copy k | .loader k | .table k => record (stop s u) k
    | _ => record (stop s u) o.core
  s1.updWarp o.warp fun w => { w with stoppedOp := some (o.id, BitVec.ofNat 32 p) }

/-- The first operation of a unit that is neither finished nor stopped, and may be stopped. -/
def State.stoppable (s : State) (u : EngineUnit) : Option EngineOp :=
  (s.queueOf u).find? fun o => o.state != .finished && !o.stopped && o.kind.stops o.state

/-- ENGINE_STOP: under its partition's halt line an engine finishes up to `amount` units of its work in progress, and stops
one unfinished operation with a stop record. -/
def execEngineStop (unit : EngineUnit) (amount : Nat) (s : State) : Host.Outcome State Fault Refusal :=
  match s.stoppable unit with
  | none => .next s
  | some o =>
    if (Tbl.findD s.partitions (s.partitionOf o.ctx) Partition.initial).halt.isNone then .next s
    else
      let s1 := s.workOn unit o amount
      match (s1.queueOf unit).find? fun x => x.id == o.id with
      | none => .next s1
      | some x => .next (if x.state == .finished then s1 else s1.stopOp unit x)

end Sys2Proof.Machine
end

