-- ==== Sys2Proof/Machine/Debug.lean ====
section
/-! DEFINITION. Debug and trace instructions: `brk` (R109, R307), `dbg` (R303 to R316) and `trc` (R317 to R320). -/

namespace Sys2Proof.Machine

/-! ### brk (R109, R307) -/

/-- The debugger has claimed the `brk` of the code object a warp runs (R307). -/
def State.brkClaimed (s : State) (w : Warp) : Bool :=
  match Tbl.find s.contexts w.ctx with
  | some c => c.breakpoints.contains (s.objOf w, 0)
  | none => false

/-- The warp debug-halts at a claimed `brk`: TCAUSE, TRUN, TIDX and TINFO are written as ENTER writes them, its bit 1 from the trap mask,
BREAK is reported with ORD 0, and what is left of the run comes as a remainder (R307), which has read what the run had read of a latch
(R98). -/
def State.haltAtBrk (s : State) (w : Warp) (code : BitVec 12) : State :=
  let hdr := match w.run with
    | some r => r.header
    | none => w.next
  let w1 := (w.writeCause .breakpoint hdr (BitVec.ofNat 32 w.idx) (.code code)).keepMask
  let w2 : Warp :=
    { w1.leaveRun hdr with resume := some (w.idx + 1), remainder := true, readLow := w.readLow, debugHalted := true, active := false }
  (s.report w.ctx (some s.cur) (w.reportBytes 1 0xFF 0 w.mask code.toNat hdr s.time (s.objOf w))).setWarp s.cur
    (w2.tracePreempt s.time hdr 1).anchorOwed

def execBrk (code : BitVec 12) (s : State) : Host.Outcome State Fault Refusal :=
  checked (.s 0x2F 0 0 1 code) s fun w =>
    if s.brkClaimed w then s.haltAtBrk w code else s.trapHere w .breakpoint (.code code)

/-! ### Targets and results (R303, R314, R316) -/

/-- The context that the warp's context is attached to. -/
def State.targetOf (s : State) (w : Warp) : Option Nat :=
  match Tbl.find s.contexts w.ctx with
  | some c => c.target
  | none => none

/-- The warp of a context that is the pass of a caravan. -/
def State.passOf (s : State) (ctx caravan pass : Nat) : Option (Nat × Warp) :=
  s.warps.find? fun p => p.2.ctx == ctx && p.2.caravan == caravan && p.2.pass == pass

/-- The pair a target is named by: CARAVAN and the pass number. -/
def targetPair (v : DWord) : Nat × Nat := ((v.extractLsb' 0 32).toNat, (v.extractLsb' 32 32).toNat)

/-- Writes a status and a value to pair SC and completes the instruction. -/
def State.answer (s : State) (sc : BitVec 6) (status value : Word) : State :=
  (s.updWarp s.cur fun x => x.setPair sc (value ++ status)).finishCur

/-- The frame of a `dbg` on the target context. -/
def dbgContext (fn : BitVec 7) (f : EForm) (k : Warp → Nat → Context → State) (s : State) : Host.Outcome State Fault Refusal :=
  checked (.e 0x74 fn f) s fun w =>
    match s.targetOf w with
    | none => s.answer f.sc 1 0
    | some t =>
      match Tbl.find s.contexts t with
      | none => s.answer f.sc 1 0
      | some c => k w t c

/-- The frame of a `dbg` on a target warp: its number and the warp. -/
def dbgWarp (fn : BitVec 7) (f : EForm) (k : Warp → Nat → Warp → State) (s : State) : Host.Outcome State Fault Refusal :=
  dbgContext fn f (fun w t _ =>
    let (caravan, pass) := targetPair (w.spair f.sa)
    match s.passOf t caravan pass with
    | none => s.answer f.sc 2 0
    | some (id, x) => k w id x) s

/-! ### Breakpoints (R306, R307) -/

/-- The entry a breakpoint operation names. -/
def breakEntry (w : Warp) (f : EForm) : Nat × Nat := ((w.spair f.sa).toNat, (f.imm.extractLsb' 0 12).toNat)

def execDbgSetbrk (f : EForm) (s : State) : Host.Outcome State Fault Refusal :=
  dbgContext 0 f (fun w t c =>
    let e := breakEntry w f
    if c.breakpoints.contains e then s.answer f.sc 0 0
    else if 16 ≤ c.breakpoints.length then s.answer f.sc 4 0
    else (s.setContext t { c with breakpoints := c.breakpoints ++ [e] }).answer f.sc 0 0) s

def execDbgClrbrk (f : EForm) (s : State) : Host.Outcome State Fault Refusal :=
  dbgContext 1 f (fun w t c =>
    let e := breakEntry w f
    if c.breakpoints.contains e then
      (s.setContext t { c with breakpoints := c.breakpoints.filter fun x => x != e }).answer f.sc 0 0
    else s.answer f.sc 9 0) s

/-! ### halt and resume (R304, R305, R314) -/

/-- The warp is debug-halted, and the reports of its halt are posted: the halt waits with them (R312). -/
def State.debugHeld (s : State) (id : Nat) (x : Warp) : Bool := x.debugHalted && !s.posting id

/-- An operation of a warp is not finished. -/
def State.unfinished (s : State) (id : Nat) (w : Warp) : Bool :=
  (s.clusterOps (clusterOf w.core)).any fun o => o.warp == id && o.state != .finished

/-- The warps of a partition have all stopped; one that is at its end and waits for its operations issues nothing more. -/
def State.allStopped (s : State) (partition : Nat) : Bool :=
  s.warps.all fun p => s.partitionOf p.2.ctx != partition ||
    match p.2.phase with
    | .stopped => true
    | .faultStopped _ => true
    | .retiring _ => s.unfinished p.1 p.2
    | .terminating _ => s.unfinished p.1 p.2
    | _ => false

/-- The HALT report of a partition; the fields for which the spec gives no value are free (R314). -/
def partitionReport (now : Nat) : List Byte :=
  let x := Config.haltReportField now
  natBytes 1 4 ++ natBytes 1 0xFF ++ natBytes 2 0 ++ natBytes 4 (x 0) ++ natBytes 4 0xFFFFFFFF ++ natBytes 4 (x 1)
    ++ natBytes 12 (x 2) ++ natBytes 2 (x 3) ++ natBytes 2 0 ++ natBytes 4 0 ++ natBytes 4 (x 4) ++ natBytes 8 now
    ++ natBytes 8 (x 5)

/-- Posts the HALT report that a debugger is owed once every warp of the partition has stopped. -/
def State.haltReported (s : State) (partition : Nat) (p : Partition) : State :=
  match p.haltReport with
  | none => s
  | some ctx =>
    if s.allStopped partition then
      let s1 := { s with partitions := Tbl.put s.partitions partition { p with haltReport := none } }
      match Tbl.find s1.contexts ctx with
      | some c => s1.setContext ctx { c with reports := c.reports ++ [Report.mk (partitionReport s.time) none none] }
      | none => s1
    else s

/-- The same for every partition: what follows each step. -/
def State.haltReports (s : State) : State := s.partitions.foldl (fun acc p => acc.haltReported p.1 p.2) s

/-- A holder is an agent other than a debug context: neither that context nor a fault, whose line a debugger may lower
(R166). -/
def HaltHolder.other (h : HaltHolder) (ctx : Nat) : Bool :=
  match h with
  | .fault => false
  | .debug c => c != ctx
  | _ => true

/-- `dbg.halt` with PART: raises the line of the target's partition. -/
def State.haltPartition (s : State) (w : Warp) (target : Nat) (sc : BitVec 6) : State :=
  let n := s.partitionOf target
  let p := Tbl.findD s.partitions n Partition.initial
  if p.holders.any fun h => h.other w.ctx then s.answer sc 10 0
  else if p.holders.contains (.debug w.ctx) then s.answer sc 7 0
  else
    let s1 := s.raiseHalt n (.debug w.ctx)
    let q := Tbl.findD s1.partitions n Partition.initial
    State.answer { s1 with partitions := Tbl.put s1.partitions n { q with haltReport := some w.ctx } } sc 0 0

/-- `dbg.resume` with PART: lowers the line that the debugger or a fault holds. -/
def State.resumePartition (s : State) (w : Warp) (target : Nat) (sc : BitVec 6) : State :=
  let n := s.partitionOf target
  let p := Tbl.findD s.partitions n Partition.initial
  if p.holders.any fun h => h.other w.ctx then s.answer sc 10 0
  else if p.holders.isEmpty then s.answer sc 0 0
  else ((s.lowerHalt n (.debug w.ctx)).lowerHalt n .fault).answer sc 0 0

def execDbgHalt (f : EForm) (s : State) : Host.Outcome State Fault Refusal :=
  if f.imm.getLsbD 0 then dbgContext 2 f (fun w t _ => s.haltPartition w t f.sc) s
  else dbgWarp 2 f (fun _ id x =>
    if x.debugHalted || x.haltPending then s.answer f.sc 7 0
    else (s.setWarp id { x with haltPending := true }).answer f.sc 0 0) s

def execDbgResume (f : EForm) (s : State) : Host.Outcome State Fault Refusal :=
  if f.imm.getLsbD 0 then dbgContext 3 f (fun w t _ => s.resumePartition w t f.sc) s
  else dbgWarp 3 f (fun _ id x =>
    if s.debugHeld id x then (s.setWarp id { x with debugHalted := false, skipBreak := x.resume.isNone }).answer f.sc 0 0
    else s.answer f.sc 3 0) s

/-! ### step (R308, R309) -/

/-- STEPSTATE at the start of a step: RUNS is 0; a step with focus sets FOCUS and THREAD. -/
def stepStart (old : Word) (whole : Bool) (thread : Nat) : Word :=
  if whole then old &&& 0x000000FE else BitVec.ofNat 32 (1 + thread * 2)

/-- The warp leaves its debug halt for a step. -/
def Warp.beginStep (w : Warp) (whole : Bool) (thread : Nat) : Warp :=
  { w with debugHalted := false, skipBreak := true, step := some ⟨whole, thread⟩, stepRuns := 0,
           stepState := stepStart w.stepState whole thread }

def execDbgStep (f : EForm) (s : State) : Host.Outcome State Fault Refusal :=
  dbgWarp 4 f (fun _ id x =>
    let k := (f.imm.extractLsb' 0 7).toNat
    if !s.debugHeld id x then s.answer f.sc 3 0
    else if f.imm.getLsbD 7 then (s.setWarp id (x.beginStep true 0)).answer f.sc 0 0
    else if x.resume.isSome then s.answer f.sc 12 0
    else if !x.mask.getLsbD k then s.answer f.sc 6 0
    else if 1024 ≤ x.depth then s.answer f.sc 11 0
    else
      let one : BitVec 96 := BitVec.ofNat 96 (2 ^ k)
      let (mem, y) := pushEntry s.mem x ⟨.pending, BitVec.ofNat 24 x.next, x.mask &&& ~~~one⟩
      ((s.setWarp id ((y.setMask one).beginStep false k)).stackWritten mem x x.spilled y.spilled).answer f.sc 0 0) s

/-! ### Watchpoints (R310) -/

/-- Forgets what the warps of a caravan recorded for an entry. -/
def State.clearHits (s : State) (caravan entry : Nat) : State :=
  { s with warps := s.warps.map fun p =>
      (p.1, if p.2.caravan = caravan then { p.2 with watchHits := listPut none p.2.watchHits entry none } else p.2) }

/-- The watchpoint entry of a core. -/
def Core.watch (k : Core) (entry : Nat) : Option Watchpoint := listGet none k.watchpoints entry

/-- The entry is held for another caravan. -/
def Core.watchTaken (k : Core) (entry caravan : Nat) : Bool :=
  match k.watch entry with
  | some e => e.caravan != caravan
  | none => false

def execDbgWatch (f : EForm) (s : State) : Host.Outcome State Fault Refusal :=
  dbgWarp 5 f (fun w _ x =>
    let entry := (f.imm.extractLsb' 0 2).toNat
    let start := (w.sreg f.sb).toNat
    let len := (w.sreg (f.sb + 1)).toNat
    let p : Watchpoint := ⟨x.caravan, start, len, f.imm.getLsbD 2, f.imm.getLsbD 3⟩
    if (s.core x.core).watchTaken entry x.caravan then s.answer f.sc 4 0
    else if len = 0 ∨ s.allotment x < start + len then s.answer f.sc 8 0
    else ((s.updCore x.core fun k => { k with watchpoints := listPut none k.watchpoints entry (some p) }).clearHits
      x.caravan entry).answer f.sc 0 0) s

def execDbgUnwatch (f : EForm) (s : State) : Host.Outcome State Fault Refusal :=
  dbgWarp 6 f (fun _ _ x =>
    let entry := (f.imm.extractLsb' 0 2).toNat
    if (s.core x.core).watchTaken entry x.caravan then s.answer f.sc 4 0
    else ((s.updCore x.core fun k => { k with watchpoints := listPut none k.watchpoints entry none }).clearHits
      x.caravan entry).answer f.sc 0 0) s

/-! ### Registers (R315) -/

/-- What a register selector names. -/
inductive Selected
  | scalar (r : BitVec 6)
  | element (n thread : Nat)
  | predicate (n beat : Nat)
  | special (index : Nat)
  | stackWord (entry word : Nat)
  | slot (track index thread part : Nat)
  | none
  deriving DecidableEq, Repr

def selected (sel : Word) : Selected :=
  let field (lo n : Nat) : Nat := sel.toNat / 2 ^ lo % 2 ^ n
  match field 0 3 with
  | 0 => .scalar (sel.extractLsb' 4 6)
  | 1 => .element (field 4 7) (field 16 7)
  | 2 => .predicate (field 4 3) (field 16 2)
  | 3 => .special (field 4 12)
  | 4 => .stackWord (field 4 10) (field 16 2)
  | 5 => .slot (field 4 4) (field 8 4) (field 16 7) (field 23 2)
  | _ => .none

/-- Entry i of the reconvergence stack, counted from the top. -/
def stackAt (mem : Memory) (w : Warp) (i : Nat) : Option StackEntry :=
  if w.depth ≤ i then none
  else match w.stack[i]? with
    | some e => some e
    | none => some (entryAt mem (w.spillAt (w.depth - 1 - i)))

/-- A word of a handoff slot. -/
def slotWord (x : Slot) (thread part : Nat) : Word :=
  match part with
  | 0 => lane x.value thread
  | 1 => BitVec.ofNat 32 x.tag
  | _ => BitVec.ofNat 32 ((if x.present then 1 else 0) + (if x.relayPending then 2 else 0))

/-- The value of a selected register, or none where it is refused with status 5. -/
def State.readSelected (s : State) (w : Warp) (sel : Word) : Option Word :=
  match selected sel with
  | .scalar r => some (w.sreg r)
  | .element n t => if n < w.quota then some (lane (listGet [] (s.vregsOf w) n) t) else none
  | .predicate n beat => some ((w.predicate n).extractLsb' (32 * beat) 32)
  | .special i => some (s.readSpecial w i)
  | .stackWord e k => (stackAt s.mem w e).map fun x => BitVec.ofNat 32 (bytesNat ((entryBytes x).drop (4 * k) |>.take 4))
  | .slot track i t part =>
    if s.tracksOf w ≤ track then none
    else match s.caravan? w.caravan with
      | some c => some (slotWord (c.slot track i) t part)
      | none => none
  | .none => none

/-- A predicate with one of its three words replaced. -/
def putBeat (p : BitVec 96) (beat : Nat) (v : Word) : BitVec 96 :=
  maskOf fun t => if t / 32 = beat then v.getLsbD (t % 32) else p.getLsbD t

/-- Writes a selected register as the warp's own write would, or none where it is refused with status 5. A write of TINFO while the warp is
held at a fault may redirect it (R166). -/
def State.writeSelected (s : State) (id : Nat) (w : Warp) (sel v : Word) : Option State :=
  match selected sel with
  | .scalar r => some (s.setWarp id (w.setS r v))
  | .element n t =>
    if w.quota ≤ n then none
    else if w.inFrame then some (s.homeWrite (w.frame + 384 * n + 4 * t) (natBytes 4 v.toNat))
    else
      let old := listGet [] w.vregs n
      let new := lanesOf fun u => if u = t then v else lane old u
      some (s.setWarp id { w with vregs := listPut [] w.vregs n new })
  | .predicate n beat => some (s.setWarp id (w.setPredicate n (putBeat (w.predicate n) beat v)))
  | .special i => some (s.setWarp id { w.writeSpecial i v with redirected := w.redirected || i == 5 })
  | _ => none

/-- The warp's registers may be read and written: it is debug-halted, or held at a fault whose report is posted (R166, R312). -/
def State.inspectable (s : State) (id : Nat) (w : Warp) : Bool :=
  s.debugHeld id w || match w.phase with
    | .faultStopped _ => !s.posting id
    | _ => false

def execDbgRdreg (f : EForm) (s : State) : Host.Outcome State Fault Refusal :=
  dbgWarp 7 f (fun _ id x =>
    if !s.inspectable id x then s.answer f.sc 3 0
    else match s.readSelected x f.imm with
      | some v => s.answer f.sc 0 v
      | none => s.answer f.sc 5 0) s

def execDbgWrreg (f : EForm) (s : State) : Host.Outcome State Fault Refusal :=
  dbgWarp 8 f (fun w id x =>
    if !s.inspectable id x then s.answer f.sc 3 0
    else match s.writeSelected id x f.imm (w.sreg f.sb) with
      | some t => t.answer f.sc 0 0
      | none => s.answer f.sc 5 0) s

/-! ### Reading a span of a context's memory -/

/-- Why a span cannot be read whole. -/
inductive Unread
  /-- The page at the address has no translation. -/
  | unmapped (va : Nat)
  /-- A page is refused or poisoned. -/
  | refused (world : Bool)
  deriving DecidableEq, Repr

def State.readPiecesAt (s : State) (core ctx : Nat) (l : List (Nat × Nat)) : Except Unread (List Byte) :=
  match l with
  | [] => .ok []
  | (va, n) :: rest =>
    match s.reach core ctx va false false with
    | .at_ _ pa =>
      match s.readPiecesAt core ctx rest with
      | .ok b => .ok (Memory.readBytes s.mem pa n ++ b)
      | .error e => .error e
    | .unmapped => .error (.unmapped va)
    | .refused world => .error (.refused world)
    | .poisoned => .error (.refused false)

/-- The bytes of a virtual span, read fresh at the homes. -/
def State.readSpan (s : State) (core ctx va n : Nat) : Except Unread (List Byte) :=
  s.readPiecesAt core ctx (piecesOf va n)

/-! ### trc (R317, R319, R320) -/

/-- A field of a block of bytes, little-endian. -/
def byteField (b : List Byte) (off n : Nat) : Nat := bytesNat ((b.drop off).take n)

/-- A value is a power of two from 2^lo to 2^hi. -/
def powerBetween (lo hi n : Nat) : Bool := decide (2 ^ lo ≤ n ∧ n ≤ 2 ^ hi) && n == 2 ^ n.log2

/-- The ring of a control block of 64 bytes, where it is a good one. -/
def ringOf (ctx va : Nat) (b : List Byte) : Option TraceRing :=
  let base := byteField b 0 8
  let size := byteField b 8 4
  if base % 64 = 0 ∧ powerBetween 6 24 size = true ∧ byteField b 12 4 = 0 ∧ byteField b 24 40 = 0 then
    some ⟨ctx, va, base, size⟩
  else none

/-- The warps that a `trc` names, and the caravan whose future passes it names, where it names any. -/
structure Traced where
  warps : List Nat
  caravan : Option Nat
  deriving DecidableEq, Repr

/-- Contexts whose warps a warp may trace: its own and its attached target. -/
def State.traceable (s : State) (w : Warp) (ctx : Nat) : Bool := ctx == w.ctx || s.targetOf w == some ctx

/-- What SELF, or the pair SB, names; none is status 2. -/
def State.traced (s : State) (w : Warp) (f : EForm) : Option Traced :=
  if f.imm.getLsbD 0 then some ⟨[s.cur], none⟩
  else
    let (caravan, pass) := targetPair (w.spair f.sb)
    let l := (s.warps.filter fun p => s.traceable w p.2.ctx && p.2.caravan == caravan
      && (pass == 0xFFFFFFFF || p.2.pass == pass)).map fun p => p.1
    let named := match s.caravan? caravan with
      | some c => s.traceable w c.ctx
      | none => false
    if pass = 0xFFFFFFFF ∧ named = true then some ⟨l, some caravan⟩
    else if l.isEmpty then none
    else some ⟨l, none⟩

/-- Turns trace on for a warp; one already traced keeps its ring. Records emitted for an earlier ring still go to that ring. -/
def Warp.traceOn (w : Warp) (ring : TraceRing) : Warp :=
  match w.trace with
  | some tr => if tr.off then { w with trace := some { TraceState.fresh ring with waiting := tr.waiting } } else w
  | none => { w with trace := some (TraceState.fresh ring) }

/-- Turns trace off for a warp: nothing is emitted from its next run boundary, where a warp between two runs stands already (R320). -/
def Warp.traceOff (w : Warp) : Warp :=
  let w1 : Warp := { w with trace := w.trace.map fun tr => { tr with off := true } }
  if w.run.isNone || w.phase == .boundary then { w1 with trace := w1.trace.map TraceState.atBoundary } else w1

/-- An ANCHOR at the next safe point. -/
def Warp.traceWanted (w : Warp) : Warp :=
  match w.trace with
  | some tr => if tr.off then w else { w with trace := some { tr with anchorSafe := true } }
  | none => w

/-- Applies a change to the named warps, and the other to the caravan whose passes to come are named. -/
def State.onTraced (s : State) (t : Traced) (g : Warp → Warp) (ring : Option (Option TraceRing)) : State :=
  let s1 := t.warps.foldl (fun acc id => acc.updWarp id g) s
  match t.caravan, ring with
  | some k, some r => s1.updCaravan k fun c => { c with traceRing := if r.isNone then none else (c.traceRing <|> r) }
  | _, _ => s1

def execTrcOn (f : EForm) (s : State) : Host.Outcome State Fault Refusal :=
  checked (.e 0x75 0 f) s fun w =>
    match s.traced w f with
    | none => s.answer f.sc 2 0
    | some t =>
      let va := (w.spair f.sa).toNat
      match s.readSpan w.core w.ctx va 64 with
      | .error (.unmapped a) => s.requestWalk ⟨w.core, w.ctx, a, .read, .warp s.cur⟩
      | .error (.refused world) => (if world then s.worldViolation else s).answer f.sc 8 0
      | .ok b =>
        match ringOf w.ctx va b with
        | none => s.answer f.sc 8 0
        | some ring => (s.onTraced t (fun x => x.traceOn ring) (some (some ring))).answer f.sc 0 0

def execTrcOff (f : EForm) (s : State) : Host.Outcome State Fault Refusal :=
  checked (.e 0x75 1 f) s fun w =>
    match s.traced w f with
    | none => s.answer f.sc 2 0
    | some t => (s.onTraced t Warp.traceOff (some none)).answer f.sc 0 0

def execTrcAnchor (f : EForm) (s : State) : Host.Outcome State Fault Refusal :=
  checked (.e 0x75 2 f) s fun w =>
    match s.traced w f with
    | none => s.answer f.sc 2 0
    | some t => (s.onTraced t Warp.traceWanted none).answer f.sc 0 0

/-- `trc.mark`: a MARK record where the warp is traced. -/
def execTrcMark (f : EForm) (s : State) : Host.Outcome State Fault Refusal :=
  checked (.e 0x75 3 f) s fun w =>
    s.finish (w.traceAdd s.time 6 (natBytes 4 f.imm.toNat ++ natBytes 4 (w.sreg f.sb).toNat))

end Sys2Proof.Machine
end

