-- ==== Sys2Proof/Machine/Sampler.lean ====
section
/-! DEFINITION. The sampler of a cluster: `samp` (R321, R324), its rows of counters (R322), and writing the records of
tagged instructions (R323). -/

namespace Sys2Proof.Machine

/-! ### Writes of the part that span pages (R388) -/

/-- Some piece must wait for a translation: the state with the walk requested. -/
def State.spanWaits (s : State) (who : PartAccess) (core ctx : Nat) (l : List (Nat × Nat)) : Option State :=
  match l with
  | [] => none
  | (va, _) :: rest =>
    match s.partReach who core ctx va true with
    | .wait t => some t
    | _ => s.spanWaits who core ctx rest

/-- Writes pieces; those that fail for good are dropped. -/
def State.putPieces (s : State) (who : PartAccess) (core ctx : Nat) (l : List (Nat × Nat)) (bytes : List Byte) : State :=
  match l with
  | [] => s
  | (va, n) :: rest => ((s.partWrite who core ctx va (bytes.take n)).1).putPieces who core ctx rest (bytes.drop n)

/-- A write of the part of any length: the state after, and false where it must wait, with nothing written. -/
def State.partPut (s : State) (who : PartAccess) (core ctx va : Nat) (bytes : List Byte) : State × Bool :=
  let l := piecesOf va bytes.length
  match s.spanWaits who core ctx l with
  | some t => (t, false)
  | none => (s.putPieces who core ctx l bytes, true)

/-! ### Configuration (R321) -/

/-- The configuration a block of 64 bytes gives, where every field is in range. -/
def samplerOf (ctx : Nat) (b : List Byte) : Option Sampler :=
  let x (off n : Nat) : Nat := byteField b off n
  let tagged := x 5 1 % 2 = 1
  let codes := (List.range (x 4 1)).map fun i => x (0x28 + i) 1
  let tagsOk := !tagged || (powerBetween 8 20 (x 0x14 4) && x 0x18 8 % 64 == 0 && powerBetween 4 20 (x 0x20 4))
  if 1024 ≤ x 0 4 ∧ x 0 4 ≤ 2 ^ 20 ∧ x 4 1 ≤ 16 ∧ x 5 1 < 2 ∧ x 6 2 = 0 ∧ x 8 8 % 64 = 0
      ∧ powerBetween 4 20 (x 0x10 4) = true ∧ tagsOk = true ∧ x 0x24 4 < 2 ^ 20 ∧ (codes.all fun c => decide (c < 20)) = true
      ∧ x 0x38 8 = 0 then
    some { Sampler.initial with owner := some ctx, interval := x 0 4, nctr := x 4 1, tagged := tagged, ring := x 8 8,
                                rsize := x 0x10 4, period := x 0x14 4, tring := x 0x18 8, tsize := x 0x20 4, seed := x 0x24 4,
                                ctr := codes }
  else none

/-- L of scheduler g of the cluster before the first STEP. -/
def lfsrSeed (seed g : Nat) : Nat := if Nat.xor seed g = 0 then 1 else Nat.xor seed g

/-- A sampler as it starts at a tick and a cycle: counters at 0, row 0 next, and one STEP of every scheduler. -/
def Sampler.started (p : Sampler) (now cycle : Nat) : Sampler :=
  let l := (List.range 8).map fun g => lfsrStep (lfsrSeed p.seed g)
  { p with running := true, counts := [], start := now, startCycle := cycle, highTicks := 0, railSince := now, row := 0, tagRow := 0,
           pending := [], lfsr := l, countdown := l.map fun x => tagCount (max 1 p.period) x }

/-! ### samp (R324) -/

def execSampCfg (f : EForm) (s : State) : Host.Outcome State Fault Refusal :=
  checked (.e 0x76 0 f) s fun w =>
    let a := (w.sreg f.sa).toNat
    let cluster := clusterOf w.core
    let p := (s.cluster cluster).sampler
    if s.beyond w a 64 then s.trapHere w .protection (.memory 0 true 5)
    else match samplerOf w.ctx (Memory.readBytes (s.operandMem w) a 64) with
      | none => s.trapHere w .shapeMismatch .none
      | some q =>
        if p.owner.isSome && p.owner != some w.ctx then s.answer f.sc 1 0
        else if p.running then s.answer f.sc 3 0
        else (s.updCluster cluster fun k => { k with sampler := q }).answer f.sc 0 0

def execSampStart (f : EForm) (s : State) : Host.Outcome State Fault Refusal :=
  checked (.e 0x76 1 f) s fun w =>
    let cluster := clusterOf w.core
    if (s.cluster cluster).sampler.owner = some w.ctx then
      (s.updCluster cluster fun k => { k with sampler := k.sampler.started s.time k.power.cycle }).answer f.sc 0 0
    else s.answer f.sc 2 0

def execSampStop (f : EForm) (s : State) : Host.Outcome State Fault Refusal :=
  checked (.e 0x76 2 f) s fun w =>
    let cluster := clusterOf w.core
    match (s.cluster cluster).sampler.owner with
    | none => s.answer f.sc 2 0
    | some o =>
      if o = w.ctx then (s.updCluster cluster fun k => { k with sampler := Sampler.initial }).answer f.sc 0 0
      else s.answer f.sc 1 0

/-! ### Rows (R322) -/

/-- The counters of events, which the model counts itself. -/
def counted (code : Nat) : Bool := [1, 2, 5, 6, 7, 8, 9, 10, 14, 15, 17, 18, 19].contains code

/-- Ticks on the high rail since the sampler's start. -/
def Sampler.onHigh (p : Sampler) (high : Bool) (now : Nat) : Nat := p.highTicks + if high then now - p.railSince else 0

/-- A counter of a cluster's sampler. Codes 3, 4 and 11 to 13 count cycles in which work waits or an array is busy, which the model's
steps do not show: they come with the event. -/
def Cluster.counter (k : Cluster) (code now : Nat) (timed : Nat) : Nat :=
  if counted code then listGet 0 k.sampler.counts code
  else if code = 0 then k.power.cycle - k.sampler.startCycle
  else if code = 16 then k.sampler.onHigh k.power.high now
  else timed

/-- The 16 counters of a row in CTR order. -/
def Cluster.counters (k : Cluster) (now : Nat) (timed : List Nat) : List Nat :=
  (List.range 16).map fun i =>
    match k.sampler.ctr[i]? with
    | none => 0
    | some code => k.counter code now (listGet 0 timed i)

/-- The 160 bytes of a row. -/
def Cluster.rowBytes (k : Cluster) (cluster now : Nat) (timed : List Nat) : List Byte :=
  natBytes 8 (k.sampler.row + 1) ++ natBytes 8 now ++ natBytes 4 cluster ++ natBytes 4 k.sampler.nctr
    ++ (k.counters now timed).flatMap (fun x => natBytes 8 x) ++ natBytes 8 0

/-- SAMPLE_ROW: the next row is due and is written; SEQ comes last, which one step does not show. -/
def execSampleRow (cluster : Nat) (timed : List Nat) (s : State) : Host.Outcome State Fault Refusal :=
  let p := (s.cluster cluster).sampler
  match p.owner with
  | none => .next s
  | some ctx =>
    if !p.running || decide (s.time < p.start + p.row * p.interval) then .next s
    else
      let (s1, ok) := s.partPut (.sampler cluster) (2 * cluster) ctx (p.ring + 160 * (p.row % max 1 p.rsize)) ((s.cluster cluster).rowBytes cluster s.time timed)
      .next (if ok then s1.updCluster cluster fun k => { k with sampler := { k.sampler with row := k.sampler.row + 1 } } else s1)

/-! ### Tagged instructions (R323) -/

/-- The load whose data a tagged instruction waits for has written back. -/
def State.writtenBack (s : State) (r : TagRecord) : Bool :=
  match r.load with
  | none => true
  | some l => !s.warps.any fun p => p.2.loads.any fun x => x.id == l

/-- LEVEL of a record: where a home has served it, whether its L2 slice held the line comes with the event, and where it did not the
tier of the page says which memory did. -/
def TagRecord.levelByte (r : TagRecord) (level : Nat) : Nat :=
  r.level.getD (if level % 2 = 1 then 3 else if r.lpddr then 5 else 4)

/-- TAGGED_RECORD: the oldest tagged record is written once its instruction has written back, with the cycle counts that come with the
event. -/
def execTaggedRecord (cluster level : Nat) (cycles : List Nat) (s : State) : Host.Outcome State Fault Refusal :=
  let p := (s.cluster cluster).sampler
  match p.owner, p.pending with
  | some ctx, r :: rest =>
    if !s.writtenBack r then .next s
    else
      let bytes := natBytes 8 (p.tagRow + 1) ++ r.head ++ natBytes 1 (r.levelByte level) ++ natBytes 1 r.flags
        ++ (List.range 6).flatMap (fun i => natBytes 2 (min 65535 (listGet 0 cycles i))) ++ natBytes 8 0
      let (s1, ok) := s.partPut (.sampler cluster) (2 * cluster) ctx (p.tring + 64 * (p.tagRow % max 1 p.tsize)) bytes
      let taken (q : Sampler) : Sampler := { q with pending := rest, tagRow := q.tagRow + 1 }
      .next (if ok then (s1.updCluster cluster fun k => { k with sampler := taken k.sampler }).sample cluster ctx 19 1 else s1)
  | _, _ => .next s

end Sys2Proof.Machine
end

