-- ==== Sys2Proof/Machine/FrontEnd.lean ====
section
/-! DEFINITION. The front end: host queues and packets (R340 to R344), doorbells (R375), launch records (R180 to R182),
launches and the arbiter (R345, R346), contexts (R355), and the packets that end by themselves. -/

namespace Sys2Proof.Machine

/-! ### Packets (R341) -/

/-- Which handler takes a packet. A bad packet, which completes with status 4, is taken by that of NOP. -/
inductive PacketKind
  | nop | launch | copy | signal | ctxload | ctxfree | qbind | partition | tqbind | tqflush | tqunbind | resolve | preempt
  | resume | attach | abort
  deriving DecidableEq, Repr

def Packet.field (p : Packet) (off n : Nat) : Nat := byteField p.bytes off n
def Packet.type (p : Packet) : Nat := p.field 0 1
def Packet.fence (p : Packet) : Bool := p.field 1 1 % 2 == 1
def Packet.notify (p : Packet) : Bool := p.field 1 1 / 2 % 2 == 1
def Packet.opc (p : Packet) : Nat := p.field 2 2
def Packet.doneVa (p : Packet) : Nat := p.field 8 8

/-- A reserved TYPE or OPC, a nonzero reserved field, or a DONE that the header does not allow. -/
def Packet.bad (p : Packet) : Bool :=
  decide (5 < p.type) || decide (3 < p.field 1 1) || p.field 4 4 != 0 || (p.type == 4 && decide (10 < p.opc))
    || (p.type != 4 && p.opc != 0) || (!p.notify && p.doneVa != 0) || p.doneVa % 8 != 0

/-- The CONFIG subcommands by OPC (R343). -/
def configKind (opc : Nat) : PacketKind :=
  match opc with
  | 0 => .ctxload
  | 1 => .ctxfree
  | 2 => .qbind
  | 3 => .partition
  | 4 => .tqbind
  | 5 => .tqflush
  | 6 => .tqunbind
  | 7 => .resolve
  | 8 => .preempt
  | 9 => .resume
  | _ => .attach

def Packet.kind (p : Packet) : PacketKind :=
  if p.bad then .nop
  else match p.type with
    | 1 => .launch
    | 2 => .copy
    | 3 => .signal
    | 4 => configKind p.opc
    | 5 => .abort
    | _ => .nop

/-- The place of a packet's type in the order of R344: 0 comes first. -/
def Packet.rank (p : Packet) : Nat :=
  match p.type with
  | 5 => 0
  | 4 => 1
  | 3 => 2
  | 2 => 3
  | 1 => 4
  | _ => 5

/-! ### Queues -/

def HostQueue.initial : HostQueue :=
  { bound := false, ctx := 0, control := 0, weight := 1, deficit := 0, head := 0, tail := 0, readTail := false,
    headDue := false, stalled := false, lane := none, inFlight := [] }

def State.hostQueue (s : State) (q : Nat) : HostQueue := Tbl.findD s.queues q HostQueue.initial

def State.setHostQueue (s : State) (q : Nat) (h : HostQueue) : State := { s with queues := Tbl.put s.queues q h }

def State.updHostQueue (s : State) (q : Nat) (f : HostQueue → HostQueue) : State := s.setHostQueue q (f (s.hostQueue q))

def State.loaded (s : State) (ctx : Nat) : Bool := (Tbl.find s.contexts ctx).isSome

/-- What a read on a context's behalf brings. -/
inductive PartRead
  | got (b : List Byte)
  | wait (s : State)
  | fail (s : State)

/-- A fresh read of a span on a context's behalf, made for `who`. A page that has no translation waits for RESOLVE; one that the driver
answered with FAIL, or that is refused, ends the read (R388). -/
def State.partGet (s : State) (who : PartAccess) (ctx va n : Nat) : PartRead :=
  if s.walking (.part who) then .wait s
  else match s.readSpan 0 ctx va n with
  | .ok b => .got b
  | .error (.unmapped a) =>
    if s.dropped.contains (who, ctx, a / 65536) then
      .fail { s with dropped := s.dropped.filter fun p => p != (who, ctx, a / 65536) }
    else if !s.loaded ctx then .fail s
    else .wait (s.requestWalk ⟨0, ctx, a, .engine, .part who⟩)
  | .error (.refused world) => .fail (if world then s.worldViolation else s)

/-- A read that a packet of queue q asks for: in the context of its queue, or at a physical address where the firmware put the packet
into a lane without a queue. -/
def State.queueGet (s : State) (q : Nat) (p : Packet) (h : HostQueue) (va n : Nat) : PartRead :=
  if h.bound then s.partGet (.packet q p.index) h.ctx va n else .got (Memory.readBytes s.mem va n)

/-- HEAD is written, with everything the packets before did (R340). -/
def State.writeHead (s : State) (q : Nat) : State :=
  let h := s.hostQueue q
  if h.bound && h.headDue then
    if !s.loaded h.ctx then s.setHostQueue q { h with headDue := false }
    else
      let (s1, ok) := s.partPut (.head q) 0 h.ctx (h.control + 16) (natBytes 8 h.head)
      if ok then s1.setHostQueue q { h with headDue := false } else s1
  else s

/-- TAIL is read where it is due (R340). -/
def State.readTailOf (s : State) (q : Nat) : State :=
  let h := s.hostQueue q
  if h.bound && h.readTail then
    match s.partGet (.head q) h.ctx (h.control + 24) 8 with
    | .got b => s.setHostQueue q { h with tail := bytesNat b, readTail := false }
    | .wait t => t
    | .fail t => t.setHostQueue q { h with readTail := false }
  else s

/-- Packet i of a ring with the control block's BASE and SIZE. -/
def packetAt (block : List Byte) (i : Nat) : Nat := byteField block 0 8 + 64 * (i % max 1 (byteField block 8 4))

/-- An empty lane takes the next packet of its ring. -/
def State.takePacket (s : State) (q : Nat) : State :=
  let h := s.hostQueue q
  if h.bound && h.lane.isNone && decide (h.head < h.tail) then
    match s.partGet (.packet q h.head) h.ctx h.control 16 with
    | .wait t => t
    | .fail t => t
    | .got block =>
      match s.partGet (.packet q h.head) h.ctx (packetAt block h.head) 64 with
      | .wait t => t
      | .fail t => t
      | .got b => s.setHostQueue q { h with lane := some ⟨h.head, true, b⟩, stalled := false }
  else s

/-- What the front end does of itself for a queue. -/
def State.fillLane (s : State) (q : Nat) : State := ((s.writeHead q).readTailOf q).takePacket q

/-! ### Completion (R341, R388) -/

/-- Writes the completion word of a packet whose effect is made, and forgets the packet; where the word must wait, so does the
packet. The word of a packet that the firmware put into a lane without a queue lies at a physical address, as what the packet reads
does. -/
def State.tryComplete (s : State) (q : Nat) (o : OpenPacket) : State :=
  let h := s.hostQueue q
  let gone (k : HostQueue) : HostQueue := { k with inFlight := k.inFlight.filter fun x => x.packet != o.packet }
  match o.result with
  | none => s
  | some (status, detail) =>
    if s.time < o.due then s
    else if o.packet.notify && h.bound && s.loaded h.ctx && o.packet.doneVa % 8 == 0 then
      let (s1, ok) := s.partPut (.word q o.packet.index) 0 h.ctx o.packet.doneVa (natBytes 4 status ++ natBytes 4 detail)
      if ok then s1.updHostQueue q gone else s1
    else if o.packet.notify && !h.bound && o.packet.doneVa % 8 == 0 then
      (s.homeWrite o.packet.doneVa (natBytes 4 status ++ natBytes 4 detail)).updHostQueue q gone
    else s.updHostQueue q gone

/-- Completes every packet of a kind that may be. -/
def State.completeAll (s : State) (kind : PacketKind) (q : Nat) : State :=
  ((s.hostQueue q).inFlight.filter fun o => o.packet.kind == kind).foldl (fun acc o => acc.tryComplete q o) s

/-- Gives an open packet its status and detail, and completes it. -/
def State.endPacket (s : State) (q : Nat) (packet : Packet) (status detail due : Nat) : State :=
  let o : OpenPacket := ⟨packet, some (status, detail), due⟩
  (s.updHostQueue q fun h =>
    { h with inFlight := h.inFlight.map fun x => if x.packet = packet then o else x }).tryComplete q o

/-! ### Beginning a packet (R344) -/

/-- Caravans in the pending pool, which holds 16,384 (R349). -/
def State.poolFull (s : State) : Bool := decide (16384 ≤ (s.caravans.filter fun p => p.2.stage == .pool).length)

/-- The open packets of a kind that have no result yet. -/
def HostQueue.unended (h : HostQueue) (kind : PacketKind) : List Packet :=
  (h.inFlight.filter fun o => o.packet.kind == kind && o.result.isNone).map fun o => o.packet

/-- A PREEMPT of a partition is on its way. -/
def State.preempting (s : State) (partition : Nat) : Bool :=
  s.queues.any fun h => (h.2.unended .preempt).any fun p => p.field 0x10 4 == partition

/-- What the handler of a packet that it has taken waits for has not come: the translation of a page, room in the pending pool, or the
end of a PREEMPT. -/
def State.heldUp (s : State) (q : Nat) (p : Packet) : Bool :=
  s.walking (.part (.packet q p.index)) || (p.kind == .launch && s.poolFull) || (p.kind == .resume && s.preempting (p.field 0x10 4))

/-- A packet of a lane that can be begun: FENCE does not hold it back, nor anything that its handler waits for. -/
def State.readyIn (s : State) (q : Nat) (h : HostQueue) : Option Packet :=
  match h.lane with
  | some p => if (p.fence && !h.inFlight.isEmpty) || (h.stalled && s.heldUp q p) then none else some p
  | none => none

/-- No other lane holds a packet of a type that comes first, nor, before a LAUNCH, a lower lane another LAUNCH. -/
def State.firstInOrder (s : State) (q : Nat) (p : Packet) : Bool :=
  s.queues.all fun x => match s.readyIn x.1 x.2 with
    | some y => decide (p.rank < y.rank ∨ p.rank = y.rank ∧ (p.rank ≠ 4 ∨ q ≤ x.1))
    | none => true

/-- What a handler makes of a packet. -/
inductive Begun
  /-- It waits for a page before it is begun. -/
  | waits (s : State)
  /-- It is begun, and an event of its own ends it. -/
  | opens (s : State)
  /-- Its effect is made, with a status, a detail, and the time at which its writes are complete. -/
  | completes (s : State) (status detail due : Nat)

/-- The packet of a lane is begun: HEAD passes it, and TAIL is read again after the last packet known. -/
def State.handOn (s : State) (q : Nat) (o : OpenPacket) : State :=
  s.updHostQueue q fun h =>
    if h.lane ≠ some o.packet then { h with inFlight := h.inFlight ++ [o] }
    else if o.packet.ring then
      { h with lane := none, stalled := false, head := h.head + 1, headDue := true, readTail := h.readTail || h.tail ≤ h.head + 1,
               inFlight := h.inFlight ++ [o] }
    else { h with lane := none, stalled := false, inFlight := h.inFlight ++ [o] }

def beginPacket (q : Nat) (p : Packet) (b : Begun) : State :=
  match b with
  | .waits t => t.updHostQueue q fun h => { h with stalled := true }
  | .opens t => (t.handOn q ⟨p, none, 0⟩).writeHead q
  | .completes t status detail due =>
    ((t.handOn q ⟨p, some (status, detail), due⟩).writeHead q).tryComplete q ⟨p, some (status, detail), due⟩

/-- The frame of every packet's event: packets of the kind whose effect is made are completed, and the lane's packet, where it
is of the kind and its turn has come, is begun. Its context must be loaded, but for CONFIG. -/
def State.served (s : State) (kind : PacketKind) (q : Nat) (handler : Packet → HostQueue → State → Begun) : State :=
  if !s.security.started || decide (64 ≤ q) then s
  else
    let s1 := (s.fillLane q).completeAll kind q
    let h := s1.hostQueue q
    match h.lane with
    | none => s1
    | some p =>
      if p.kind ≠ kind ∨ (p.fence = true ∧ h.inFlight ≠ []) ∨ s1.firstInOrder q p = false then s1
      else if p.bad then beginPacket q p (.completes s1 4 0 0)
      else if p.type ≠ 4 ∧ s1.loaded h.ctx = false then beginPacket q p (.completes s1 5 0 0)
      else beginPacket q p (handler p h s1)

def servePacket (kind : PacketKind) (q : Nat) (handler : Packet → HostQueue → State → Begun) (s : State) :
    Host.Outcome State Fault Refusal :=
  .next (s.served kind q handler)

/-! ### Packets with an effect of their own (R342) -/

/-- NOP. -/
def execNop (queue : Nat) (s : State) : Host.Outcome State Fault Refusal :=
  servePacket .nop queue (fun _ _ t => .completes t 0 0 0) s

/-- Works on the open packets of a kind whose effect is not yet made, in their order. -/
def State.workOpen (s : State) (kind : PacketKind) (q : Nat) (work : Nat → OpenPacket → State → State) : State :=
  ((s.hostQueue q).inFlight.filter fun o => o.packet.kind == kind && o.result.isNone).foldl (fun acc o => work q o acc) s

/-- How many bytes from the start of some pieces an access reaches: none where it must wait. -/
def State.goodPrefix (s : State) (who : PartAccess) (ctx : Nat) (l : List (Nat × Nat)) (write : Bool) : State × Option Nat :=
  match l with
  | [] => (s, some 0)
  | (va, n) :: rest =>
    match s.partReach who 0 ctx va write with
    | .wait t => (t, none)
    | .drop t => (t, some 0)
    | .go _ =>
      match s.goodPrefix who ctx rest write with
      | (t, some m) => (t, some (n + m))
      | x => x

/-- The largest completion time of the writes to some pieces. -/
def State.piecesDue (s : State) (ctx : Nat) (l : List (Nat × Nat)) : Nat :=
  l.foldl (fun acc p => match s.reach 0 ctx p.1 true false with
    | .at_ _ pa => max acc (s.completionOf pa p.2)
    | _ => acc) s.time

/-- COPY is begun once its fields are good; its bytes are copied while later packets begin (R344). -/
def copyPacket (p : Packet) (_ : HostQueue) (s : State) : Begun :=
  let n := p.field 0x20 8
  if n % 4 ≠ 0 ∨ n < 4 ∨ 2 ^ 32 < n then .completes s 4 0 0 else .opens s

/-- An open COPY: the bytes are read fresh and written at the homes; a page that fails ends it, with what was copied (R230). While it
waits for a page it has done nothing but ask for it: a page that it is refused counts once, when it ends (R362). -/
def runCopy (q : Nat) (o : OpenPacket) (s : State) : State :=
  let ctx := (s.hostQueue q).ctx
  let who : PartAccess := .packet q o.packet.index
  let src := o.packet.field 0x10 8
  let dst := o.packet.field 0x18 8
  let n := o.packet.field 0x20 8
  match s.goodPrefix who ctx (piecesOf src n) false with
  | (t, none) => { s with dies := t.dies }
  | (s1, some a) =>
    match s1.goodPrefix who ctx (piecesOf dst a) true with
    | (t, none) => { s with dies := t.dies }
    | (s2, some m) =>
      match s2.readSpan 0 ctx src m with
      | .ok bytes => (s2.putPieces who 0 ctx (piecesOf dst m) bytes).endPacket q o.packet 0 0 (s2.piecesDue ctx (piecesOf dst m))
      | .error _ => s2.endPacket q o.packet 0 0 0

def execCopy (queue : Nat) (s : State) : Host.Outcome State Fault Refusal :=
  .next ((s.served .copy queue copyPacket).workOpen .copy queue runCopy)

/-- A write of an earlier COPY or SIGNAL of the queue is not yet acknowledged. -/
def HostQueue.writing (h : HostQueue) (p : Packet) (now : Nat) : Bool :=
  (h.inFlight.takeWhile fun o => o.packet != p).any fun o =>
    (o.packet.kind == .copy || o.packet.kind == .signal) && (o.result.isNone || decide (now < o.due))

/-- SIGNAL is begun once its fields are good. -/
def signalPacket (p : Packet) (_ : HostQueue) (s : State) : Begun :=
  if p.field 0x10 8 % 8 ≠ 0 then .completes s 4 0 0 else .opens s

/-- An open SIGNAL: a store with release at system scope, after the writes of its queue before it. -/
def runSignal (q : Nat) (o : OpenPacket) (s : State) : State :=
  let h := s.hostQueue q
  let va := o.packet.field 0x10 8
  if h.writing o.packet s.time then s
  else
    let due := s.piecesDue h.ctx [(va, 8)]
    let (s1, ok) := s.partPut (.packet q o.packet.index) 0 h.ctx va (natBytes 8 (o.packet.field 0x18 8))
    if ok then s1.endPacket q o.packet 0 0 due else s1

def execSignal (queue : Nat) (s : State) : Host.Outcome State Fault Refusal :=
  .next ((s.served .signal queue signalPacket).workOpen .signal queue runSignal)

/-- DOORBELL (R375): the queue's TAIL is read; a message with reserved bits, or for a queue that is not bound to the context, is
dropped and counted. A secure context's message comes under the security sublayer, which needs its keys (R364, R373). -/
def execDoorbell (ctx : Nat) (message : BitVec 64) (s : State) : Host.Outcome State Fault Refusal :=
  let q := message.toNat % 64
  let h := s.hostQueue q
  if 64 ≤ message.toNat ∨ h.bound = false ∨ h.ctx ≠ ctx ∨ s.security.started = false then
    .next { s with fabric := { s.fabric with doorbellsDropped := s.fabric.doorbellsDropped + 1 } }
  else if s.ctxSecure ctx && !s.security.keysPresent then .next s
  else .next ((s.setHostQueue q { h with readTail := true }).fillLane q)

/-! ### Launch records (R180, R182) -/

def recordOf (b : List Byte) : LaunchRecord :=
  let x (off n : Nat) : Nat := byteField b off n
  { trip := x 0 4, stages := x 4 1 % 16, depth := x 5 1 % 64, tracks := x 6 1 % 32, quota := x 7 1 % 16,
    pair := x 7 1 / 16 % 2 == 1, fuseL1 := x 7 1 / 32 % 2 == 1, scratch := x 8 4, entry := x 0xC 4, objId := x 0x10 8,
    dbase := x 0x18 8, argAddr := x 0x20 8, argN := x 0x28 4, parties := x 0x2C 4 % 8, initAddr := x 0x30 8,
    initMask := BitVec.ofNat 16 (x 0x38 2), statLen := x 0x3C 4, statAddr := x 0x40 8 }

/-- The code object of a context with an identifier. -/
def State.objectFor (s : State) (ctx objId : Nat) : Option CodeObject :=
  s.objects.find? fun o => o.ctx == ctx && o.objId == objId

/-- The fields of a launch record that fail, each at its byte offset, in ascending order. -/
def recordChecks (b : List Byte) (o : Option CodeObject) : List (Nat × Bool) :=
  let r := recordOf b
  let x (off n : Nat) : Nat := byteField b off n
  let entryBad := match o with
    | some c => !c.entries.contains r.entry
    | none => false
  [(0x00, decide (r.trip < 1 ∨ 2 ^ 32 - 8 < r.trip)),
   (0x04, decide (x 4 1 < 1 ∨ 8 < x 4 1)),
   (0x05, decide (63 < x 5 1 ∨ r.depth < 1 ∨ 32 < r.depth ∨ (8 < r.depth ∧ (1 < r.stages ∨ 0 < r.tracks)))),
   (0x06, decide (16 < x 6 1)),
   (0x07, decide (63 < x 7 1 ∨ r.quota < 1)),
   (0x08, decide (r.scratch % 256 ≠ 0 ∨ 393216 < r.scratch)),
   (0x0C, entryBad),
   (0x10, o.isNone),
   (0x18, decide (2 ^ 55 ≤ r.dbase)),
   (0x28, decide (55 < r.argN)),
   (0x2C, decide (7 < x 0x2C 4 ∨ 4 < r.parties ∨ (0 < r.parties ∧ (1 < r.stages ∨ r.depth < r.trip)))),
   (0x30, r.initAddr == 0 && r.initMask != 0),
   (0x38, decide (2 ^ r.tracks ≤ r.initMask.toNat)),
   (0x3A, x 0x3A 2 != 0),
   (0x3C, !powerBetween 0 20 r.statLen),
   (0x40, r.statAddr % 64 != 0),
   (0x48, (b.drop 0x48).any fun y => y != 0)]

/-- The byte offset of the first field for which a launch record is refused. -/
def refusal (b : List Byte) (o : Option CodeObject) : Option Nat := ((recordChecks b o).find? fun c => c.2).map fun c => c.1

/-! ### Launches (R345) -/

/-- A caravan of a launch, as it enters the pending pool. -/
def Caravan.fresh (ctx launch : Nat) (queue : Option Nat) (dies : BitVec 4) (r : LaunchRecord) (o : CodeObject) (args : List Word)
    (initial : List (List Lanes)) : Caravan :=
  { ctx := ctx, launch := launch, core := none, queue := queue, parent := none, parentCaravan := none, record := r,
    codeBase := o.base, codeSize := o.size, args := args, taskWords := [], nextPass := 0, claimed := 0, ended := [],
    terminated := [], done := false, tracks := [], initial := initial, wrote := [], relayed := [], shared := [],
    visible := [], updates := [], scratch := [], partyBase := [], objId := o.objId, dies := dies,
    stage := .pool, openChildren := 0, finished := false, traceRing := none, home := none, lastShared := none, settled := 0 }

/-- What the launch reads of a caravan's blocks. -/
inductive Blocks
  | got (args : List Word) (initial : List (List Lanes))
  | wait (s : State)
  | fail (s : State) (off : Nat)

/-- The words of a block of bytes. -/
def wordsOf (b : List Byte) (n : Nat) : List Word := (List.range n).map fun i => BitVec.ofNat 32 (byteField b (4 * i) 4)

/-- The tracks of a mask in ascending order. -/
def tracksIn (m : BitVec 16) : List Nat := (List.range 16).filter fun k => m.getLsbD k

/-- The seven vectors of a track's place in the initial-value block. -/
def initialVectors (b : List Byte) (place : Nat) : List Lanes :=
  (List.range 7).map fun d => lanesOf fun t => BitVec.ofNat 32 (byteField b (2688 * place + 384 * d + 4 * t) 4)

/-- The initial values of every track (R181). -/
def initialValues (m : BitVec 16) (b : List Byte) : List (List Lanes) :=
  (List.range 16).map fun k => if m.getLsbD k then initialVectors b ((tracksIn m).takeWhile fun j => j != k).length else []

/-- Reads the argument block and the initial-value block of a record, once (R180). -/
def State.launchBlocks (s : State) (who : PartAccess) (ctx : Nat) (r : LaunchRecord) : Blocks :=
  match s.partGet who ctx r.argAddr (4 * r.argN) with
  | .wait t => .wait t
  | .fail t => .fail t 0x20
  | .got a =>
    match s.partGet who ctx r.initAddr (2688 * (tracksIn r.initMask).length) with
    | .wait t => .wait t
    | .fail t => .fail t 0x30
    | .got b => .got (wordsOf a r.argN) (initialValues r.initMask b)

/-- The first number of 32 bits from k on that is not among some. -/
def freeNumber (used : List Nat) (k fuel : Nat) : Nat :=
  match fuel with
  | 0 => k
  | f + 1 => if used.contains k then freeNumber used ((k + 1) % 2 ^ 32) f else k

/-- The number of the next caravan: one of 32 bits that no caravan has (R183). -/
def State.caravanNumber (s : State) : Nat :=
  freeNumber (s.caravans.map fun p => p.1) (s.nextCaravan % 2 ^ 32) (s.caravans.length + 1)

/-- Puts a new caravan into the pending pool. -/
def State.pool (s : State) (c : Caravan) : State :=
  let id := s.caravanNumber
  State.setCaravan { s with nextCaravan := (id + 1) % 2 ^ 32 } id c

/-- LAUNCH: a record that passes makes the seed of a new launch (R182, R345). -/
def launchPacket (q : Nat) (p : Packet) (h : HostQueue) (s : State) : Begun :=
  if s.poolFull then .waits s
  else match s.partGet (.packet q p.index) h.ctx (p.field 0x10 8) 128 with
    | .wait t => .waits t
    | .fail t => .completes t 1 0 0
    | .got b =>
      let r := recordOf b
      let o := s.objectFor h.ctx r.objId
      match refusal b o, o with
      | some off, _ => .completes s 1 off 0
      | none, none => .completes s 1 0x10 0
      | none, some o =>
        match s.launchBlocks (.packet q p.index) h.ctx r with
        | .wait t => .waits t
        | .fail t off => .completes t 1 off 0
        | .got args initial =>
          let launch := s.nextId
          let dies := BitVec.ofNat 4 (p.field 0x18 1)
          let l : LaunchState :=
            { queue := q, packet := p.index, ctx := h.ctx, dies := dies, counter := 1, terminated := 0, aborted := false }
          let s1 := { s with nextId := launch + 1, launches := Tbl.put s.launches launch l }
          .opens (s1.pool (Caravan.fresh h.ctx launch (some q) dies r o args initial))

def execLaunch (queue : Nat) (s : State) : Host.Outcome State Fault Refusal :=
  servePacket .launch queue (launchPacket queue) s

/-- The LAUNCH packet of a launch, where it is open in its queue. -/
def State.launchPacketOf (s : State) (l : LaunchState) : Option Packet :=
  ((s.hostQueue l.queue).inFlight.find? fun o => o.packet.ring && o.packet.index == l.packet && o.result.isNone).map
    fun o => o.packet

/-- A launch is over: its packet completes. -/
def State.endLaunch (s : State) (launch : Nat) (l : LaunchState) (status detail : Nat) : State :=
  let s1 := { s with launches := Tbl.erase s.launches launch }
  match s.launchPacketOf l with
  | some p => s1.endPacket l.queue p status detail 0
  | none => s1

/-- LAUNCH_COMPLETE: the counter of a launch is back at zero (R345). -/
def execLaunchComplete (launch : Nat) (s : State) : Host.Outcome State Fault Refusal :=
  match Tbl.find s.launches launch with
  | none => .next s
  | some l =>
    .next (if l.counter = 0 ∧ l.aborted = false then
      s.endLaunch launch l (if l.terminated = 0 then 0 else 2) (min l.terminated (2 ^ 32 - 1)) else s)

/-! ### The arbiter (R346) -/

/-- A caravan of the pool is ready to place: its context is loaded, its partition's line is low, and a warp frame is free. -/
def State.readyToPlace (s : State) (c : Caravan) : Bool :=
  c.stage == .pool && !c.done && !(s.freeFrame c.ctx).isNone
    && (Tbl.findD s.partitions (s.partitionOf c.ctx) Partition.initial).halt.isNone

/-- The ready caravan of a queue that is handed over first: the earlier launch before the later, and within a launch the
earlier caravan. -/
def State.firstReady (s : State) (q : Nat) : Option (Nat × Caravan) :=
  s.caravans.foldl (fun best p =>
    if p.2.queue ≠ some q ∨ s.readyToPlace p.2 = false then best
    else match best with
      | none => some p
      | some b =>
        if p.2.launch < b.2.launch ∨ (p.2.launch = b.2.launch ∧ older (BitVec.ofNat 32 p.1) (BitVec.ofNat 32 b.1) = true) then some p
        else some b) none

/-- The next active queue from a number on, cyclically. -/
def State.nextActive (s : State) (start : Nat) : Option (Nat × Nat × Caravan) :=
  (List.range 64).findSome? fun i =>
    let q := (start + i) % 64
    (s.firstReady q).map fun p => (q, p.1, p.2)

/-- A die may place a caravan: DIES names it or is 0, and the partition has a cluster there. -/
def State.dieAllowed (s : State) (c : Caravan) (die : Nat) : Bool :=
  decide (die < 4) && (c.dies == 0 || c.dies.getLsbD die) && !(s.coresOf (s.partitionOf c.ctx) die).isEmpty

/-- The die a caravan goes to: that of the warp that spawned it where it fits there, and otherwise another of the partition, the one
given or the first, where there is one (R349). -/
def State.dieFor (s : State) (c : Caravan) (die : Nat) : Nat :=
  match c.home with
  | some k =>
    if s.dieAllowed c k && (s.pickCore c (s.partitionOf c.ctx) k).isSome then k
    else if die ≠ k then die
    else ((List.range 4).find? fun d => d != k && s.dieAllowed c d).getD k
  | none => die

/-- ARBITER_VISIT: the next active queue gains its quantum, and with a positive deficit hands one caravan to a die. Deficits
are in half cluster-cycles. R346 has visits made whenever the pending pool can accept a caravan: a caravan handed over leaves the pool,
which then has room for one, so that no visit is held back for it (DEDUCED, assumption log 51). -/
def execArbiterVisit (die : Nat) (s : State) : Host.Outcome State Fault Refusal :=
  match s.nextActive s.arbiter with
  | none => .next s
  | some (q, id, c) =>
    let h := s.hostQueue q
    let quantum : Int := (h.weight : Int) * 8192
    let deficit := min (h.deficit + quantum) (4 * quantum)
    let dest := s.dieFor c die
    let visited := { s.setHostQueue q { h with deficit := deficit } with arbiter := (q + 1) % 64 }
    if deficit ≤ 0 then .next visited
    else if s.dieAllowed c dest then
      .next ((visited.setCaravan id { c with stage := .die dest }).updDie dest fun d => { d with waiting := d.waiting ++ [id] })
    else .next s

/-! ### Contexts (R343, R355) -/

/-- A context as its record describes it, for a save area of `frames` frames. -/
def contextOf (b : List Byte) (frames : Nat) : Context :=
  let x (off n : Nat) : Nat := byteField b off n
  { partition := x 0 1, secure := x 1 1 % 2 == 1, haltOnFault := x 1 1 / 2 % 2 == 1, debug := x 1 1 / 4 % 2 == 1,
    lease := x 4 4, root := x 8 8, wq := (List.range 4).map fun i => x (0x10 + i) 1, weight := x 0x14 2, btok := x 0x18 4,
    budget := x 0x1C 4, save := x 0x20 8, nframes := frames, fring := x 0x28 8, hring := x 0x30 8, lring := x 0x38 8,
    mbase := x 0x40 8, msize := x 0x48 4, livet := BitVec.ofNat 21 (x 0x4C 4), liveWb := x 0x4C 4 / 2 ^ 21 % 2 == 1,
    headroom := true, tdpHeld := false, frames := [], breakpoints := [], target := none, reports := [], fcap := 3,
    samples := [], stopFrames := [], lastChange := 0 }

/-- A field of a context record is out of range, or a reserved one is not zero. -/
def recordBad (b : List Byte) : Bool :=
  let x (off n : Nat) : Nat := byteField b off n
  let debug := x 1 1 / 4 % 2 = 1
  decide (15 < x 0 1) || decide (7 < x 1 1) || x 2 2 != 0 || decide (x 4 4 < 64 ∨ 65536 < x 4 4) || x 8 8 % 65536 != 0
    || (List.range 4).any (fun i => decide (32 < x (0x10 + i) 1)) || decide (x 0x14 2 < 1 ∨ 255 < x 0x14 2) || x 0x16 2 != 0
    || decide (x 0x18 4 < 1 ∨ 2 ^ 24 < x 0x18 4) || x 0x20 8 % 65536 != 0 || x 0x28 8 % 64 != 0 || x 0x30 8 % 64 != 0
    || x 0x38 8 % 64 != 0 || (if debug then !powerBetween 4 16 (x 0x48 4) else x 0x40 8 != 0 || x 0x48 4 != 0)
    || decide (2 ^ 22 ≤ x 0x4C 4) || (b.drop 0x50).any fun y => y != 0

/-- What a context number held before is gone: translations, balances, and the times of its collectives. -/
def State.freshContext (s : State) (ctx : Nat) : State :=
  let drop (l : List TlbEntry) : List TlbEntry := l.filter fun e => e.ctx != ctx
  { s with cores := s.cores.map fun p => (p.1, { p.2 with tlb := drop p.2.tlb })
           clusters := s.clusters.map fun p =>
             (p.1, { p.2 with tlb := drop p.2.tlb, requests := Tbl.erase p.2.requests ctx, asked := Tbl.erase p.2.asked ctx })
           dies := s.dies.map fun p =>
             (p.1, { p.2 with tlb := drop p.2.tlb, balance := Tbl.erase p.2.balance ctx,
                              lastToken := Tbl.put p.2.lastToken ctx s.time })
           fabric := { s.fabric with tout := s.fabric.tout.filter fun p =>
             match (Tbl.findD s.fabric.convoys (p.convoy / 64) []).find (p.convoy % 64) with
             | some e => e.ctx != ctx
             | none => true } }

/-- The part accepts no context: before FEAT_ACCEPT is written, in recovery, or a secure one from alarm level 2 on (R364, R366,
R370). -/
def State.refusesContext (s : State) (secure : Bool) : Bool :=
  !s.security.acceptWritten || s.security.recovery || (secure && decide (2 ≤ s.security.alarm))

/-- The last conditions of a CTXLOAD: its world (R362), and whether the context is loaded already. A second one for a loaded context,
while its partition is stopped, takes up an enlarged save area (R356). -/
def State.loadContext (s : State) (n : Nat) (c : Context) : Begun :=
  match Tbl.find s.partitions c.partition with
  | none => .completes s 5 0 0
  | some part =>
    if part.secure ≠ c.secure then .completes s.worldViolation 5 0 0
    else if s.refusesContext c.secure then .completes s 5 0 0
    else match Tbl.find s.contexts n with
      | none => .completes ((s.freshContext n).setContext n c) 0 0 0
      | some old =>
        if part.halt.isSome && s.allStopped c.partition && old.partition == c.partition && old.save == c.save then
          .completes (s.setContext n { old with nframes := c.nframes }) 0 0 0
        else .completes s 5 0 0

/-- CTXLOAD. -/
def ctxloadPacket (q : Nat) (p : Packet) (h : HostQueue) (s : State) : Begun :=
  let n := p.field 0x10 4
  if 63 < n then .completes s 4 0 0
  else match s.queueGet q p h (p.field 0x18 8) 128 with
    | .wait t => .waits t
    | .fail t => .completes t 4 0 0
    | .got b =>
      if recordBad b then .completes s 4 0 0
      else s.loadContext n (contextOf b (Memory.readNat s.mem (byteField b 0x20 8) 8))

def execCtxload (queue : Nat) (s : State) : Host.Outcome State Fault Refusal := servePacket .ctxload queue (ctxloadPacket queue) s

/-- CTXFREE. -/
def ctxfreePacket (p : Packet) (_ : HostQueue) (s : State) : Begun :=
  let n := p.field 0x10 4
  if 63 < n then .completes s 4 0 0
  else if s.loaded n = false ∨ (s.caravans.any fun x => x.2.ctx == n) = true then .completes s 5 0 0
  else
    let detach (c : Context) : Context := { c with target := if c.target = some n then none else c.target }
    let s1 := s.freshContext n
    .completes { s1 with contexts := (Tbl.erase s1.contexts n).map fun x => (x.1, detach x.2),
                         objects := s1.objects.filter fun o => o.ctx != n } 0 0 0

def execCtxfree (queue : Nat) (s : State) : Host.Outcome State Fault Refusal := servePacket .ctxfree queue ctxfreePacket s

/-- QBIND: the queue starts afresh, with a deficit of 0 (R346). -/
def qbindPacket (p : Packet) (_ : HostQueue) (s : State) : Begun :=
  let q := p.field 0x10 4
  let n := p.field 0x14 4
  let control := p.field 0x18 8
  let weight := p.field 0x20 4
  if 63 < q ∨ 63 < n ∨ control % 64 ≠ 0 ∨ weight < 1 ∨ 255 < weight then .completes s 4 0 0
  else if s.loaded n = false then .completes s 5 0 0
  else
    let bind (h : HostQueue) : HostQueue :=
      { HostQueue.initial with bound := true, ctx := n, control := control, weight := weight, inFlight := h.inFlight }
    .completes (s.updHostQueue q bind) 0 0 0

def execQbind (queue : Nat) (s : State) : Host.Outcome State Fault Refusal := servePacket .qbind queue qbindPacket s

/-! ### Partitions (R343, R362) -/

/-- A partition holds a context. -/
def State.holdsContext (s : State) (partition : Nat) : Bool := s.contexts.any fun c => c.2.partition == partition

/-- The clusters of a mask of 36 bytes. -/
def maskClusters (b : List Byte) : List Nat := (List.range 288).filter fun k => byteField b (k / 8) 1 / 2 ^ (k % 8) % 2 == 1

/-- Partitions other than one that have a cluster among some. -/
def State.losers (s : State) (partition : Nat) (l : List Nat) : List Nat :=
  (s.partitions.filter fun p => p.1 != partition && p.2.clusters.any fun k => l.contains k).map fun p => p.1

/-- A cluster among some holds secure contexts: that of a partition with one loaded. -/
def State.holdsSecure (s : State) (l : List Nat) : Bool :=
  s.contexts.any fun c => c.2.secure && (Tbl.findD s.partitions c.2.partition Partition.initial).clusters.any fun k => l.contains k

/-- Clusters go to a partition and to no other. -/
def State.assign (s : State) (partition : Nat) (l : List Nat) (secure : Bool) : State :=
  let lose (p : Nat × Partition) : Nat × Partition := (p.1, { p.2 with clusters := p.2.clusters.filter fun k => !l.contains k })
  let mine := Tbl.findD s.partitions partition Partition.initial
  { s with partitions := Tbl.put (s.partitions.map lose) partition { mine with clusters := l, secure := secure } }

/-- PARTITION. -/
def partitionPacket (q : Nat) (p : Packet) (h : HostQueue) (s : State) : Begun :=
  let n := p.field 0x10 4
  let world := p.field 0x14 4
  if 15 < n ∨ 1 < world then .completes s 4 0 0
  else match s.queueGet q p h (p.field 0x18 8) 36 with
    | .wait t => .waits t
    | .fail t => .completes t 4 0 0
    | .got b =>
      let l := maskClusters b
      let old := Tbl.findD s.partitions n Partition.initial
      if old.clusters = l ∧ old.secure = decide (world = 1) ∧ s.holdsContext n = true then .completes s 0 0 0
      else if world = 0 ∧ s.holdsSecure l = true then .completes s.worldViolation 5 0 0
      else if s.holdsContext n = true ∨ (s.losers n l).any (fun k => s.holdsContext k) = true then .completes s 5 0 0
      else .completes (s.assign n l (decide (world = 1))) 0 0 0

def execPartition (queue : Nat) (s : State) : Host.Outcome State Fault Refusal := servePacket .partition queue (partitionPacket queue) s

/-! ### RESOLVE and ATTACH (R297, R303, R343) -/

/-- RESOLVE. -/
def resolvePacket (p : Packet) (_ : HostQueue) (s : State) : Begun :=
  let die := p.field 0x10 4
  let outcome := p.field 0x18 4
  if 3 < die ∨ 1 < outcome then .completes s 4 0 0
  else .completes (s.resolve die (p.field 0x14 4) (outcome == 1)) 0 0 0

def execResolve (queue : Nat) (s : State) : Host.Outcome State Fault Refusal := servePacket .resolve queue resolvePacket s

/-- ATTACH: a debug context is attached to a target, or detached from it. -/
def attachPacket (p : Packet) (_ : HostQueue) (s : State) : Begun :=
  let n := p.field 0x10 4
  let t := p.field 0x14 4
  if 63 < n ∨ (63 < t ∧ t ≠ 0xFFFF) then .completes s 4 0 0
  else match Tbl.find s.contexts n with
    | none => .completes s 5 0 0
    | some c =>
      if !c.debug then .completes s 5 0 0
      else if t = 0xFFFF then .completes (s.setContext n { c with target := none }) 0 0 0
      else match Tbl.find s.contexts t with
        | none => .completes s 5 0 0
        | some target =>
          if target.secure && !c.secure then .completes s.worldViolation 5 0 0
          else .completes (s.setContext n { c with target := some t }) 0 0 0

def execAttach (queue : Nat) (s : State) : Host.Outcome State Fault Refusal := servePacket .attach queue attachPacket s

end Sys2Proof.Machine
end

