-- ==== Sys2Proof/Machine/Fabric.lean ====
section
/-! DEFINITION. The fabric: peer and convoy tables (R376, R377), combining (R378 to R380), `fput` and `fget` (R381, R382),
collectives (R383, R384), slack (R385, R386), remote accesses (R374), and what the ports meet (R373). -/

namespace Sys2Proof.Machine

/-! ### Tables (R376, R377) -/

def State.peerEntry (s : State) (partition i : Nat) : Option PeerEntry := Tbl.find (Tbl.findD s.fabric.peers partition []) i

def State.convoyEntry (s : State) (partition i : Nat) : Option ConvoyEntry := Tbl.find (Tbl.findD s.fabric.convoys partition []) i

/-- A convoy of a partition, numbered over all partitions. -/
def convoyKey (partition convoy : Nat) : Nat := partition * 64 + convoy

/-- A context of some has a caravan resident or stopped. -/
def State.inUse (s : State) (ctxs : List Nat) : Bool :=
  s.caravans.any fun c => ctxs.contains c.2.ctx && (c.2.stage == .placed || c.2.stage == .saved)

/-- The bytes of a table write. -/
def wordBytes (words : List Word) : List Byte := words.flatMap fun w => natBytes 4 w.toNat

/-- The contexts of a partition that may use its peer table. -/
def State.partitionContexts (s : State) (partition : Nat) : List Nat :=
  (s.contexts.filter fun c => c.2.partition == partition).map fun c => c.1

/-- PEER_TABLE_WRITE: an entry of 32 bytes, written while no caravan of its partition's contexts is resident or stopped. -/
def execPeerTableWrite (partition index : Nat) (words : List Word) (s : State) : Host.Outcome State Fault Refusal :=
  let b := wordBytes words
  let x (off n : Nat) : Nat := byteField b off n
  let good := decide (partition < 16 ∧ index < 4096 ∧ words.length = 8 ∧ x 0x10 2 < 64 ∧ x 0x12 1 < 4)
    && (b.drop 0x13).all fun y => y == 0
  let e : PeerEntry := ⟨BitVec.ofNat 128 (x 0 16), x 0x10 2, x 0x12 1 % 2 == 1, x 0x12 1 / 2 == 1⟩
  .next (if s.security.started && good && !s.inUse (s.partitionContexts partition) then
    { s with fabric := { s.fabric with
        peers := Tbl.put s.fabric.peers partition (Tbl.put (Tbl.findD s.fabric.peers partition []) index e) } }
    else s)

/-- Nothing stands of the collectives of an earlier convoy at a place. -/
def State.freshConvoy (s : State) (key : Nat) : State :=
  { s with fabric := { s.fabric with
      issued := Tbl.erase s.fabric.issued key, tout := s.fabric.tout.filter fun x => x.convoy != key,
      collectives := s.fabric.collectives.filter fun c => c.convoy != key } }

/-- A convoy entry of 80 bytes. -/
def convoyOf (b : List Byte) : ConvoyEntry :=
  let x (off n : Nat) : Nat := byteField b off n
  let n := x 8 1
  { ctx := x 0 2, member := x 2 2, members := x 4 2, parent := x 6 2, slackctl := x 9 1 % 2 == 1,
    children := (List.range n).map fun i => x (0x10 + 2 * i) 2,
    childMembers := (List.range n).map fun i => x (0x2E + 2 * i) 2 }

/-- CONVOY_TABLE_WRITE: an entry of 80 bytes, written while no caravan of a context that the old or the new one names is resident
or stopped. One whose member count is out of range leaves the place empty. With what is written a convoy begins: collectives on it are
counted from its first, and no time of an earlier convoy of the place counts for it (R384, R385; DESIGN CHOICE, assumption log 54). -/
def execConvoyTableWrite (partition index : Nat) (words : List Word) (s : State) : Host.Outcome State Fault Refusal :=
  let b := wordBytes words
  let x (off n : Nat) : Nat := byteField b off n
  let good := decide (partition < 16 ∧ index < 64 ∧ words.length = 20 ∧ x 0 2 < 64 ∧ x 8 1 < 16 ∧ x 9 1 < 2)
    && x 0xA 6 == 0 && x 0x4C 4 == 0
  let e := convoyOf b
  let users := e.ctx :: (match s.convoyEntry partition index with | some o => [o.ctx] | none => [])
  let old := Tbl.findD s.fabric.convoys partition []
  let new := if 2 ≤ e.members ∧ e.members ≤ 1024 then Tbl.put old index e else Tbl.erase old index
  .next (if s.security.started && good && !s.inUse users then
    State.freshConvoy { s with fabric := { s.fabric with convoys := Tbl.put s.fabric.convoys partition new } } (convoyKey partition index)
    else s)

/-! ### Operators (R379, R380, R384) -/

/-- Bytes of an element. -/
def operSize (oper : Nat) : Nat := if oper = 6 then 520 else 4

/-- The identity of an operator. -/
def identityBytes (oper : Nat) : List Byte :=
  match oper with
  | 1 => natBytes 4 0x80000000
  | 2 => natBytes 4 0x80000000
  | 3 => natBytes 4 0x7FFFFFFF
  | 4 => natBytes 4 0xFF800000
  | 5 => natBytes 4 0x7F800000
  | 6 => natBytes 4 0xFF800000 ++ natBytes 516 0
  | _ => natBytes 4 0

/-- An f32 result rounded to nearest even, without flush. -/
def rneF32 (x : FVal × Flags) : Nat × Flags :=
  let r := Fmt.f32.result 0 0 x.1
  (r.1, x.2 ||| r.2)

def f32Elem (code : Nat) : FVal := Fmt.f32.decode code

/-- OPER 0 to 5 of two elements of 32 bits. -/
def combineWord (oper a b : Nat) : Nat × Flags :=
  let sa := (BitVec.ofNat 32 a).toInt
  let sb := (BitVec.ofNat 32 b).toInt
  let sig := (f32Elem a).sigFlag ||| (f32Elem b).sigFlag
  match oper with
  | 0 => ((a + b) % 2 ^ 32, 0)
  | 1 =>
    let r := rneF32 (FVal.add 0 (f32Elem a) (f32Elem b))
    (r.1, r.2 ||| sig)
  | 2 => (if sb ≤ sa then a else b, 0)
  | 3 => (if sa ≤ sb then a else b, 0)
  | _ =>
    let r := FVal.minMax (oper == 4) (f32Elem a) (f32Elem b)
    (Fmt.f32.exact r.1, r.2 ||| sig)

/-- e of R380: 2^(m1 − m), or 0 where m1 is −∞. -/
def tripleScale (m1 m : Nat) : FVal × Flags :=
  if m1 = 0xFF800000 then (f32Elem 0, 0)
  else
    let d := rneF32 (FVal.add 0 (f32Elem m1) (f32Elem m).negate)
    let e := special 0 0 0 (f32Elem d.1)
    (f32Elem e.1, d.2 ||| e.2)

/-- x1·e1 + x2·e2, formed exactly and rounded once. -/
def tripleSum (x1 : Nat) (e1 : FVal) (x2 : Nat) (e2 : FVal) : Nat × Flags :=
  let p := (f32Elem x1).mul e1
  let q := (f32Elem x2).mul e2
  let r := FVal.add 0 p.1 q.1
  rneF32 (r.1, p.2 ||| q.2 ||| r.2)

/-- The 130 words of a triple. -/
def tripleWords (b : List Byte) : List Nat := (List.range 130).map fun i => byteField b (4 * i) 4

/-- COMBINE of two triples (R380). -/
def combineTriple (a b : List Byte) : List Byte × Flags :=
  let x := tripleWords a
  let y := tripleWords b
  if (x.any fun v => (f32Elem v).isNaN) || y.any fun v => (f32Elem v).isNaN then
    ((List.range 130).flatMap fun _ => natBytes 4 Fmt.f32.nanCode,
      (x ++ y).foldl (fun acc v => acc ||| (f32Elem v).sigFlag) 0)
  else if a = identityBytes 6 then (b, 0)
  else if b = identityBytes 6 then (a, 0)
  else
    let m := combineWord 4 (listGet 0 x 0) (listGet 0 y 0)
    let e1 := tripleScale (listGet 0 x 0) m.1
    let e2 := tripleScale (listGet 0 y 0) m.1
    let sums := (List.range 129).map fun i => tripleSum (listGet 0 x (i + 1)) e1.1 (listGet 0 y (i + 1)) e2.1
    (natBytes 4 m.1 ++ sums.flatMap (fun r => natBytes 4 r.1),
      sums.foldl (fun acc r => acc ||| r.2) (m.2 ||| e1.2 ||| e2.2))

/-- COMBINE of one element. -/
def combineElement (oper : Nat) (a b : List Byte) : List Byte × Flags :=
  if oper = 6 then combineTriple a b
  else
    let r := combineWord oper (bytesNat a) (bytesNat b)
    (natBytes 4 r.1, r.2)

/-- COMBINE element by element. -/
def combineBytes (oper n : Nat) (a b : List Byte) : List Byte × Flags :=
  let z := operSize oper
  (List.range n).foldl (fun acc i =>
    let r := combineElement oper ((a.drop (z * i)).take z) ((b.drop (z * i)).take z)
    (acc.1 ++ r.1, acc.2 ||| r.2)) ([], 0)

/-- The data of two contributions of a function: combined for `allreduce` and `reduce`, that of the member that has any for
`bcast`, and side by side for `allgather`, where every contribution is laid out for all members with zeros in the places of
others. -/
def combineData (fn oper count : Nat) (a b : List Byte) : List Byte × Flags :=
  match fn with
  | 2 => (if a = [] then b else a, 0)
  | 4 => (List.zipWith (fun x y => x ||| y) a b, 0)
  | _ => combineBytes oper count a b

/-- COMBINE of two contributions with their headers (R378): FN, OPER or COUNT that differ make a mismatch (R384). -/
def combine (a b : Contribution) : Contribution :=
  if a.mismatch || b.mismatch || a.fn != b.fn || a.oper != b.oper || a.count != b.count then
    { a with flags := a.flags ||| b.flags, thr := a.thr || b.thr, mismatch := true, bytes := [] }
  else
    let r := combineData a.fn a.oper a.count a.bytes b.bytes
    { a with flags := (a.flags ||| b.flags ||| r.2) &&& 0x3FF, thr := a.thr || b.thr, bytes := r.1 }

/-! ### Sending (R373, R378) -/

def Collective.initial (key seq : Nat) : Collective :=
  { convoy := key, seq := seq, own := none, children := [], sent := false, result := none, tin := 0, tout := 0 }

def State.collective? (s : State) (key seq : Nat) : Option Collective :=
  s.fabric.collectives.find? fun c => c.convoy == key && c.seq == seq

/-- Changes a collective at the router, which a first arrival makes. -/
def State.updCollective (s : State) (key seq : Nat) (f : Collective → Collective) : State :=
  let l := s.fabric.collectives
  let l1 := if (s.collective? key seq).isSome then l else l ++ [Collective.initial key seq]
  { s with fabric := { s.fabric with
      collectives := l1.map fun c => if c.convoy = key ∧ c.seq = seq then f c else c } }

def State.send (s : State) (x : Outgoing) : State := { s with fabric := { s.fabric with out := s.fabric.out ++ [x] } }

/-- Traffic of a context to a peer goes under the transport security sublayer (R373, R376). -/
def State.sealed (s : State) (ctx : Nat) (e : PeerEntry) : Bool := e.secure || s.ctxSecure ctx

/-- The same for a peer by its number. -/
def State.sealedTo (s : State) (ctx partition peer : Nat) : Bool :=
  match s.peerEntry partition peer with
  | some e => s.sealed ctx e
  | none => s.ctxSecure ctx

/-- Sends packets to a peer; while no port reaches it they wait (R373), as do those for which the security sublayer has no keys (R364). -/
def State.sendTo (s : State) (partition peer : Nat) (secure : Bool) (l : List Outgoing) : State :=
  if s.fabric.down.contains (partition, peer) || (secure && !s.security.keysPresent) then
    { s with fabric := { s.fabric with held := s.fabric.held ++ l.map fun x => (partition, x) } }
  else { s with fabric := { s.fabric with out := s.fabric.out ++ l } }

/-- Cuts bytes into the payloads of packets, each with its place: at most 4,096 bytes each, and at least one packet (R373). -/
def cutPackets (from_ : Nat) (bytes : List Byte) (fuel : Nat) : List (Nat × List Byte) :=
  match fuel with
  | 0 => [(from_, bytes)]
  | k + 1 =>
    if bytes.length ≤ 4096 then [(from_, bytes)] else (from_, bytes.take 4096) :: cutPackets (from_ + 4096) (bytes.drop 4096) k

def packetsOf (bytes : List Byte) : List (Nat × List Byte) := cutPackets 0 bytes (bytes.length / 4096)

/-- A contribution cut into packets, each with the header. -/
def contributionPackets (c : Contribution) : List (Nat × Contribution) :=
  (packetsOf c.bytes).map fun p => (p.1, { c with bytes := p.2 })

/-- Sends a combined contribution to a member's parent. -/
def State.sendUp (s : State) (partition : Nat) (e : ConvoyEntry) (convoy seq : Nat) (c : Contribution) : State :=
  let secure := s.sealedTo e.ctx partition e.parent
  s.sendTo partition e.parent secure ((contributionPackets c).map fun p => .contribution e.parent convoy seq secure p.1 p.2)

/-- Sends a result to every child; that of `reduce` is only the acceptance of the child's contribution (R384). -/
def State.sendDown (s : State) (partition : Nat) (e : ConvoyEntry) (convoy seq : Nat) (c : Contribution) : State :=
  let x : Contribution := if c.fn = 1 then { c with bytes := [] } else c
  e.children.foldl (fun acc k =>
    let secure := s.sealedTo e.ctx partition k
    acc.sendTo partition k secure ((contributionPackets x).map fun p => .result k convoy seq secure p.1 p.2)) s

/-- Sends the data of an `mcast` to a member: the last packet brings the note. -/
def State.sendMulticast (s : State) (partition peer dst note : Nat) (value : DWord) (secure : Bool) (bytes : List Byte) : State :=
  s.sendTo partition peer secure ((packetsOf bytes).map fun p =>
    let last := p.1 + p.2.length == bytes.length
    .multicast peer (dst + p.1) (if last then note else 0) (if last then value else 0) secure p.2)

/-! ### Slack (R385, R386) -/

/-- x is less than y, as fractions; the denominators are at least 0, and over 0 stands what is larger than every number. -/
def fractionLt (x y : Int × Nat) : Bool := decide (x.1 * y.2 < y.1 * x.2)

/-- Fractions in ascending order. -/
def sortFractions (l : List (Int × Nat)) : List (Int × Nat) :=
  l.foldl (fun acc x => (acc.takeWhile fun y => !fractionLt x y) ++ x :: (acc.dropWhile fun y => !fractionLt x y)) []

/-- The last eight samples with one more; a result with THR set brings none (R386). -/
def Context.withSample (c : Context) (sample : Int × Nat) (thr : Bool) : Context :=
  if thr then c else { c with samples := (c.samples ++ [sample]).drop (c.samples.length + 1 - 8) }

/-- FCAP after a sample, taken or discarded. -/
def Context.capped (c : Context) (now : Nat) : Context :=
  if c.samples.length = 8 ∧ c.lastChange + 2000000 ≤ now then
    let med := listGet (0, 1) (sortFractions c.samples) 3
    if fractionLt (15, 100) med ∧ 1 < c.fcap then { c with fcap := c.fcap - 1, samples := [], lastChange := now }
    else if fractionLt med (5, 100) ∧ c.fcap < 3 then { c with fcap := c.fcap + 1, samples := [], lastChange := now }
    else c
  else c

/-- Slack control applies to a context: an entry of its partition says so. -/
def State.slackControlled (s : State) (partition ctx : Nat) : Bool :=
  (Tbl.findD s.fabric.convoys partition []).any fun e => e.2.ctx == ctx && e.2.slackctl

/-- The sample of a collective whose previous one is `last`: slack over period. A collective whose result came before that of the one
before it has a negative period. -/
def SlackTime.sample (x last : SlackTime) : Int × Nat :=
  let slack : Int := (x.tout : Int) - (x.tin : Int)
  if last.tout ≤ x.tout then (slack, x.tout - last.tout) else (-slack, last.tout - x.tout)

/-- The sample of a collective, for a context under slack control. -/
def State.takeSample (s : State) (partition ctx : Nat) (last x : SlackTime) : State :=
  match Tbl.find s.contexts ctx with
  | some c => if s.slackControlled partition ctx then s.setContext ctx ((c.withSample (x.sample last) x.thr).capped s.time) else s
  | none => s

/-- T_out of a collective is recorded. Its sample is taken where that of the one before it on the convoy is known, and so is that of the
one behind it where that has come first. -/
def State.slackSample (s : State) (partition ctx : Nat) (x : SlackTime) : State :=
  let l := s.fabric.tout
  let at_ (seq : Nat) : Option SlackTime := l.find? fun y => y.convoy == x.convoy && y.seq == seq
  let s1 := { s with fabric := { s.fabric with tout := l ++ [x] } }
  let s2 := match at_ (x.seq - 1) with
    | some y => if y.seq + 1 = x.seq then s1.takeSample partition ctx y x else s1
    | none => s1
  match at_ (x.seq + 1) with
  | some y => s2.takeSample partition ctx x y
  | none => s2

/-- The result of a collective, or its parent's acceptance, reaches the member (R385). -/
def State.settleResult (s : State) (partition convoy seq : Nat) (e : ConvoyEntry) (tin : Nat) (r : Contribution) : State :=
  let key := convoyKey partition convoy
  (s.updCollective key seq fun x => { x with sent := true, result := some r, tout := s.time }).slackSample partition e.ctx
    ⟨key, seq, tin, s.time, r.thr⟩

/-! ### The router (R378) -/

/-- Every child's contribution combined with the member's own, in the order of the children. -/
def Collective.combined (c : Collective) (e : ConvoyEntry) (own : Contribution) : Contribution :=
  (List.range e.children.length).foldl (fun x k => match Tbl.find c.children k with
    | some y => combine x y
    | none => x) own

/-- The router combines a collective once it has every contribution: at member 0 the result is final and goes down the tree,
elsewhere it goes to the parent. -/
def State.route (s : State) (partition convoy seq : Nat) : State :=
  let key := convoyKey partition convoy
  match s.convoyEntry partition convoy, s.collective? key seq with
  | some e, some c =>
    match c.own with
    | none => s
    | some own =>
      if c.sent || !((List.range e.children.length).all fun k => (Tbl.find c.children k).isSome) then s
      else
        let acc := c.combined e own
        if e.member = 0 then (s.settleResult partition convoy seq e c.tin acc).sendDown partition e convoy seq acc
        else (s.updCollective key seq fun x => { x with sent := true }).sendUp partition e convoy seq acc
  | _, _ => s

/-! ### Spans of an operation (R230, R384) -/

/-- The lowest nonzero of two STATUS codes stands (R382). -/
def lowestStatus (a b : BitVec 8) : BitVec 8 := if a = 0 then b else if b = 0 then a else if b.toNat < a.toNat then b else a

/-- The pieces at the front of a span that an operation reaches, as physical addresses and lengths. -/
def State.reached (s : State) (o : EngineOp) (write : Bool) (l : List (Nat × Nat)) : List (Nat × Nat) :=
  match l with
  | [] => []
  | (va, n) :: rest =>
    match s.meet o va write false with
    | .at_ pa _ => (pa, n) :: s.reached o write rest
    | _ => []

/-- Writes a span of an operation: the bytes before a page that fails remain. The error is a wait for a page. -/
def State.fabricWrite (s : State) (o : EngineOp) (va : Nat) (bytes : List Byte) : Except State (State × EngineOp) :=
  match s.meetSpan o va bytes.length true false with
  | .waits t => .error t
  | .go l => .ok (s.enginePieces o l bytes)
  | .ends status t =>
    let (t1, o1) := t.enginePieces o (t.reached o true (piecesOf va bytes.length)) bytes
    .ok (t1, { o1 with status := lowestStatus o1.status status })

/-- A page that an operation must wait for, among some pieces it reads. -/
def State.waitsFor (s : State) (o : EngineOp) (l : List (Nat × Nat)) : Option State :=
  match l with
  | [] => none
  | (va, _) :: rest =>
    match s.meet o va false false with
    | .waits t => some t
    | _ => s.waitsFor o rest

/-- The bytes of some pieces, none where one cannot be read; the lowest STATUS of those; and the state after. -/
def State.gather (s : State) (o : EngineOp) (l : List (Nat × Nat)) : State × BitVec 8 × List (Option Byte) :=
  match l with
  | [] => (s, 0, [])
  | (va, n) :: rest =>
    match s.meet o va false false with
    | .at_ pa _ =>
      let (t, c, b) := s.gather o rest
      (t, c, (Memory.readBytes s.mem pa n).map some ++ b)
    | .ends c t =>
      let (t1, c1, b) := t.gather o rest
      (t1, lowestStatus c c1, (List.replicate n none) ++ b)
    | .waits t =>
      let (t1, c1, b) := t.gather o rest
      (t1, c1, (List.replicate n none) ++ b)

/-- The pieces of memory that hold what can be read of a span. -/
def State.readable (s : State) (o : EngineOp) (l : List (Nat × Nat)) : List (Nat × Nat) :=
  l.filterMap fun p => match s.meet o p.1 false false with
    | .at_ pa _ => some (pa, p.2)
    | _ => none

/-- Elements of a contribution; one with a byte that could not be read is replaced. -/
def elementsOf (z n : Nat) (replacement : List Byte) (b : List (Option Byte)) : List Byte :=
  (List.range n).flatMap fun i =>
    let e := (b.drop (z * i)).take z
    if e.all Option.isSome then e.map fun x => x.getD 0 else replacement

/-! ### fput and fget (R381, R382) -/

/-- The checks of R381 that trap, after which `k` issues the operation. -/
def transfer (op : BitVec 7) (f : EForm) (k : Warp → Nat → Nat → Nat → Nat → Bool → State) (s : State) :
    Host.Outcome State Fault Refusal :=
  checked (.e op 0 f) s fun w =>
    let src := (w.spair f.sa).toNat
    let dst := (w.spair f.sb).toNat
    let n := (w.sreg f.sc).toNat
    let sel := (w.sreg (f.sc + 1)).toNat
    let entry := s.peerEntry (s.partitionOf w.ctx) (sel % 4096)
    let valid := match entry with
      | some e => e.valid
      | none => false
    let secure := match entry with
      | some e => e.secure
      | none => false
    s.afterChecks w
      [(src % 4 != 0 || dst % 4 != 0 || n % 4 != 0, .misaligned, .memory 0 false 0),
       (n == 0 || decide (2 ^ 24 < n) || decide (2 ^ 13 ≤ sel) || !valid, .shapeMismatch, .none),
       (!inRange src || !inRange dst, .protection, .memory 0 false 4)]
      (if secure && !s.ctxSecure w.ctx then s.worldViolation.trapHere w .protection (.memory 0 false 3)
       else k w src dst n (sel % 4096) (sel / 4096 % 2 == 1))

/-- `fput`: a release at system scope waits for it until its record is queued. -/
def execFput (f : EForm) (s : State) : Host.Outcome State Fault Refusal :=
  transfer 0x71 f (fun w src dst n peer ord =>
    s.issueOp w (.fabric (clusterOf w.core)) 16 (.fput src dst n peer ord) f.imm [⟨w.memorySpace, src, n, false⟩]
      (fun t o => (t.updWarp t.cur fun x => { x with puts := x.puts + 1 }, o))) s

def execFget (f : EForm) (s : State) : Host.Outcome State Fault Refusal :=
  transfer 0x72 f (fun w src dst n peer ord =>
    s.issueOp w (.fabric (clusterOf w.core)) 16 (.fget src dst n peer ord) f.imm [⟨w.memorySpace, dst, n, true⟩]) s

/-! ### fcoll (R383, R384) -/

/-- The block of a collective, with its place in the order of its convoy. -/
def collOf (b : List Byte) (block fn seq : Nat) : CollReq :=
  let x (off n : Nat) : Nat := byteField b off n
  { block := block, convoy := x 0 2, fn := fn, oper := x 2 1, count := x 4 4, src := x 8 8, dst := x 0x10 8, note := x 0x18 8,
    noteVal := BitVec.ofNat 64 (x 0x20 8), seq := seq }

/-- A reserved value, or a field out of range. -/
def collBad (b : List Byte) (r : CollReq) : Bool :=
  decide (63 < r.convoy ∨ 6 < r.oper) || (2 ≤ r.fn && r.oper != 0) || byteField b 3 1 != 0
    || decide (r.count < 1 ∨ 2 ^ 20 < r.count) || (r.fn != 3 && r.note != 0) || byteField b 0x38 8 != 0

/-- `fcoll` of a FN. -/
def collOp (fn : Nat) (f : EForm) (s : State) : Host.Outcome State Fault Refusal :=
  checked (.e 0x73 (BitVec.ofNat 7 fn) f) s fun w =>
    let a := (w.sreg f.sa).toNat
    let b := Memory.readBytes (s.operandMem w) a 64
    let partition := s.partitionOf w.ctx
    let key := convoyKey partition (byteField b 0 2)
    let seq := Tbl.findD s.fabric.issued key 0
    let r := collOf b a fn seq
    let entry := s.convoyEntry partition r.convoy
    let mine := match entry with
      | some e => e.ctx == w.ctx
      | none => false
    let members := match entry with
      | some e => e.members
      | none => 0
    let n := r.count * operSize r.oper
    let count (t : State) : State :=
      if fn = 3 then t else { t with fabric := { t.fabric with issued := Tbl.put t.fabric.issued key (seq + 1) } }
    s.afterChecks w
      [(a % 64 != 0, .misaligned, .memory 0 true 0), (s.beyond w a 64, .protection, .memory 0 true 5),
       (r.src % 4 != 0 || r.dst % 4 != 0 || r.note % 8 != 0, .misaligned, .memory 0 false 0),
       (collBad b r || !mine, .shapeMismatch, .none),
       (!inRange r.src || !inRange r.dst || !inRange r.note, .protection, .memory 0 false 4)]
      (s.issueOp w (.fabric (clusterOf w.core)) 16 (.fcoll r) f.imm
        [⟨w.scratchSpace, a, 64, true⟩, ⟨w.memorySpace, r.src, n, false⟩,
         ⟨w.memorySpace, r.dst, if fn = 4 then n * members else n, true⟩]
        (fun t o => (count t, o)))

def execFcollAllreduce (f : EForm) (s : State) : Host.Outcome State Fault Refusal := collOp 0 f s
def execFcollReduce (f : EForm) (s : State) : Host.Outcome State Fault Refusal := collOp 1 f s
def execFcollBcast (f : EForm) (s : State) : Host.Outcome State Fault Refusal := collOp 2 f s
def execFcollMcast (f : EForm) (s : State) : Host.Outcome State Fault Refusal := collOp 3 f s
def execFcollAllgather (f : EForm) (s : State) : Host.Outcome State Fault Refusal := collOp 4 f s

/-- The data a member contributes: for `allgather` its words in its own place; for `bcast` none but member 0's. -/
def contributed (r : CollReq) (e : ConvoyEntry) (b : List (Option Byte)) : List Byte :=
  let replacement := if r.fn ≤ 1 then identityBytes r.oper else natBytes (operSize r.oper) 0
  let own := elementsOf (operSize r.oper) r.count replacement b
  if r.fn = 4 then
    List.replicate (4 * r.count * e.member) 0 ++ own ++ List.replicate (4 * r.count * (e.members - 1 - e.member)) 0
  else own

/-- Reads SRC of a collective and gives it to the router, or, for `mcast`, sends it along the tree's edges. -/
def State.contribute (s : State) (u : EngineUnit) (o : EngineOp) (r : CollReq) (e : ConvoyEntry) : State :=
  let partition := s.partitionOf o.ctx
  let n := if r.fn = 2 ∧ e.member ≠ 0 then 0 else r.count * operSize r.oper
  let l := piecesOf r.src n
  match s.waitsFor o l with
  | some t => t
  | none =>
    let (t, status, b) := s.gather o l
    let bytes := if n = 0 then [] else contributed r e b
    let o1 := { o with state := .running, cursor := 1, progress := n, status := status }
    let t1 := (t.engineRead o (s.readable o l)).setOp u o1
    if r.fn = 3 then
      let peers := e.children ++ (if e.member = 0 then [] else [e.parent])
      peers.foldl (fun acc p => acc.sendMulticast partition p r.dst r.note r.noteVal (s.sealedTo o.ctx partition p) bytes) t1
    else
      let c : Contribution :=
        { fn := r.fn, oper := r.oper, count := r.count, flags := 0, thr := !s.hasHeadroom o.ctx, mismatch := false, bytes := bytes }
      (t1.updCollective (convoyKey partition r.convoy) r.seq fun x => { x with own := some c, tin := s.time }).route partition
        r.convoy r.seq

/-- RESULT, SLACK, FLAGSEEN and THRSEEN of a block. -/
def State.collResult (s : State) (o : EngineOp) (r : CollReq) (result slack flags : Nat) (thr : Bool) : State :=
  s.scratchWrite o.caravan (r.block + 0x28)
    (natBytes 4 result ++ natBytes 4 (min slack (2 ^ 32 - 1)) ++ natBytes 4 flags ++ natBytes 4 (if thr then 1 else 0))

/-- A member writes a result at DST: every member of `allreduce` and `allgather`, member 0 of `reduce`, and the others of
`bcast`. -/
def writesResult (fn member : Nat) : Bool :=
  match fn with
  | 0 => true
  | 1 => member == 0
  | 2 => member != 0
  | _ => true

/-- Delivers the result of a synchronous collective to the operation that waits for it. -/
def State.deliver (s : State) (u : EngineUnit) (o : EngineOp) (r : CollReq) (e : ConvoyEntry) (c : Collective)
    (x : Contribution) : State :=
  let partition := s.partitionOf o.ctx
  let key := convoyKey partition r.convoy
  let bytes := if x.mismatch || !writesResult r.fn e.member then [] else x.bytes
  match s.fabricWrite o r.dst bytes with
  | .error t => t
  | .ok (t, o1) =>
    let done : EngineOp := { o1 with state := .finished, flags := x.flags, status := if x.mismatch then 0 else o1.status }
    let t1 := (t.collResult o r (if x.mismatch then 1 else 0) (c.tout - c.tin) x.flags.toNat x.thr).setOp u done
    { t1 with fabric := { t1.fabric with
        collectives := t1.fabric.collectives.filter fun y => !(y.convoy == key && y.seq == r.seq) } }

/-- Goes on with a collective: its contribution, or the delivery of its result. -/
def State.collectiveStep (s : State) (u : EngineUnit) (o : EngineOp) (r : CollReq) (reply : FabricReply) : State :=
  let partition := s.partitionOf o.ctx
  match s.convoyEntry partition r.convoy with
  | none => s
  | some e =>
    if o.cursor = 0 then s.contribute u o r e
    else if r.fn = 3 then
      match reply with
      | .ack status => (s.collResult o r 0 0 0 false).setOp u { o with state := .finished, status := lowestStatus o.status status }
      | _ => s
    else
      let s1 := s.route partition r.convoy r.seq
      match s1.collective? (convoyKey partition r.convoy) r.seq with
      | none => s1
      | some c =>
        match c.result with
        | some x => s1.deliver u o r e c x
        | none => s1

/-- Delivers a result wherever an operation of the convoy waits for it. -/
def State.deliverAll (s : State) (partition convoy seq : Nat) : State :=
  s.clusters.foldl (fun acc k =>
    ((acc.cluster k.1).fabric.filter fun o => o.state == .running && acc.mayWork o).foldl (fun t o =>
      match o.kind with
      | .fcoll r =>
        if r.convoy = convoy ∧ r.seq = seq ∧ r.fn ≠ 3 ∧ t.partitionOf o.ctx = partition then
          t.collectiveStep (.fabric k.1) o r .none
        else t
      | _ => t) acc) s

/-! ### Remote accesses (R374) -/

/-- How a remote access meets one page of its span. -/
inductive RemoteMeet
  | go (pa : Nat)
  | wait (s : State)
  | ends (status : BitVec 8) (s : State)

/-- Translation, permissions and world of R230 and R361 for a remote access. -/
def State.remoteMeet (s : State) (ctx va : Nat) (write : Bool) : RemoteMeet :=
  let place := (PartAccess.fabric ctx, ctx, va / 65536)
  if s.dropped.contains place then .ends 2 { s with dropped := s.dropped.filter fun p => p != place }
  else if s.walking (.part (.fabric ctx)) then .wait s
  else match s.reach 0 ctx va write false with
  | .at_ _ pa => .go pa
  | .unmapped => .wait (s.requestWalk ⟨0, ctx, va, .engine, .part (.fabric ctx)⟩)
  | .refused world => .ends 3 (if world then s.worldViolation else s)
  | .poisoned => .ends 1 s

/-- How far a remote access comes. -/
inductive RemoteSpan
  /-- the bytes at its front that it reaches, and its STATUS -/
  | reaches (s : State) (n : Nat) (status : BitVec 8)
  | wait (s : State)

def State.remoteSpan (s : State) (ctx : Nat) (write : Bool) (l : List (Nat × Nat)) : RemoteSpan :=
  match l with
  | [] => .reaches s 0 0
  | (va, n) :: rest =>
    match s.remoteMeet ctx va write with
    | .wait t => .wait t
    | .ends status t => .reaches t 0 status
    | .go _ =>
      match s.remoteSpan ctx write rest with
      | .reaches t m status => .reaches t (n + m) status
      | .wait t => .wait t

/-- An access is refused before it reaches a page: no loaded context has this number, or the traffic of a secure context
does not come under the security sublayer, which is a world violation (R362, R374). -/
def State.remoteRefused (s : State) (secure : Bool) (ctx : Nat) : Option State :=
  if !s.loaded ctx then some s
  else if s.ctxSecure ctx && !secure then some s.worldViolation
  else none

/-- Remote traffic is taken at all: the part has started, and packets under the security sublayer find their keys (R364, R366). -/
def State.remoteOpen (s : State) (secure : Bool) : Bool := s.security.started && (!secure || s.security.keysPresent)

/-- The fabric serves a context: the part has started, and a secure context's traffic finds its keys (R364, R366). -/
def State.fabricOpen (s : State) (ctx : Nat) : Bool := s.remoteOpen (s.ctxSecure ctx)

/-- PUT: the bytes are written at the homes; the acknowledgement waits for the largest completion time among them. -/
def execPut (secure : Bool) (ctx : Nat) (va : BitVec 64) (bytes : List Byte) (s : State) :
    Host.Outcome State Fault Refusal :=
  .next (if !s.remoteOpen secure then s
    else match s.remoteRefused secure ctx with
      | some t => t.send (.ack secure 3 t.time)
      | none =>
        match s.remoteSpan ctx true (piecesOf va.toNat bytes.length) with
        | .wait t => t
        | .reaches t n status =>
          let l := piecesOf va.toNat n
          (t.putPieces (.fabric ctx) 0 ctx l bytes).send (.ack secure status.toNat (t.piecesDue ctx l)))

/-- Sends the answer to a get, in packets. -/
def State.sendAnswer (s : State) (secure : Bool) (status : Nat) (bytes : List Byte) : State :=
  (packetsOf bytes).foldl (fun t p => t.send (.answer secure status p.1 p.2)) s

/-- GET: the bytes are read fresh at the homes and sent back. -/
def execGet (secure : Bool) (ctx : Nat) (va : BitVec 64) (length : Nat) (s : State) : Host.Outcome State Fault Refusal :=
  .next (if !s.remoteOpen secure then s
    else match s.remoteRefused secure ctx with
      | some t => t.sendAnswer secure 3 []
      | none =>
        match s.remoteSpan ctx false (piecesOf va.toNat length) with
        | .wait t => t
        | .reaches t n status =>
          match t.readSpan 0 ctx va.toNat n with
          | .ok b => t.sendAnswer secure status.toNat b
          | .error _ => t.sendAnswer secure status.toNat [])

/-! ### Notes of an mcast (R384) -/

/-- The note at the front of those whose writes are complete is stored with release at system scope, and acknowledged once its own
write is. -/
def State.flushNote (s : State) (x : PendingNote) : State :=
  let gone (t : State) : State := { t with fabric := { t.fabric with notes := t.fabric.notes.filter fun y => y != x } }
  let mark := s.ctxSecure x.ctx
  if s.time < x.due || !s.fabricOpen x.ctx then s
  else match s.remoteMeet x.ctx x.va true with
  | .wait t => t
  | .ends status t => (gone t).send (.ack mark (lowestStatus x.status status).toNat t.time)
  | .go pa => (gone (s.homeWrite pa (natBytes 8 x.value.toNat))).send (.ack mark x.status.toNat (s.completionOf pa 8))

def State.flushNotes (s : State) : State := s.fabric.notes.foldl State.flushNote s

/-! ### The fabric engine (R382) -/

/-- Bytes of a transfer that one packet takes: at most 4,096, within one page. -/
def packetBytes (va n p : Nat) : Nat := min (min (n - p) 4096) (65536 - (va + p) % 65536)

/-- One packet of an `fput`, or the peer's acknowledgement of them all. -/
def State.putStep (s : State) (u : EngineUnit) (o : EngineOp) (src dst n peer : Nat) (ord : Bool) (e : PeerEntry)
    (reply : FabricReply) : State :=
  if o.cursor = 1 then
    match reply with
    | .ack status => s.setOp u { o with state := .finished, status := lowestStatus o.status status }
    | _ => s
  else
    let p := o.progress
    let m := packetBytes src n p
    match s.meet o (src + p) false false with
    | .waits t => t
    | .ends status t =>
      if p = 0 then t.setOp u (o.finish status) else t.setOp u { o with state := .running, cursor := 1, status := status }
    | .at_ pa _ =>
      let x := Outgoing.put o.id peer e.rctx (dst + p) (s.sealed o.ctx e) ord (Memory.readBytes s.mem pa m)
      ((s.send x).engineRead o [(pa, m)]).setOp u
        { o with state := .running, progress := p + m, cursor := if n ≤ p + m then 1 else 0 }

/-- The request of an `fget`, its answer, or the write of the next of its bytes. -/
def State.getStep (s : State) (u : EngineUnit) (o : EngineOp) (src dst n peer : Nat) (ord : Bool) (e : PeerEntry)
    (reply : FabricReply) : State :=
  if o.cursor = 0 then
    (s.send (.get o.id peer e.rctx src n (s.sealed o.ctx e) ord)).setOp u { o with state := .running, cursor := 1 }
  else if o.cursor = 1 then
    match reply with
    | .data status bytes =>
      let b := bytes.take n
      s.setOp u { o with cursor := 2, data := b, status := lowestStatus o.status status,
                         state := if b = [] then .finished else .running }
    | _ => s
  else
    let p := o.progress
    let m := packetBytes dst o.data.length p
    match s.meet o (dst + p) true false with
    | .waits t => t
    | .ends status t => t.setOp u (o.finish (lowestStatus o.status status))
    | .at_ pa _ =>
      let (s1, o1) := s.engineWrite o pa ((o.data.drop p).take m)
      s1.setOp u { o1 with progress := p + m, state := if o.data.length ≤ p + m then .finished else .running }

/-- An operation's peer may be reached: it is not down, and traffic under the security sublayer has its keys (R364, R373). -/
def State.mayReach (s : State) (o : EngineOp) (peer : Nat) (e : PeerEntry) : Bool :=
  !s.fabric.down.contains (s.partitionOf o.ctx, peer) && (!s.sealed o.ctx e || s.security.keysPresent)

/-- An ordered `fput` of the same warp to the same peer stands before an operation and has not sent everything (R382). -/
def orderedBehind (earlier : List EngineOp) (o : EngineOp) : Bool :=
  match o.kind with
  | .fput _ _ _ peer true => earlier.any fun x => match x.kind with
    | .fput _ _ _ p true => p == peer && x.warp == o.warp && x.state != .finished && x.cursor == 0
    | _ => false
  | _ => false

/-- FABRIC_ENGINE_RUN: the operation at a place of a cluster's fabric engine goes on; operations begin in issue order, and ordered
puts to one peer send in that order. -/
def execFabricEngineRun (cluster place : Nat) (reply : FabricReply) (s : State) : Host.Outcome State Fault Refusal :=
  let s := s.flushNotes
  let u := EngineUnit.fabric cluster
  let l := s.queueOf u
  .next (match l[place]? with
    | none => s
    | some o =>
      if o.state == .finished || !s.mayWork o || (l.take place).any (fun x => x.state == .queued) || orderedBehind (l.take place) o then s
      else match o.kind with
        | .fput src dst n peer ord =>
          match s.peerEntry (s.partitionOf o.ctx) peer with
          | some e => if s.mayReach o peer e then s.putStep u o src dst n peer ord e reply else s
          | none => s
        | .fget src dst n peer ord =>
          match s.peerEntry (s.partitionOf o.ctx) peer with
          | some e => if s.mayReach o peer e then s.getStep u o src dst n peer ord e reply else s
          | none => s
        | .fcoll r => if s.ctxSecure o.ctx && !s.security.keysPresent then s else s.collectiveStep u o r reply
        | _ => s)

/-! ### What arrives (R378, R384) -/

/-- A packet for a convoy's context is refused where that is secure and the packet does not come under the security sublayer, which is
a world violation. -/
def State.convoyRefused (s : State) (e : ConvoyEntry) (secure : Bool) : Bool := s.ctxSecure e.ctx && !secure

/-- CONTRIBUTION_ARRIVAL: a child's contribution is kept, and combined once all are there. -/
def execContributionArrival (partition convoy child seq : Nat) (c : ContributionPacket) (s0 : State) :
    Host.Outcome State Fault Refusal :=
  let s := s0.flushNotes
  let key := convoyKey partition convoy
  .next (match s.convoyEntry partition convoy with
    | none => s
    | some e =>
      if e.children.length ≤ child || !s.fabricOpen e.ctx then s
      else if s.convoyRefused e c.secure then s.worldViolation
      else
        let keep (x : Collective) : Collective :=
          if (Tbl.find x.children child).isSome then x else { x with children := Tbl.put x.children child c.content }
        ((s.updCollective key seq keep).route partition convoy seq).deliverAll partition convoy seq)

/-- A synchronous collective's result reaches this member: it goes on to the children, and is written. -/
def State.resultArrives (s : State) (partition convoy seq : Nat) (e : ConvoyEntry) (c : Contribution) : State :=
  match s.collective? (convoyKey partition convoy) seq with
  | none => s
  | some x =>
    if x.sent && x.result.isNone then
      ((s.settleResult partition convoy seq e x.tin c).sendDown partition e convoy seq c).deliverAll partition convoy seq
    else s

/-- The bytes of an `mcast` reach this member under R374: they go on along the other edges of the tree and are written in the convoy's
context as far as its pages are reached, and the note waits for those writes. Where the member refuses them, they go on as they came:
its failure stops no other member (R384). -/
def State.multicastArrives (s : State) (partition : Nat) (e : ConvoyEntry) (secure : Bool) (source dst note : Nat) (value : DWord)
    (bytes : List Byte) : State :=
  let peers := (e.children ++ (if e.member = 0 then [] else [e.parent])).filter fun p => p != source
  match s.remoteRefused secure e.ctx with
  | some t => (peers.foldl (fun acc p => acc.sendMulticast partition p dst note value secure bytes) t).send (.ack secure 3 t.time)
  | none =>
    match s.remoteSpan e.ctx true (piecesOf dst bytes.length) with
    | .wait t => t
    | .reaches t n status =>
      let mark := s.ctxSecure e.ctx
      let l := piecesOf dst n
      let due := t.piecesDue e.ctx l
      let s1 := t.putPieces (.fabric e.ctx) 0 e.ctx l bytes
      let s2 := peers.foldl (fun acc p => acc.sendMulticast partition p dst note value (s.sealedTo e.ctx partition p) bytes) s1
      if note = 0 then s2.send (.ack mark status.toNat due)
      else State.flushNotes
        { s2 with fabric := { s2.fabric with notes := s2.fabric.notes ++ [⟨e.ctx, note, value, due, status⟩] } }

/-- COLLECTIVE_RESULT. -/
def execCollectiveResult (partition convoy : Nat) (arrival : CollectiveArrival) (s0 : State) :
    Host.Outcome State Fault Refusal :=
  let s := s0.flushNotes
  .next (match s.convoyEntry partition convoy with
    | none => s
    | some e =>
      if !s.fabricOpen e.ctx then s
      else match arrival with
      | .result secure seq c => if s.convoyRefused e secure then s.worldViolation else s.resultArrives partition convoy seq e c
      | .multicast secure source dst note value bytes => s.multicastArrives partition e secure source dst note value bytes)

/-! ### What the ports meet (R373) -/

/-- UNRELIABLE_PACKET (R373): it is dropped and counted. -/
def execUnreliablePacket (s : State) : Host.Outcome State Fault Refusal :=
  .next (if s.security.started then { s with fabric := { s.fabric with dropped := s.fabric.dropped + 1 } } else s)

/-- PEER_DOWN (R373): transport operations to the peer wait. -/
def execPeerDown (partition peer : Nat) (s : State) : Host.Outcome State Fault Refusal :=
  let l := s.fabric.down
  .next (if s.security.started && !l.contains (partition, peer) then
    { s with fabric := { s.fabric with down := l ++ [(partition, peer)] } } else s)

/-- The peer a packet goes to, and its mark of the security sublayer. -/
def Outgoing.target (x : Outgoing) : Option Nat × Bool :=
  match x with
  | .put _ peer _ _ secure _ _ => (some peer, secure)
  | .get _ peer _ _ _ secure _ => (some peer, secure)
  | .contribution peer _ _ secure _ _ => (some peer, secure)
  | .result peer _ _ secure _ _ => (some peer, secure)
  | .multicast peer _ _ _ secure _ => (some peer, secure)
  | .ack secure _ _ => (none, secure)
  | .answer secure _ _ _ => (none, secure)

/-- PEER_RETURN (R373): they go on, and what waited for the peer is sent; what the security sublayer has no keys for is not. -/
def execPeerReturn (partition peer : Nat) (s : State) : Host.Outcome State Fault Refusal :=
  let goes (h : Nat × Outgoing) : Bool :=
    h.1 == partition && h.2.target.1 == some peer && (!h.2.target.2 || s.security.keysPresent)
  .next { s with fabric := { s.fabric with
    down := s.fabric.down.filter (fun p => p != (partition, peer)),
    out := s.fabric.out ++ (s.fabric.held.filter goes).map (fun h => h.2), held := s.fabric.held.filter fun h => !goes h } }

end Sys2Proof.Machine
end

