-- ==== Sys2Proof/Machine/Power.lean ====
section
/-! DEFINITION. The cluster power block and its events (R254 to R256), the rails (R259, R260), and the headroom of contexts
(R372). -/

namespace Sys2Proof.Machine

/-- The part has a cluster of this number, and it is out of reset (R4, R365). -/
def State.metered (s : State) (cluster : Nat) : Bool := s.security.started && decide (cluster < 288)

/-! ### The refill rate (R256) -/

/-- r moves toward TARGET by at most 16. -/
def nextRate (r target : Nat) : Nat := if r < target then min target (r + 16) else max target (r - 16)

/-- RATE_UPDATE: once in each microsecond of device time. -/
def execRateUpdate (cluster : Nat) (s : State) : Host.Outcome State Fault Refusal :=
  let p := (s.cluster cluster).power
  .next (if s.metered cluster && decide (p.lastRate + 1000 ≤ s.time) then
    s.updCluster cluster fun k => { k with power := { p with rate := nextRate p.rate p.target, lastRate := p.lastRate + 1000 } }
    else s)

/-! ### Rails (R259, R260) -/

/-- The rail that the requests and the headroom of the resident contexts ask for: true is high. -/
def State.railWanted (s : State) (cluster : Nat) : Bool :=
  (s.contextsOn cluster).any fun c => decide (2 ≤ s.cappedRequest cluster c) && s.hasHeadroom c

/-- RAIL_SWITCH: the cluster takes the rail it wants, where that is another than the present one and a microsecond has passed
since the last change. -/
def execRailSwitch (cluster rail : Nat) (s : State) : Host.Outcome State Fault Refusal :=
  let p := (s.cluster cluster).power
  let high := rail == 1
  let dwelt := match p.lastRail with
    | some t => decide (t + 1000 ≤ s.time)
    | none => true
  .next (if s.metered cluster && high != p.high && high == s.railWanted cluster && dwelt then
    s.updCluster cluster fun k =>
      { k with power := { p with high := high, lastRail := some s.time },
               sampler := { k.sampler with highTicks := k.sampler.onHigh p.high s.time, railSince := s.time } }
    else s)

/-! ### Writes to the power block (R254) -/

/-- Every level is clamped to its context's share of CAP. -/
def State.clampLevels (s : State) (cluster : Nat) : State :=
  let clamp (l : Nat × Nat) : Nat × Nat := (l.1, min l.2 (s.bucketCap cluster l.1))
  s.updCluster cluster fun k => { k with power := { k.power with levels := k.power.levels.map clamp } }

/-- A write to CAP: bits [19:0], from 1 up. -/
def State.writeCap (s : State) (cluster : Nat) (value : Word) : State :=
  let cap := value.toNat % 2 ^ 20
  if cap = 0 then s
  else (s.updCluster cluster fun k => { k with power := { k.power with cap := cap } }).clampLevels cluster

/-- CAP_WRITE. -/
def execCapWrite (cluster : Nat) (value : Word) (s : State) : Host.Outcome State Fault Refusal :=
  .next (if s.metered cluster then s.writeCap cluster value else s)

/-- The power block after a write of the four bytes at an offset: two weights, TARGET or MRES; the other fields are read-only. -/
def Power.written (p : Power) (off : Nat) (value : Word) : Power :=
  if off < 0x20 ∧ off % 4 = 0 then
    { p with weights := listPut 0 (listPut 0 p.weights (off / 2) (value.toNat % 65536)) (off / 2 + 1) (value.toNat / 65536) }
  else if off = 0x24 then { p with target := min 1024 (value.toNat % 2 ^ 11) }
  else if off = 0x2C then { p with mres := value.toNat % 2 ^ 20 }
  else p

/-- POWER_BLOCK_WRITE: a write to another register than CAP. -/
def execPowerBlockWrite (cluster register : Nat) (value : Word) (s : State) : Host.Outcome State Fault Refusal :=
  .next (if s.metered cluster then s.updCluster cluster fun k => { k with power := k.power.written register value } else s)

/-! ### Headroom (R372) -/

/-- The thermal design power of the package in W (R5). -/
def packageTdp : Nat := 2800

/-- The power of a context over the last millisecond, in W. -/
def loadOf (loads : List (Nat × Nat)) (ctx : Nat) : Nat :=
  match loads.find? fun l => l.1 == ctx with
  | some l => l.2
  | none => 0

/-- A context's headroom bit after an update, from its power, the package's, and the sum of all PBUDGETs. -/
def Context.updated (c : Context) (load total budgets : Nat) : Context :=
  let overShare := decide (packageTdp < total) && decide (packageTdp * c.budget < load * budgets)
  let overBudget := decide (c.budget < load)
  let cool := decide (load * 100 < c.budget * 95) && (!c.tdpHeld || decide (total * 100 < packageTdp * 95))
  if overShare then { c with headroom := false, tdpHeld := true }
  else if overBudget then { c with headroom := false }
  else if cool then { c with headroom := true, tdpHeld := false }
  else c

/-- HEADROOM_UPDATE: once in each 100 microseconds of device time. -/
def execHeadroomUpdate (total : Nat) (loads : List (Nat × Nat)) (s : State) : Host.Outcome State Fault Refusal :=
  let budgets := s.contexts.foldl (fun acc c => acc + c.2.budget) 0
  .next (if s.security.started && decide (s.lastHeadroom + 100000 ≤ s.time) then
    { s with contexts := s.contexts.map fun c => (c.1, c.2.updated (loadOf loads c.1) total budgets),
             lastHeadroom := s.lastHeadroom + 100000 }
    else s)

end Sys2Proof.Machine
end

