-- ==== Sys2Proof/Machine/Security.lean ====
section
/-! DEFINITION. The security processor: start and recovery (R365, R366), restart and the sources of the alarm (R363), quotes
(R368), and the acceptance of features (R370). -/

namespace Sys2Proof.Machine

/-! ### Start (R365, R366) -/

/-- The slot's signature of its image's digest verifies (R365). -/
def verified (slot : FirmwareSlot) : Bool := Config.verifies (sha3 slot.image) slot.signature

/-- The image that starts the part: that of slot 0 where it verifies, else that of slot 1. -/
def startImage (input : PowerOnInput) : Option (List Byte) :=
  if verified input.slot0 then some input.slot0.image
  else if verified input.slot1 then some input.slot1.image
  else none

/-- Every group of the memory PHY is populated and trains (R3). -/
def allTrained (input : PowerOnInput) : Bool := input.trained == 0xFF

/-- The physical address of the attestation window (R368). -/
def attestationWindow : Nat := Config.attestationPage * 4096

/-- The security processor as the boot ROM begins: a new page key, the identity key, alarm 0 and empty logs; the start status reports
the attestation window. -/
def Security.booting (x : Security) : Security :=
  { Security.reset with powered := true, pageKey := Config.bootKey (x.boots + 1), keysPresent := true, boots := x.boots + 1,
                        failedStarts := x.failedStarts, startStatus := attestationWindow }

/-- NONCE and REQ of the attestation window are 0 as the part starts (R368). -/
def State.clearWindow (s : State) : State := { s with mem := Memory.writeBytes s.mem attestationWindow (List.replicate 36 0) }

/-- The boot ROM runs on a machine in reset. Where a memory group is missing or does not train, the part stays in recovery, and the
start does not count. A verified image starts the firmware, which sets FEAT_OFFER; a start in which neither slot verifies leaves the
part in recovery, and the third such in a row raises the alarm. -/
def State.boot (s0 : State) (input : PowerOnInput) : State :=
  let x := s0.security.booting
  let s := s0.clearWindow
  if !allTrained input then { s with security := { x with recovery := true } }
  else match startImage input with
  | some image =>
    { s with security := { x with started := true, failedStarts := 0, measurements := [sha3 image] },
             featOffer := input.offer &&& 0x7F }
  | none =>
    let n := x.failedStarts + 1
    let s1 := { s with security := { x with recovery := true, failedStarts := n } }
    if 3 ≤ n then s1.raiseAlarm .failedStarts 3 n else s1

/-- Everything but memory, with the tags kept beside it, and what the fuses hold is as after reset. -/
def State.restarted (s : State) : State :=
  { State.reset with mem := s.mem, tagv := s.tagv, security := s.security, agenda := s.agenda, rr := s.rr, cur := s.cur,
                     nextId := s.nextId }

/-- POWER_ON: every unit but the security processor was held in reset until now. -/
def execPowerOn (input : PowerOnInput) (s : State) : Host.Outcome State Fault Refusal :=
  .next (if s.security.powered then s else s.restarted.boot input)

/-- RESTART: device time begins again at 0, the page key is a new one, the alarm is at 0, and start runs again. -/
def execRestart (input : PowerOnInput) (s : State) : Host.Outcome State Fault Refusal :=
  .next (if s.security.powered then s.restarted.boot input else s)

/-! ### Sources of the alarm (R363) -/

/-- SUPPLY_VOLTAGE_FAULT: outside the window for 1 us or more. -/
def execSupplyVoltageFault (duration : Nat) (s : State) : Host.Outcome State Fault Refusal :=
  .next (if s.security.powered && decide (1000 ≤ duration) then s.raiseAlarm .voltage 2 0 else s)

/-- CLOCK_GLITCH. -/
def execClockGlitch (s : State) : Host.Outcome State Fault Refusal :=
  .next (if s.security.powered then s.raiseAlarm .clock 2 0 else s)

/-- TAMPER. -/
def execTamper (s : State) : Host.Outcome State Fault Refusal :=
  .next (if s.security.powered then s.raiseAlarm .tamper 3 0 else s)

/-! ### Quotes (R368) -/

/-- The digest of the measurement log, its entries in order. -/
def Security.logDigest (x : Security) : BitVec 256 := sha3 (x.measurements.flatMap fun m => natBytes 32 m.toNat)

/-- Bytes 0x100 to 0x1FF of the attestation window. -/
def State.quoteBytes (s : State) (nonce : BitVec 256) : List Byte :=
  natBytes 4 0xA7E57A11 ++ natBytes 4 s.security.measurements.length ++ natBytes 32 s.security.logDigest.toNat
    ++ natBytes 32 nonce.toNat ++ natBytes 16 s.featOffer.toNat ++ natBytes 16 s.featAccept.toNat
    ++ natBytes 1 s.security.alarm ++ natBytes 3 0 ++ natBytes 4 s.security.logCount ++ natBytes 144 0

/-- QUOTE_REQUEST: the host has written a nonce, and 1 to REQ. The quote and its signature are written, and REQ last; at alarm
level 3 no quote is. -/
def execQuoteRequest (nonce : BitVec 256) (s : State) : Host.Outcome State Fault Refusal :=
  let at_ := attestationWindow
  .next (
    if !s.security.started then s
    else
      let s1 := s.homeWrite at_ (natBytes 32 nonce.toNat)
      if 3 ≤ s.security.alarm then s1.homeWrite (at_ + 0x20) (natBytes 4 2)
      else
        let quote := s.quoteBytes nonce
        ((s1.homeWrite (at_ + 0x100) quote).homeWrite (at_ + 0x200) (natBytes 2420 (Config.signature quote))).homeWrite
          (at_ + 0x20) (natBytes 4 0))

/-! ### Features (R370) -/

/-- FEAT_ACCEPT_WRITE: the first write after start counts, masked by what is offered, and is measured. -/
def execFeatAcceptWrite (mask : BitVec 128) (s : State) : Host.Outcome State Fault Refusal :=
  let x := s.security
  let accept := mask &&& s.featOffer
  .next (
    if !x.started || x.acceptWritten then s
    else { s with featAccept := accept,
                  security := { x with acceptWritten := true,
                                       measurements := x.measurements ++ [sha3 (natBytes 16 accept.toNat)] } })

end Sys2Proof.Machine
end

