-- ==== Sys2Proof/Machine/Tables.lean ====
section
/-! DEFINITION. Activation tables: the table lookup `vtbl` (R130), the load of a table copy (R239, R240) and the switch of
copies (R241). -/

namespace Sys2Proof.Machine

/-! ### Copies (R239) -/

/-- A slot as the context finds it when it starts on the core. -/
def TableSlot.initial : TableSlot := ⟨[], [], false, none⟩

def Core.table (c : Core) (slot : Nat) : TableSlot := listGet TableSlot.initial c.tables slot

/-- A copy of a slot: copy 1 where the bit is set. -/
def TableSlot.copy (t : TableSlot) (which : Bool) : Memory := if which then t.copy1 else t.copy0

/-- The f32 value at an offset of a table image. -/
def tableValue (image : Memory) (off : Nat) : FVal := Fmt.f32.decode (Memory.readNat image off 4)

/-! ### vtbl (R130) -/

/-- One step rounded to nearest: its value and its flags. -/
def stepRne (x : FVal × Flags) : FVal × Flags :=
  let r := Fmt.f32.result 0 0 x.1
  (Fmt.f32.decode r.1, x.2 ||| r.2)

/-- The segment of an argument w, and u within it. -/
def segmentOf (w : FVal) : Nat × FVal :=
  let one : FVal := .fin false 1 0
  let zero : FVal := .fin false 0 0
  if w.less zero then (0, zero)
  else if w.less (.fin false 256 0) then
    match w with
    | .fin _ m e =>
      let i := (inUnits m 1 e 0).1
      (i, (w.add 0 (.fin true i 0)).1)
    | _ => (0, zero)
  else (255, one)

/-- A lookup of b in a copy: the result as a value, and the flags of its rounding steps. A NaN that b - LO or the scaling
gives is the result (DEDUCED: R130 names no segment for it, and R79 makes every NaN result canonical). -/
def tableLookup (image : Memory) (b : FVal) : FVal × Flags :=
  match b with
  | .nan x => (.nan false, flagIf x fInvalid)
  | _ =>
    let d := b.add 0 (tableValue image 0).negate
    let p := d.1.mul (tableValue image 4)
    let w := stepRne (p.1, d.2 ||| p.2)
    if w.1.isNaN then (.nan false, w.2)
    else
      let (i, u) := segmentOf w.1
      let at_ := 0x10 + 16 * i
      let y1 := stepRne ((tableValue image (at_ + 8)).fma 0 u (tableValue image (at_ + 4)))
      let y2 := y1.1.fma 0 u (tableValue image at_)
      (y2.1, w.2 ||| y1.2 ||| y2.2)

/-- `vtbl` on one element: read under operand flush, looked up in the copy the run holds, rounded and flushed. The table's own values are
not flushed by OPFTZ, nor its intermediate results by RESFTZ; underflow and quantised-to-zero of its rounding steps and its flush are
raised, though the flag column of R115 lists neither (DESIGN CHOICE, assumption log 47). -/
def tblElement (slot : Nat) (w : Warp) (c : Core) (b : Word) : Word × Flags :=
  let x := w.readF .f32 b 0
  let y := tableLookup ((c.table slot).copy (w.tblSel.getLsbD slot)) x.1
  let r := Fmt.f32.result 0 w.resftz y.1
  (BitVec.ofNat 32 r.1, x.2 ||| y.2 ||| r.2)

def execVtbl (slot : BitVec 3) (f : VForm) (s : State) : Host.Outcome State Fault Refusal :=
  vectorOp (.v 0x48 ((0 : BitVec 3) ++ slot) f) f
    (fun w t => tblElement slot.toNat w (s.core w.core) (s.opB w f t)) s

/-! ### tblld and tblsw (R240, R241) -/

/-- The bytes of a table image. -/
def tableBytes : Nat := 4112

/-- `tblld`: the copy that is not current at its issue will be loaded; no queue limits the loads. -/
def execTblld (slot : BitVec 3) (f : EForm) (s : State) : Host.Outcome State Fault Refusal :=
  checked (.e 0x67 ((0 : BitVec 4) ++ slot) f) s fun w =>
    let va := (w.spair f.sa).toNat
    let copy := if ((s.core w.core).table slot.toNat).cur then 0 else 1
    s.afterChecks w [(va % 16 != 0, .misaligned, .memory 0 false 0), (!inRange va, .protection, .memory 0 false 4)]
      (s.issueOp w (.table w.core) ((s.core w.core).tableQueue.length + 1) (.tblld slot.toNat copy va) f.imm
        [⟨w.memorySpace, va, tableBytes, false⟩])

/-- The slot and copy that an unfinished load of a table writes. -/
def EngineOp.loads? (o : EngineOp) : Option (Nat × Nat × Nat) :=
  match o.kind with
  | .tblld slot copy va => if o.state == .finished then none else some (slot, copy, va)
  | _ => none

/-- A load of the slot has not yet written its copy. -/
def loadPending (l : List EngineOp) (slot : Nat) : Bool :=
  l.any fun o => match o.loads? with
    | some (k, _, _) => k == slot
    | none => false

/-- Makes the other copy current; the cycle keeps what CUR was as it began (R241). -/
def TableSlot.switch (t : TableSlot) (cycle : Int) : TableSlot := { t with cur := !t.cur, switched := some (cycle, t.curIn cycle) }

/-- `tblsw`: waits for every earlier load of the slot, and then makes the other copy current for runs that issue in later cycles. -/
def execTblsw (slot : BitVec 3) (f : EForm) (s : State) : Host.Outcome State Fault Refusal :=
  checked (.e 0x68 ((0 : BitVec 4) ++ slot) f) s fun w =>
    if loadPending (s.core w.core).tableQueue slot.toNat then s
    else
      let t := (s.core w.core).table slot.toNat
      (s.updCore w.core fun c =>
        { c with tables := listPut TableSlot.initial c.tables slot.toNat (t.switch (s.cycleOf w.core)) }).finishCur

/-- A run is in progress: it issues, or waits in its middle. -/
def Warp.inRun (w : Warp) : Bool :=
  match w.phase with
  | .issuing => true
  | .waiting _ => w.run.isSome
  | _ => false

/-- A run in progress on the core holds the copy of a slot (R239). -/
def State.copyHeld (s : State) (core slot copy : Nat) : Bool :=
  s.warps.any fun p => p.2.core == core && p.2.inRun && p.2.tblSel.getLsbD slot == decide (copy = 1)

/-- The first load that may write its copy: no run holds it, and no earlier load of its slot is unfinished. -/
def State.readyLoad (s : State) (core : Nat) (done : List Nat) (l : List EngineOp) : Option EngineOp :=
  match l with
  | [] => none
  | o :: rest =>
    match o.loads? with
    | none => s.readyLoad core done rest
    | some (slot, copy, _) =>
      if done.contains slot || s.copyHeld core slot copy || !s.mayBegin o then s.readyLoad core (done ++ [slot]) rest
      else some o

/-- Writes an image to a copy. -/
def TableSlot.load (t : TableSlot) (copy : Nat) (bytes : List Byte) : TableSlot :=
  if copy = 1 then { t with copy1 := Memory.writeBytes [] 0 bytes } else { t with copy0 := Memory.writeBytes [] 0 bytes }

/-- TABLE_COPY_WRITE: a load reads its image and writes its copy whole; where a page stands in the way nothing is
written. -/
def execTableCopyWrite (core : Nat) (s : State) : Host.Outcome State Fault Refusal :=
  match s.readyLoad core [] (s.core core).tableQueue with
  | none => .next s
  | some o =>
    match o.loads? with
    | none => .next s
    | some (slot, copy, va) =>
      match s.meetSpan o va tableBytes false false with
      | .waits t => .next t
      | .ends c t => .next (t.setOp (.table core) (o.finish c))
      | .go l =>
        let t := ((s.core core).table slot).load copy (Memory.readPieces s.mem l)
        .next (((s.engineRead o l).updCore core fun c => { c with tables := listPut TableSlot.initial c.tables slot t }).setOp (.table core)
          (o.finish 0))

end Sys2Proof.Machine
end

