-- ==== Sys2Proof/Machine/Waits.lean ====
section
/-! DEFINITION. Batches and their wait (R209 to R211), completion records returned (R236), barriers (R250, R251), shared
registers (R193 to R195), performance requests (R258) and `join` (R350). -/

namespace Sys2Proof.Machine

/-! ### Batches (R209, R210) -/

/-- Gives the batch number to the operations of the open set in a queue. -/
def closeOps (ops : List Nat) (n : Word) (l : List EngineOp) : List EngineOp :=
  l.map fun o => if ops.contains o.id then { o with batch := some n } else o

/-- The same for the unsettled entries of a core, of operations complete or not. -/
def closeSlots (warp : Nat) (n : Word) (l : List Unsettled) : List Unsettled :=
  l.map fun u => if u.warp == warp && u.batch.isNone && u.open_ then { u with batch := some n, open_ := false } else u

/-- How many operations of the open set queue a record once their batch is closed: `acld` and `acst`. -/
def recordsOf (ops : List Nat) (l : List EngineOp) : Nat :=
  (l.filter fun o => ops.contains o.id && o.kind.code != 0).length

/-- `mfence`: closes the open set into the next batch (R209, R210). -/
def execMfence (sd : BitVec 6) (s : State) : Host.Outcome State Fault Refusal :=
  checked (.s 0x32 sd 0 0 0) s fun w =>
    let n := w.batch + 1
    let close (k : Core) : Core :=
      { k with matrixQueue := closeOps w.openOps n k.matrixQueue, unsettled := closeSlots s.cur n k.unsettled }
    let b : Batch := { number := n, members := w.openAll, ops := w.openOps, flags := w.openFlags }
    let w1 := { w with batch := n, openAll := [], openOps := [], openFlags := 0, batches := w.batches ++ [b],
                       inFlight := w.inFlight + recordsOf w.openOps (s.core w.core).matrixQueue }
    ((s.updCore w.core close).updCore (otherCore w.core) close).finish
      ((w1.settleBatches (w1.batches.length)).setS sd n)

/-- The number an `mwait` waits for: one ahead of BN is taken as BN. -/
def Warp.waitNumber (w : Warp) (n : Word) : Word := if serialLe n w.batch then n else w.batch

/-- Every batch numbered n or lower is complete. -/
def Warp.batchesDone (w : Warp) (n : Word) : Bool := w.batches.all fun b => !(serialLe b.number n)

/-- Settles the warp's operations of the batches an `mwait` covered (R211). -/
def State.settleCovered (s : State) (id core : Nat) (n : Word) : State :=
  let keep (u : Unsettled) : Bool := u.warp != id || (match u.batch with | some b => !(serialLe b n) | none => true)
  (s.updCore core fun k => { k with unsettled := k.unsettled.filter keep }).updCore (otherCore core) fun k =>
    { k with unsettled := k.unsettled.filter keep }

/-- An `mwait` returns, which acts as an acquire (R338). -/
def State.mwaitReturn (s : State) (id : Nat) (w : Warp) (n : Word) : State :=
  (s.settleCovered id w.core n).setWarp id { w with horizon := BitVec.ofNat 64 s.time }.advance

/-- `mwait` (R210). -/
def execMwait (sa : BitVec 6) (s : State) : Host.Outcome State Fault Refusal :=
  checked (.s 0x31 0 sa 0 0) s fun w =>
    let n := w.waitNumber (w.sreg sa)
    if w.batchesDone n then s.mwaitReturn s.cur w n else s.setWarp s.cur (w.waitIn (.mwait n))

/-- MWAIT_RETURN. A halt raised during the wait stops the warp instead. -/
def execMwaitReturn (w : Nat) (s : State) : Host.Outcome State Fault Refusal :=
  match s.warp? w with
  | none => .next s
  | some x =>
    match x.phase with
    | .waiting (.mwait n) => .next (if x.batchesDone n && !s.stopping x then s.mwaitReturn w x n else s)
    | _ => .next s

/-! ### Completion records (R232, R236) -/

/-- The 64 bits of a record with the overrun count. -/
def eventWord (r : EventRecord) (overrun : Nat) : DWord :=
  BitVec.ofNat 64 (r.tag.toNat + r.engine.toNat * 2 ^ 32 + r.status.toNat * 2 ^ 40 + min 255 overrun * 2 ^ 56)

/-- The slots of attention requests are settled once their record is returned, or known to be dropped (R278). -/
def State.settleRecords (s : State) (id core : Nat) (ops : List Nat) : State :=
  let keep (u : Unsettled) : Bool := u.warp != id || u.batch.isSome || u.open_ || !ops.contains u.op
  (s.updCore core fun k => { k with unsettled := k.unsettled.filter keep }).updCore (otherCore core) fun k =>
    { k with unsettled := k.unsettled.filter keep }

/-- Returns the oldest record of a warp into a pair, or zeros, and completes the instruction (R236). Returning a record
is an acquire (R235, R338). -/
def State.popRecord (s : State) (id : Nat) (w : Warp) (sd : BitVec 6) : State :=
  match w.records with
  | [] => s.setWarp id (w.setPair sd 0).advance
  | r :: rest =>
    let ops := r.op :: (if w.overrun = 0 then [] else w.lostOps)
    let w1 := { w with records := rest, overrun := 0, lostOps := [], horizon := BitVec.ofNat 64 s.time }
    (s.settleRecords id w.core ops).setWarp id (w1.setPair sd (eventWord r w.overrun)).advance

def execEvpop (sd : BitVec 6) (s : State) : Host.Outcome State Fault Refusal :=
  checked (.s 0x33 sd 0 0 0) s fun w => s.popRecord s.cur w sd

/-- The warp has no record and nothing in flight that will queue one without an instruction of its own. -/
def Warp.nothingComes (w : Warp) : Bool := w.records.isEmpty && w.inFlight == 0 && w.recChildren == 0

/-- `evwait` (R236). -/
def execEvwait (sd : BitVec 6) (s : State) : Host.Outcome State Fault Refusal :=
  checked (.s 0x34 sd 0 0 0) s fun w =>
    if !w.records.isEmpty || w.nothingComes then s.popRecord s.cur w sd else s.setWarp s.cur (w.waitIn (.evwait sd))

/-- EVWAIT_RETURN. A halt raised during the wait stops the warp instead. -/
def execEvwaitReturn (w : Nat) (s : State) : Host.Outcome State Fault Refusal :=
  match s.warp? w with
  | none => .next s
  | some x =>
    match x.phase with
    | .waiting (.evwait sd) => .next (if (!x.records.isEmpty || x.nothingComes) && !s.stopping x then s.popRecord w x sd else s)
    | _ => .next s

/-! ### Barriers (R249 to R251) -/

/-- The word of a `bar` of a KIND. -/
def barRaw (kind slot : BitVec 2) : Raw := .s 0x28 0 0 1 ((0 : BitVec 8) ++ kind ++ slot)

/-- The caravan of the warp uses the party slot. -/
def State.usesSlot (s : State) (w : Warp) (slot : Nat) : Bool :=
  match s.caravan? w.caravan with
  | some c => decide (slot < c.record.parties)
  | none => false

def Warp.setArrival (w : Warp) (slot : Nat) (a : Option Word) : Warp :=
  { w with arrival := listPut none w.arrival slot a }

/-- The wait of a `bar`: it returns where the phase of the arrival is over, and otherwise ends the issue of its run, once the loads of
the run are done (R251). A `bar` that is the last instruction of its run leaves its warp at the run behind it while it waits, which is
the run that word 1 of R167 names where the driver terminates it there: R167 names the run being executed, or at a boundary the next one,
and does not say which of the two this wait is (DESIGN CHOICE, assumption log 54). -/
def State.barWait (s : State) (w : Warp) (slot : Nat) (p : Party) (arrived : Word) : State :=
  if p.phase ≠ arrived then s.finish (w.setArrival slot none)
  else if w.loads ≠ [] then s
  else s.setWarp s.cur { w.remainderFrom (w.idx + 1) with phase := .waiting (.bar slot arrived), active := false }

/-- `bar` of a KIND: the three checks, the arrival, and the wait (R250). A warp whose turn at the party has passed in this cycle waits
for the next one (R252). -/
def barOp (kind slot : BitVec 2) (s : State) : Host.Outcome State Fault Refusal :=
  checked (barRaw kind slot) s fun w =>
    let k := slot.toNat
    match if s.usesSlot w k then s.party? w k else none with
    | none => s.trapHere w .partyIllegal .none
    | some p =>
      let oa := listGet none w.arrival k
      if !p.inTurn (s.cycleOf w.core) w.ordinal then s
      else if (kind = 2 ∧ oa = none) ∨ (kind ≠ 2 ∧ oa = some p.phase) then s.trapHere w .partyIllegal .none
      else if kind = 2 then s.barWait w k p (oa.getD 0)
      else if s.released w s.cur 0 = false then s
      else
        let p1 := { p with arrived := p.arrived + 1, last := some (s.cycleOf w.core, w.ordinal) }.complete
        let s1 := s.setParty w k p1
        let w1 := w.setArrival k (some p.phase)
        if kind = 1 then s1.finish w1 else s1.barWait w1 k p1 p.phase

def execBar (slot : BitVec 2) (s : State) : Host.Outcome State Fault Refusal := barOp 0 slot s

def execBarArrive (slot : BitVec 2) (s : State) : Host.Outcome State Fault Refusal := barOp 1 slot s

def execBarWait (slot : BitVec 2) (s : State) : Host.Outcome State Fault Refusal := barOp 2 slot s

/-- BAR_RELEASE: the phase a warp waits for is over; the rest of its run comes as one issue (R251). -/
def execBarRelease (w : Nat) (s : State) : Host.Outcome State Fault Refusal :=
  match s.warp? w with
  | none => .next s
  | some x =>
    match x.phase with
    | .waiting (.bar slot arrived) =>
      match s.party? x slot with
      | some p => .next (if p.phase ≠ arrived then s.setWarp w { x.setArrival slot none with phase := .fetch } else s)
      | none => .next s
    | _ => .next s

/-! ### Shared registers (R193 to R195) -/

/-- The caravan of a warp, where it is flat. -/
def State.flatCaravan (s : State) (w : Warp) : Option Caravan :=
  match s.caravan? w.caravan with
  | some c => if c.record.stages = 1 then some c else none
  | none => none

/-- A shared-register instruction of a caravan that is not flat: SD, where it has one, takes zero, and TINFO bit 0 is
set. -/
def State.noShared (s : State) (w : Warp) (sd : Option (BitVec 6)) : State :=
  let w1 := match sd with
    | some d => w.setS d 0
    | none => w
  s.finish { w1 with tinfo := w1.tinfo ||| 1 }

/-- No younger warp has operated on a shared register of the caravan in the present cycle: the warp's turn has not passed, and with it
the ascending order of ordinals within a cycle (R194). -/
def Caravan.sharedTurn (c : Caravan) (cycle : Int) (ordinal : Word) : Bool :=
  match c.lastShared with
  | some (k, o) => !(k == cycle && older ordinal o)
  | none => true

/-- An operation of a warp on the shared registers takes its place in the order. -/
def State.touchShared (s : State) (w : Warp) (c : Caravan) : State :=
  s.setCaravan w.caravan { c with lastShared := some (s.cycleOf w.core, w.ordinal) }

/-- A new current value, which becomes visible four cycles on. -/
def State.writeShared (s : State) (w : Warp) (c : Caravan) (n : Nat) (v : Word) : State :=
  s.touchShared w { c with shared := listPut 0 c.shared n v, updates := c.updates ++ [⟨n, v, s.cur, s.cycleOf w.core⟩] }

/-- The visible value of a shared register in a cycle (R194). -/
def Caravan.visibleIn (c : Caravan) (n : Nat) (cycle : Int) : Word :=
  match (c.updates.filter fun u => u.index == n && u.due cycle).getLast? with
  | some u => u.value
  | none => listGet 0 c.visible n

def execCrd (sd : BitVec 6) (index : BitVec 12) (s : State) : Host.Outcome State Fault Refusal :=
  checked (.s 0x37 sd 0 1 index) s fun w =>
    match s.flatCaravan w with
    | none => s.noShared w (some sd)
    | some c => s.finish (w.setS sd (c.visibleIn index.toNat (s.cycleOf w.core)))

def execCwr (sa : BitVec 6) (index : BitVec 12) (s : State) : Host.Outcome State Fault Refusal :=
  checked (.s 0x38 0 sa 1 index) s fun w =>
    match s.flatCaravan w with
    | none => s.noShared w none
    | some c =>
      if !c.sharedTurn (s.cycleOf w.core) w.ordinal then s else (s.writeShared w c index.toNat (w.sreg sa)).finish w

def execCadd (sd sa : BitVec 6) (index : BitVec 12) (s : State) : Host.Outcome State Fault Refusal :=
  checked (.s 0x39 sd sa 1 index) s fun w =>
    match s.flatCaravan w with
    | none => s.noShared w (some sd)
    | some c =>
      let old := listGet 0 c.shared index.toNat
      if !c.sharedTurn (s.cycleOf w.core) w.ordinal then s
      else (s.writeShared w c index.toNat (old + w.sreg sa)).finish (w.setS sd old)

def execCcas (sd sa : BitVec 6) (index : BitVec 12) (s : State) : Host.Outcome State Fault Refusal :=
  checked (.s 0x3A sd sa 1 index) s fun w =>
    match s.flatCaravan w with
    | none => s.noShared w (some sd)
    | some c =>
      let old := listGet 0 c.shared index.toNat
      if !c.sharedTurn (s.cycleOf w.core) w.ordinal then s
      else (if old = w.sreg sd then s.writeShared w c index.toNat (w.sreg sa) else s.touchShared w c).finish (w.setS sd old)

/-- SHARED_REGISTER_VISIBLE: the values of a register whose four cycles have passed are settled as its visible value (R194). -/
def execSharedRegisterVisible (caravan index : Nat) (s : State) : Host.Outcome State Fault Refusal :=
  .next (s.updCaravan caravan fun c =>
    let cycle := s.cycleOf (c.core.getD 0)
    { c with visible := listPut 0 c.visible index (c.visibleIn index cycle),
             updates := c.updates.filter fun u => !(u.index == index && u.due cycle) })

/-! ### Performance requests (R258) -/

/-- The levels that the warps of a context have asked for in a cycle of the cluster. -/
def Cluster.askedIn (k : Cluster) (ctx : Nat) (cycle : Int) : Tbl (BitVec 2) :=
  match Tbl.find k.asked ctx with
  | some (c, l) => if c = cycle then l else []
  | none => []

/-- A warp's request for its context on its cluster: the last request of the context stands, and of those that several warps make in
one cycle the largest (R258). -/
def State.request (s : State) (w : Warp) (level : BitVec 2) : State :=
  let now := s.cycleOf w.core
  s.updCluster (clusterOf w.core) fun k =>
    let l := Tbl.put (k.askedIn w.ctx now) s.cur level
    { k with requests := Tbl.put k.requests w.ctx (l.foldl (fun best p => if best.toNat < p.2.toNat then p.2 else best) 0),
             asked := Tbl.put k.asked w.ctx (now, l) }

def execPerf (level : BitVec 2) (s : State) : Host.Outcome State Fault Refusal :=
  checked (.s 0x2E 0 0 1 ((0 : BitVec 10) ++ level)) s fun w => (s.request w level).finish w

/-- The level of a `vperf`: the largest min(B[t], 3) over some threads. -/
def largestLevel (ts : List Nat) (b : Nat → Word) : Nat := ts.foldl (fun acc t => max acc (min (b t).toNat 3)) 0

def execVperf (f : VForm) (s : State) : Host.Outcome State Fault Refusal :=
  checked (.v 0x50 0 f) s fun w =>
    let take := s.takes w f.pred f.pneg
    if take = 0 then s.finish w
    else (s.request w (BitVec.ofNat 2 (largestLevel (threadsOf take) (s.opB w f)))).finish w

/-! ### join (R350) -/

/-- `join` returns, an acquire at package scope. -/
def State.joinReturn (s : State) (id : Nat) (w : Warp) : State :=
  s.setWarp id { w with horizon := BitVec.ofNat 64 s.time }.advance

def execJoin (f : EForm) (s : State) : Host.Outcome State Fault Refusal :=
  checked (.e 0x6E 0 f) s fun w =>
    if w.children = 0 then s.joinReturn s.cur w else s.setWarp s.cur (w.waitIn .join)

/-- JOIN_RETURN: no child is open. A spilled warp claims its registers first and returns once they are back; a halt raised during the
wait stops the warp instead. -/
def execJoinReturn (w : Nat) (s : State) : Host.Outcome State Fault Refusal :=
  match s.warp? w with
  | none => .next s
  | some x =>
    match x.phase with
    | .waiting .join =>
      let claimed := (s.core x.core).claims.any fun c => c.kind == .restore w
      .next (if x.children ≠ 0 ∨ s.stopping x = true ∨ claimed = true then s
        else if x.spilledRegs then s.claimRestore w x
        else s.joinReturn w x)
    | _ => .next s

end Sys2Proof.Machine
end

