-- ==== Sys2Proof/Machine/Tasks.lean ====
section
/-! DEFINITION. Children (R348, R349), and task queues: their packets (R343, R351), `qpush` and `qpop` (R352, R353), and the
dispatcher (R354). -/

namespace Sys2Proof.Machine

/-! ### spawn (R348, R349) -/

/-- What a caravan's blocks hold, where no refusal is possible any more: one that cannot be read brings free values (R388). The error is
a wait for a page. -/
def State.blocksOrFree (s : State) (who : PartAccess) (ctx : Nat) (r : LaunchRecord) :
    Except State (State × List Word × List (List Lanes)) :=
  match s.launchBlocks who ctx r with
  | .wait t => .error t
  | .got args initial => .ok (s, args, initial)
  | .fail t off =>
    let word (i : Nat) : Word := Config.unreadWord t.nextId i
    let bytes := (List.range (672 * (tracksIn r.initMask).length)).flatMap fun i => natBytes 4 (word (64 + i)).toNat
    let args := if off = 0x20 then (List.range r.argN).map word else match t.partGet who ctx r.argAddr (4 * r.argN) with
      | .got a => wordsOf a r.argN
      | _ => (List.range r.argN).map word
    let initial := if off = 0x30 then initialValues r.initMask bytes
      else match t.partGet who ctx r.initAddr (2688 * (tracksIn r.initMask).length) with
      | .got b => initialValues r.initMask b
      | _ => initialValues r.initMask bytes
    .ok ({ t with nextId := t.nextId + 1 }, args, initial)

/-- A child enters the pending pool: its launch's counter, its parent's count of open children, and the records to come. -/
def State.acceptChild (s : State) (w : Warp) (parent : Caravan) (tag : Option Word) (r : LaunchRecord) (o : CodeObject)
    (args : List Word) (initial : List (List Lanes)) : State :=
  let child : Caravan :=
    { Caravan.fresh w.ctx parent.launch parent.queue parent.dies r o args initial with
      parent := some (s.cur, tag), parentCaravan := some w.caravan, home := some (dieOf w.core) }
  let s1 := (s.pool child).countLaunch parent.launch 1
  let s2 := s1.updCaravan w.caravan fun c => { c with openChildren := c.openChildren + 1 }
  s2.finish { w with children := w.children + 1, recChildren := if tag.isSome then w.recChildren + 1 else w.recChildren }

/-- `spawn`: the checks of R349, the release, room in the pool, and the child. -/
def execSpawn (f : EForm) (s : State) : Host.Outcome State Fault Refusal :=
  checked (.e 0x6D 0 f) s fun w =>
    let a := (w.sreg f.sa).toNat
    let b := Memory.readBytes (s.scratchOf w.caravan) a 128
    let r := recordOf b
    let o := s.objectFor w.ctx r.objId
    s.afterChecks w
      [(a % 128 != 0, .misaligned, .memory 0 true 0), (s.beyond w a 128, .protection, .memory 0 true 5),
       ((refusal b o).isSome, .shapeMismatch, .none)]
      (match o, s.caravan? w.caravan with
       | some o, some parent =>
         if s.poolFull || !s.released w s.cur 2 then s
         else match s.blocksOrFree (.child s.cur) w.ctx r with
           | .error t => t
           | .ok (t, args, initial) =>
             t.acceptChild w parent (if f.imm.getLsbD 31 then some (f.imm &&& 0x7FFFFFFF) else none) r o args initial
       | _, _ => s)

/-! ### Task queues (R343, R351) -/

def TaskQueue.isEmpty (q : TaskQueue) : Bool := q.onDie.isEmpty && q.ringTasks.isEmpty && q.saved.isEmpty

def State.setTaskQueue (s : State) (q : Nat) (k : TaskQueue) : State := { s with taskQueues := Tbl.put s.taskQueues q k }

/-- The oldest task of the ring moves into the on-die storage with the value its entry holds (R351); an entry that cannot be read brings
a free value (R388). The flag says that the ring's page must be waited for. -/
def State.refillOne (s : State) (q : Nat) (k : TaskQueue) : State × Bool :=
  match k.ringTasks with
  | [] => (s, false)
  | (entry, launch, time) :: rest =>
    let moved (t : State) (v : DWord) : State :=
      t.setTaskQueue q { k with onDie := k.onDie ++ [⟨v, launch, time⟩], ringTasks := rest }
    match s.partGet (.ring q) k.ctx (k.ring + 8 * entry) 8 with
    | .wait t => (t, true)
    | .got b => (moved s (BitVec.ofNat 64 (bytesNat b)), false)
    | .fail t =>
      (moved { t with nextId := t.nextId + 1 } (Config.unreadWord t.nextId 1 ++ Config.unreadWord t.nextId 0), false)

/-- Tasks of the ring move into the on-die storage, oldest first, while it has room. -/
def State.refill (s : State) (q fuel : Nat) : State × Bool :=
  match fuel, Tbl.find s.taskQueues q with
  | n + 1, some k =>
    if k.ringTasks.isEmpty || decide (256 ≤ k.onDie.length) || !k.saved.isEmpty then (s, false)
    else match s.refillOne q k with
      | (t, true) => (t, true)
      | (t, false) => t.refill q n
  | _, _ => (s, false)

/-- The number of the entry at the ring's tail: the next whose place no task of the ring holds. -/
def TaskQueue.nextEntry (q : TaskQueue) : Nat :=
  ((List.range (q.ringTasks.length + 1)).find? fun i => q.ringTasks.all fun t => t.1 != (q.ringNext + i) % q.rsize).getD 0 + q.ringNext

/-- Takes tasks from the head of a queue. -/
def TaskQueue.take (q : TaskQueue) (n : Nat) : TaskQueue := { q with onDie := q.onDie.drop n, flush := q.flush - n }

/-- The fields of a template that fail, beyond those of R182. -/
def templateChecks (r : LaunchRecord) : List (Nat × Bool) :=
  [(0x00, r.trip != 1), (0x04, r.stages != 1), (0x05, r.depth != 1), (0x06, r.tracks != 0), (0x2C, r.parties != 0)]

/-- The lowest byte offset at which a template fails. -/
def templateRefusal (b : List Byte) (o : Option CodeObject) : Option Nat :=
  let failed := ((recordChecks b o ++ templateChecks (recordOf b)).filter fun c => c.2).map fun c => c.1
  failed.foldl (fun best off => match best with
    | none => some off
    | some x => some (min x off)) none

/-- TQBIND. -/
def tqbindPacket (lane : Nat) (p : Packet) (_ : HostQueue) (s : State) : Begun :=
  let q := p.field 0x10 2
  let ctx := p.field 0x12 2
  let rsize := p.field 0x14 4
  let ring := p.field 0x18 8
  if 4095 < q ∨ 63 < ctx ∨ powerBetween 8 24 rsize = false ∨ ring % 64 ≠ 0 ∨ ((p.bytes.drop 0x28).any fun x => x != 0) = true then
    .completes s 4 0 0
  else if s.loaded ctx = false then .completes s 5 0 0
  else if (match Tbl.find s.taskQueues q with | some t => !t.isEmpty | none => false) = true then .completes s 5 0 0
  else match s.partGet (.packet lane p.index) ctx (p.field 0x20 8) 128 with
    | .wait t => .waits t
    | .fail t => .completes t 1 0 0
    | .got b =>
      match templateRefusal b (s.objectFor ctx (recordOf b).objId) with
      | some off => .completes s 1 off 0
      | none =>
        let t : TaskQueue :=
          { ctx := ctx, ring := ring, rsize := rsize, template := recordOf b, onDie := [], ringTasks := [], ringNext := 0,
            flush := 0, saved := [] }
        .completes (s.setTaskQueue q t) 0 0 0

def execTqbind (queue : Nat) (s : State) : Host.Outcome State Fault Refusal := servePacket .tqbind queue (tqbindPacket queue) s

/-- TQUNBIND: a queue that holds nothing. -/
def tqunbindPacket (p : Packet) (_ : HostQueue) (s : State) : Begun :=
  let q := p.field 0x10 4
  if 4095 < q then .completes s 4 0 0
  else match Tbl.find s.taskQueues q with
    | none => .completes s 5 0 0
    | some t => if t.isEmpty then .completes { s with taskQueues := Tbl.erase s.taskQueues q } 0 0 0 else .completes s 5 0 0

def execTqunbind (queue : Nat) (s : State) : Host.Outcome State Fault Refusal :=
  servePacket .tqunbind queue tqunbindPacket s

/-! ### qpush and qpop (R352, R353) -/

/-- What a push of one task comes to. -/
inductive Pushed
  | no
  | ok (s : State)
  /-- The ring's page waits for a translation. -/
  | wait (s : State)

/-- Pushes a task of a launch. -/
def State.pushTask (s : State) (core ctx q : Nat) (t : Task) : Pushed :=
  match Tbl.find s.taskQueues q with
  | none => .no
  | some k =>
    if 4096 ≤ q ∨ k.ctx ≠ ctx then .no
    else if k.ringTasks.isEmpty && decide (k.onDie.length < 256) then .ok (s.setTaskQueue q { k with onDie := k.onDie ++ [t] })
    else if k.ringTasks.length < k.rsize then
      let i := k.nextEntry
      let (s1, ok) := s.partPut (.ring q) core ctx (k.ring + 8 * (i % k.rsize)) (natBytes 8 t.value.toNat)
      if ok then .ok (s1.setTaskQueue q { k with ringTasks := k.ringTasks ++ [(i % k.rsize, t.launch, t.time)], ringNext := i + 1 })
      else .wait s1
    else .no

/-- Pushes the tasks of some threads in order: the state and the threads that succeed, or the wait. -/
def State.pushTasks (s : State) (w : Warp) (q launch : Nat) (value : Nat → DWord) (ts : List Nat) :
    Except State (State × List Nat) :=
  match ts with
  | [] => .ok (s, [])
  | t :: rest =>
    match s.pushTask w.core w.ctx q ⟨value t, launch, s.time⟩ with
    | .wait s1 => .error s1
    | .no => s.pushTasks w q launch value rest
    | .ok s1 =>
      match (s1.countLaunch launch 1).pushTasks w q launch value rest with
      | .ok (s2, l) => .ok (s2, t :: l)
      | .error e => .error e

/-- The launch a warp belongs to. -/
def State.launchOf (s : State) (w : Warp) : Nat :=
  match s.caravan? w.caravan with
  | some c => c.launch
  | none => 0

/-- The results of some threads in a predicate. -/
def Warp.setResults (w : Warp) (n : Nat) (take : BitVec 96) (ok : List Nat) : Warp :=
  w.setPredicate n (maskOf fun t => if take.getLsbD t then ok.contains t else (w.predicate n).getLsbD t)

/-- `qpush`. -/
def execQpush (f : VForm) (s : State) : Host.Outcome State Fault Refusal :=
  checked (.v 0x6F 0 f) s fun w =>
    if s.takes w f.pred f.pneg = 0 then s.finish w
    else if !s.released w s.cur 2 then s
    else
      let take := s.takes w f.pred f.pneg
      let value (t : Nat) : DWord := s.source w (f.va + 1) 0 t ++ s.source w f.va 0 t
      match s.pushTasks w (w.sreg f.sb).toNat (s.launchOf w) value (threadsOf take) with
      | .error e => { s with dies := e.dies }
      | .ok (s1, ok) =>
        let results (x : Warp) : Warp :=
          let y := x.setResults (f.vd.extractLsb' 0 3).toNat take ok
          if ok.length = (threadsOf take).length then y else { y with flags := y.flags ||| 0x400 }
        (s1.updWarp s.cur results).finishCur

/-- What a pop comes to. -/
inductive Popped
  | no
  | ok (s : State) (v : DWord)
  /-- The head task lies in the ring, whose page waits for a translation. -/
  | wait (s : State)

/-- Takes the head task of a queue, where it is of the launch. -/
def State.popTask (s0 : State) (ctx q launch : Nat) : Popped :=
  match Tbl.find s0.taskQueues q with
  | none => .no
  | some k0 =>
    if 4096 ≤ q ∨ k0.ctx ≠ ctx then .no
    else
      let (s, waits) := s0.refill q 256
      let k := (Tbl.find s.taskQueues q).getD k0
      match k.onDie with
      | [] => if waits then .wait s else .no
      | t :: _ =>
        if t.launch = launch then .ok (((s.setTaskQueue q (k.take 1)).refill q 256).1.countLaunch launch (-1)) t.value else .no

/-- Pops a task for each of some threads in order: the state, and the threads that succeed with their tasks; or the wait. -/
def State.popTasks (s : State) (ctx q launch : Nat) (ts : List Nat) : Except State (State × List (Nat × DWord)) :=
  match ts with
  | [] => .ok (s, [])
  | t :: rest =>
    match s.popTask ctx q launch with
    | .wait s1 => .error s1
    | .no => s.popTasks ctx q launch rest
    | .ok s1 v =>
      match s1.popTasks ctx q launch rest with
      | .ok (s2, l) => .ok (s2, (t, v) :: l)
      | .error e => .error e

/-- `qpop`. Where a task must be waited for, the instruction has done nothing yet. -/
def execQpop (f : VForm) (s : State) : Host.Outcome State Fault Refusal :=
  checked (.v 0x70 0 f) s fun w =>
    if s.takes w f.pred f.pneg = 0 then s.finish w
    else
      let take := s.takes w f.pred f.pneg
      match s.popTasks w.ctx (w.sreg f.sb).toNat (s.launchOf w) (threadsOf take) with
      | .error e => { s with dies := e.dies }
      | .ok (s1, got) =>
        let value (t : Nat) : DWord := match got.find? fun p => p.1 == t with
          | some p => p.2
          | none => 0
        let ok := got.map fun p => p.1
        let mask := maskOf fun t => ok.contains t
        let w1 := (w.setVector f.va mask fun t => (value t).extractLsb' 0 32).setVector (f.va + 1) mask
          fun t => (value t).extractLsb' 32 32
        s1.finish ((w1.setResults (f.vd.extractLsb' 0 3).toNat take ok).acquire 2 s.time)

/-! ### The dispatcher (R354) -/

/-- The run of tasks at the head that one warp takes. -/
def TaskQueue.headRun (q : TaskQueue) : List Task :=
  match q.onDie with
  | [] => []
  | t :: _ => (q.onDie.takeWhile fun x => x.launch == t.launch).take 96

/-- A warp of the head tasks is due: 96 of them, a task of another launch behind them, 2 us since the oldest was pushed, or a
flush of tasks that the queue held when it came. -/
def TaskQueue.dispatchable (q : TaskQueue) (now : Nat) : Bool :=
  match q.headRun with
  | [] => false
  | t :: rest =>
    rest.length + 1 == 96 || decide (rest.length + 1 < q.onDie.length) || decide (t.time + 2000 ≤ now) || decide (0 < q.flush)

/-- The head tasks become a caravan of one pass in their launch, where a warp of them is due. -/
def State.dispatch (s0 : State) (taskQueue : Nat) : State :=
  let s := (s0.refill taskQueue 256).1
  match Tbl.find s.taskQueues taskQueue with
  | none => s
  | some q =>
    let run := q.headRun
    let halted := (Tbl.findD s.partitions (s.partitionOf q.ctx) Partition.initial).halt.isSome
    match run, s.objectFor q.ctx q.template.objId with
    | t :: _, some o =>
      if !q.dispatchable s.time || halted || s.poolFull || !s.loaded q.ctx then s
      else match s.blocksOrFree (.ring taskQueue) q.ctx q.template with
        | .error e => e
        | .ok (e, args, initial) =>
          let (queue, dies) := match Tbl.find s.launches t.launch with
            | some l => (some l.queue, l.dies)
            | none => (none, 0)
          let c : Caravan :=
            { Caravan.fresh q.ctx t.launch queue dies q.template o args initial with
              taskWords := run.map fun x => (x.value.extractLsb' 0 32, x.value.extractLsb' 32 32) }
          let s1 := ((e.setTaskQueue taskQueue (q.take run.length)).refill taskQueue 256).1
          (s1.pool c).countLaunch t.launch (1 - (run.length : Int))
    | _, _ => s

/-- DISPATCH. -/
def execDispatch (taskQueue : Nat) (s : State) : Host.Outcome State Fault Refusal := .next (s.dispatch taskQueue)

/-! ### TQFLUSH (R343, R354) -/

/-- The tasks that the queue holds are to be launched at once, in partial warps where need be; the packet stays open until they are. -/
def tqflushPacket (p : Packet) (_ : HostQueue) (s : State) : Begun :=
  let q := p.field 0x10 4
  if 4095 < q then .completes s 4 0 0
  else match Tbl.find s.taskQueues q with
    | none => .completes s 5 0 0
    | some t => .opens (s.setTaskQueue q { t with flush := t.onDie.length + t.ringTasks.length + t.saved.length })

/-- An open TQFLUSH: its queue's dispatcher launches what it can, and the packet completes once every task held then has gone. -/
def runFlush (lane : Nat) (o : OpenPacket) (s : State) : State :=
  let q := o.packet.field 0x10 4
  let s1 := s.dispatch q
  if (match Tbl.find s1.taskQueues q with | some t => t.flush == 0 | none => true) then s1.endPacket lane o.packet 0 0 0 else s1

/-- TQFLUSH. -/
def execTqflush (queue : Nat) (s : State) : Host.Outcome State Fault Refusal :=
  .next ((s.served .tqflush queue tqflushPacket).workOpen .tqflush queue runFlush)

end Sys2Proof.Machine
end

