-- ==== Sys2Proof/Machine/Stops.lean ====
section
/-! DEFINITION. PREEMPT and RESUME: the save of what stands on a cluster and its new placement (R192, R214, R357, R359); and
ABORT (R360). -/

namespace Sys2Proof.Machine

/-! ### What a stop keeps (R205, R214, R219) -/

/-- Slots of the tiles that a stop saves: those the context declares live, and those named by an operation. -/
def Core.tileKept (k : Core) (livet : BitVec 21) (slot : Nat) : Bool :=
  livet.getLsbD slot || k.unsettled.any fun u => u.slot == slot

/-- A region of the weight buffer that a stop keeps: every one where the buffer is declared live, one that a `wbld` still packs,
and one that an unfinished operation names. -/
def Core.regionKept (k : Core) (liveWb : Bool) (r : Region) : Bool :=
  liveWb || !r.entered || k.matrixQueue.any fun o =>
    o.state != .finished && match o.kind with
      | .mma _ _ b _ _ _ _ _ _ => b.base == r.offset
      | _ => false

/-- A core as a stop saves it: caches and translations are not kept, and no run that may yet issue is of the cycle in which a table slot
was switched (R241). -/
def Core.saved (k : Core) (livet : BitVec 21) (liveWb : Bool) : Core :=
  let regions := k.regions.filter fun r => k.regionKept liveWb r
  let inside (c : Host.Cell) : Bool := liveWb || regions.any fun r => decide (r.offset ≤ c.1 ∧ c.1 < r.offset + r.size)
  let tiles := (List.range k.tiles.length).map fun i => if k.tileKept livet i then listGet [] k.tiles i else []
  { k with regions := regions, weights := k.weights.filter inside, tiles := tiles, l1 := [], constCache := [], tileCache := [],
           tlb := [], tables := k.tables.map fun x => { x with switched := none } }

/-- The caravans that a core serves: those placed on it, and the one that holds the pair coupling where it is the follower (R246). -/
def State.servedBy (s : State) (core : Nat) : List (Nat × Caravan) :=
  let k := (s.cluster (clusterOf core)).coupling
  s.caravans.filter fun c => c.2.core == some core || (core % 2 == 1 && k == some c.1)

/-- What the contexts of a core declare live: tiles, and the weight buffer. -/
def State.liveOn (s : State) (core : Nat) : BitVec 21 × Bool :=
  (s.servedBy core).foldl (fun acc c => match Tbl.find s.contexts c.2.ctx with
    | some x => (acc.1 ||| x.livet, acc.2 || x.liveWb)
    | none => acc) (0, false)

def State.keepCore (s : State) (core : Nat) : State :=
  s.updCore core fun k => k.saved (s.liveOn core).1 (s.liveOn core).2

/-! ### Moving what stands on cores -/

/-- A move of cores, each to another; where a core goes. -/
def movedCore (m : List (Nat × Nat)) (core : Nat) : Nat :=
  match m.find? fun p => p.1 == core with
  | some p => p.2
  | none => core

def EngineOp.movedTo (o : EngineOp) (m : List (Nat × Nat)) : EngineOp := { o with core := movedCore m o.core }

def Core.movedTo (k : Core) (m : List (Nat × Nat)) (shift : Int) : Core :=
  let ops (l : List EngineOp) : List EngineOp := l.map fun o => o.movedTo m
  { k with copyQueue := ops k.copyQueue, tableQueue := ops k.tableQueue, loaderQueue := ops k.loaderQueue,
           matrixQueue := ops k.matrixQueue, lastIssue := k.lastIssue + shift }

def LockSpace.movedTo (x : LockSpace) (m : List (Nat × Nat)) : LockSpace :=
  match x with
  | .memory ctx => .memory ctx
  | .scratch core caravan => .scratch (movedCore m core) caravan

/-- What moves from some cores: all that stands on them, or one caravan of theirs alone. -/
def chosen (alone : Option Nat) (caravan : Nat) : Bool :=
  match alone with
  | none => true
  | some id => id == caravan

/-- A claim is made for a chosen caravan. -/
def State.claimChosen (s : State) (alone : Option Nat) (c : Claim) : Bool :=
  let ofWarp (id : Nat) : Bool := match s.warp? id with
    | some w => chosen alone w.caravan
    | none => alone.isNone
  match c.kind with
  | .grow id _ => ofWarp id
  | .restore id => ofWarp id
  | .launch caravan _ => chosen alone caravan

/-- The chosen warps of a core in the order of their ordinals. -/
def State.byOrdinal (s : State) (alone : Option Nat) (core : Nat) : List (Nat × Warp) :=
  (youngestFirst (s.warps.filter fun p => p.2.core == core && chosen alone p.2.caravan)).reverse

/-- Gives the chosen warps of a core new ordinals from its counter, in the order of their old ones, and their launch claims after them
(R168). -/
def State.renumber (s : State) (alone : Option Nat) (core : Nat) : State :=
  let start := (s.core core).nextOrdinal
  let order := (s.byOrdinal alone core).map fun p => p.1
  let claims := (s.core core).claims.filter fun c => s.claimChosen alone c
  let at_ (k : Nat) : Word := start + BitVec.ofNat 32 k
  let later (c : Claim) : Nat := (claims.filter fun x => older x.ordinal c.ordinal).length
  let place (id : Nat) : Nat := (order.takeWhile fun x => x != id).length
  let s1 : State := { s with warps := s.warps.map fun p =>
    (p.1, if order.contains p.1 then { p.2 with ordinal := at_ (place p.1) } else p.2) }
  s1.updCore core fun k =>
    { k with claims := k.claims.map fun c => if claims.contains c then { c with ordinal := at_ (order.length + later c) } else c,
             nextOrdinal := at_ (order.length + claims.length) }

/-- Registers that a saved caravan holds: its handoff file and the quotas of its warps that are not spilled. -/
def State.heldBy (s : State) (id : Nat) (c : Caravan) : Nat :=
  s.warps.foldl (fun n p => if p.2.caravan = id && !p.2.spilledRegs then n + p.2.quota else n) (16 * c.record.tracks)

/-- Carries a core as a whole to another, which is empty. -/
def State.carryCore (s : State) (m : List (Nat × Nat)) (shift : Int) (p : Nat × Nat) : State :=
  (s.setCore p.2 { (s.core p.1).movedTo m shift with nextOrdinal := (s.core p.2).nextOrdinal }).setCore p.1
    { Core.initial with nextOrdinal := (s.core p.1).nextOrdinal }

/-- Carries one caravan of a core, which holds nothing that its caravans share, to another core; a context new to that one finds its
tables and tiles at zero (R214, R239). -/
def State.carryAlone (s : State) (m : List (Nat × Nat)) (id : Nat) (p : Nat × Nat) : State :=
  let held := match s.caravan? id with
    | some c => s.heldBy id c
    | none => 0
  let a := s.core p.1
  let k := s.core p.2
  let b : Core := if (s.caravansOn p.2).isEmpty then { k with tables := [], tiles := [], weights := [], regions := [] } else k
  let mine := a.claims.filter fun c => s.claimChosen (some id) c
  let ops := a.copyQueue.filter fun o => o.caravan == id
  (s.setCore p.2 { b with free := b.free - held, claims := b.claims ++ mine, copyQueue := b.copyQueue ++ ops.map fun o => o.movedTo m }).setCore p.1
    { a with free := a.free + held, claims := a.claims.filter fun c => !mine.contains c,
             copyQueue := a.copyQueue.filter fun o => o.caravan != id }

/-- Moves what stands on some cores of a cluster to as many of another: the cores as a whole, to ones that are empty, or one caravan of
a core alone; with it the operations, locks and parties of the caravans in the cluster, the coupling and the requests, and the numbers by
which warps and caravans name them. With both cores goes a hold of the attention engine. No line stays in the L1s of the cluster they come to, whose mode may change
(R224, R225). Power block, sampler and translations are the cluster's own and stay; times
in its cycles are carried over to those of the other. -/
def State.moveCores (s : State) (m : List (Nat × Nat)) (alone : Option Nat) (from_ dest : Nat) : State :=
  let on (core : Nat) : Bool := m.any fun p => p.1 == core
  let a := s.cluster from_
  let b := s.cluster dest
  let shift : Int := (b.power.cycle : Int) - (a.power.cycle : Int)
  let here := s.caravans.filter fun c => match c.2.core with
    | some k => on k && chosen alone c.1
    | none => false
  let moves (o : EngineOp) : Bool := on o.core && chosen alone o.caravan
  let ids := ((s.clusterOps from_).filter moves).map fun o => o.id
  let held (n : Nat) : Bool := here.any fun c => c.1 == n
  let mine := a.parties.filter fun p => held p.2.caravan
  let entry (n : Nat) : Nat := listGet 0 (s.freeParties dest) (mine.takeWhile fun p => p.1 != n).length
  let coupled := match a.coupling with
    | some c => held c
    | none => false
  let both := m.length == 2
  let stays (l : List EngineOp) : List EngineOp := l.filter fun o => !moves o
  let goes (l : List EngineOp) : List EngineOp := (l.filter moves).map fun o => o.movedTo m
  let ctxs := (here.map fun c => c.2.ctx).eraseDups
  let asks (t : Tbl (BitVec 2)) (ctx : Nat) : Tbl (BitVec 2) :=
    if (Tbl.find t ctx).isSome then t else Tbl.put t ctx (Tbl.findD a.requests ctx 2)
  let level (t : Tbl Nat) (ctx : Nat) : Tbl Nat := if (Tbl.find t ctx).isSome then t else Tbl.put t ctx 0
  let left : Cluster :=
    { a with locks := a.locks.filter (fun l => !ids.contains l.owner), parties := a.parties.filter (fun p => !held p.2.caravan),
             selection := stays a.selection, attention := stays a.attention, fabric := stays a.fabric,
             coupling := if coupled then none else a.coupling,
             holdPlaced := a.holdPlaced && !both, holding := a.holding && !both }
  let moved : Cluster :=
    { b with locks := b.locks ++ ((a.locks.filter fun l => ids.contains l.owner).map fun l => { l with space := l.space.movedTo m }),
             parties := mine.foldl (fun t p => Tbl.put t (entry p.1) { p.2 with last := none }) b.parties,
             selection := b.selection ++ goes a.selection, attention := b.attention ++ goes a.attention,
             fabric := b.fabric ++ goes a.fabric, coupling := if coupled then a.coupling else b.coupling,
             holdPlaced := b.holdPlaced || (a.holdPlaced && both), holding := b.holding || (a.holding && both),
             fused := if s.clusterEmpty dest then a.fused else b.fused, requests := ctxs.foldl asks b.requests,
             power := { b.power with levels := ctxs.foldl level b.power.levels } }
  let carry (t : State) (p : Nat × Nat) : State := match alone with
    | none => t.carryCore m shift p
    | some id => t.carryAlone m id p
  let bare (k : Core) : Core := { k with l1 := [] }
  let s1 := ((m.foldl carry ((s.setCluster from_ left).setCluster dest moved)).updCore (2 * dest) bare).updCore (2 * dest + 1) bare
  let warp (w : Warp) : Warp :=
    if on w.core && chosen alone w.caravan then
      { w with core := movedCore m w.core, bornCycle := w.bornCycle + shift, eligibleAt := w.eligibleAt + shift }
    else w
  let caravan (id : Nat) (c : Caravan) : Caravan :=
    match c.core with
    | some k => if on k && chosen alone id then
        { c with core := some (movedCore m k), partyBase := c.partyBase.map entry, lastShared := none,
                 updates := c.updates.map fun u => { u with cycle := u.cycle + shift } } else c
    | none => c
  let s2 : State := { s1 with warps := s1.warps.map fun p => (p.1, warp p.2),
                              caravans := s1.caravans.map fun p => (p.1, caravan p.1 p.2) }
  ctxs.foldl (fun t ctx => t.leaveCluster ctx from_) (m.foldl (fun t p => t.renumber alone p.2) s2)

/-! ### PREEMPT (R357) -/

/-- The contexts of a partition. -/
def State.contextsOf (s : State) (partition : Nat) : List Nat := (s.contexts.filter fun c => c.2.partition == partition).map fun c => c.1

/-- Nothing of a partition waits on a walk or on an open fault entry. -/
def State.walksDone (s : State) (partition : Nat) : Bool :=
  s.dies.all fun d => (d.2.faults.all fun f => s.partitionOf f.ctx != partition)
    && d.2.requests.all fun r => s.partitionOf r.ctx != partition

/-- The engines of a partition have stopped. -/
def State.enginesStopped (s : State) (p : Partition) : Bool :=
  p.clusters.all fun k => (s.clusterOps k).all fun o => o.state == .finished || o.stopped || o.kind == .hold

/-- Frames that what a stop saves of a context takes beyond those of its warps: its caravans in a stage, and its task queues for which
a test holds (R356). -/
def State.framesFor (s : State) (ctx : Nat) (stage : CaravanStage) (tasks : TaskQueue → Bool) : Nat :=
  let n := (s.caravans.filter fun c => c.2.ctx == ctx && c.2.stage == stage).length
    + (s.taskQueues.filter fun q => q.2.ctx == ctx && tasks q.2).length
  if n = 0 then 0 else Config.stopFrames n

/-- Frames that the stop of a context takes beyond those of its warps. -/
def State.stopNeed (s : State) (ctx : Nat) : Nat := s.framesFor ctx .placed fun q => !q.onDie.isEmpty

/-- Every context's save area has room for what the stop saves (R356). -/
def State.framesFree (s : State) (partition : Nat) : Bool :=
  s.contexts.all fun c => c.2.partition != partition
    || decide (c.2.frames.length + c.2.stopFrames.length + s.stopNeed c.1 ≤ c.2.nframes)

/-- No value is on its way to a warp of a partition, or to a handoff file of it (R192). -/
def State.valuesArrived (s : State) (partition : Nat) : Bool :=
  s.warps.all fun w => s.partitionOf w.2.ctx != partition || w.2.loads.isEmpty

/-- The stop of a partition may complete. -/
def State.stopReady (s : State) (partition : Nat) : Bool :=
  s.allStopped partition && s.valuesArrived partition && s.walksDone partition
    && s.enginesStopped (Tbl.findD s.partitions partition Partition.initial) && s.framesFree partition

/-- Some frames of a context hold what a stop saved. -/
def State.takeStopFrames (s : State) (ctx : Nat) : State :=
  match Tbl.find s.contexts ctx with
  | none => s
  | some c =>
    let free := (List.range c.nframes).filter fun k => !c.frames.contains k && !c.stopFrames.contains k
    s.setContext ctx { c with stopFrames := c.stopFrames ++ free.take (s.stopNeed ctx) }

/-- The first number from 288 up that holds nothing saved. -/
def State.freeSaved (s : State) : Nat :=
  let used := s.partitions.flatMap fun p => p.2.saved
  ((List.range (used.length + 1)).find? fun i => !used.contains (288 + i)).getD 0 + 288

/-- Takes what stands on a cluster off it. -/
def State.saveCluster (s : State) (partition cluster : Nat) : State :=
  if s.clusterEmpty cluster then s
  else
    let dest := s.freeSaved
    let s1 := ((s.keepCore (2 * cluster)).keepCore (2 * cluster + 1)).moveCores
      [(2 * cluster, 2 * dest), (2 * cluster + 1, 2 * dest + 1)] none cluster dest
    let save (c : Caravan) : Caravan :=
      match c.core with
      | some k => if clusterOf k = dest then { c with stage := .saved } else c
      | none => c
    let p := Tbl.findD s1.partitions partition Partition.initial
    { s1 with caravans := s1.caravans.map fun c => (c.1, save c.2),
              partitions := Tbl.put s1.partitions partition { p with saved := p.saved ++ [dest] } }

/-- Changes the task queues of a partition. -/
def State.mapTasks (s : State) (partition : Nat) (f : TaskQueue → TaskQueue) : State :=
  { s with taskQueues := s.taskQueues.map fun q => (q.1, if s.partitionOf q.2.ctx = partition then f q.2 else q.2) }

/-- Saves a partition whose warps and engines have stopped, with the tasks that its queues hold on the die. -/
def State.savePartition (s : State) (partition : Nat) : State :=
  let s1 := ((s.contextsOf partition).foldl State.takeStopFrames s).mapTasks partition fun q =>
    { q with saved := q.saved ++ q.onDie, onDie := [] }
  (Tbl.findD s.partitions partition Partition.initial).clusters.foldl (fun acc k => acc.saveCluster partition k) s1

/-- Completes a PREEMPT once everything has stopped and is saved: its detail is the time since the rise in microseconds. -/
def State.endPreempt (s : State) (q : Nat) (p : Packet) : State :=
  let n := p.field 0x10 4
  match (Tbl.findD s.partitions n Partition.initial).halt with
  | none => s.endPacket q p 0 0 0
  | some rise =>
    if s.stopReady n then (s.savePartition n).endPacket q p 0 (min ((s.time - rise) / 1000) (2 ^ 32 - 1)) 0 else s

def preemptPacket (p : Packet) (_ : HostQueue) (s : State) : Begun :=
  let n := p.field 0x10 4
  if 15 < n then .completes s 4 0 0 else .opens (s.raiseHalt n .preempt)

/-- PREEMPT. -/
def execPreempt (queue : Nat) (s : State) : Host.Outcome State Fault Refusal :=
  let s1 := s.served .preempt queue preemptPacket
  .next (((s1.hostQueue queue).unended .preempt).foldl (fun acc p => acc.endPreempt queue p) s1)

/-! ### RESUME (R298, R299, R359) -/

/-- The caravans saved under a number. -/
def State.savedUnder (s : State) (n : Nat) : List (Nat × Caravan) := s.caravansOn (2 * n) ++ s.caravansOn (2 * n + 1)

/-- The cores saved under a number depend on one another: through the pair coupling, an unfinished copy between them, or an attention
request, which has slots on both until its record is returned. -/
def State.joined (s : State) (n : Nat) : Bool :=
  let peer (o : EngineOp) : Bool := match o.kind with
    | .cpy 3 _ _ _ _ => o.state != .finished
    | _ => false
  let marked (k : Nat) : Bool := (s.core k).unsettled.any fun u => match s.warp? u.warp with
    | some w => w.core != k
    | none => false
  (s.cluster n).coupling.isSome || (s.clusterOps n).any peer || !(s.cluster n).attention.isEmpty
    || marked (2 * n) || marked (2 * n + 1)

/-- A saved core holds nothing that its caravans share: no tile, table or region of the weight buffer, no operation of the engines that
work on these, and no watchpoint. -/
def Core.unshared (k : Core) : Bool :=
  k.tiles.all (fun x => x.isEmpty) && k.unsettled.isEmpty && k.weights.isEmpty && k.regions.isEmpty
    && k.tables.all (fun x => x == TableSlot.initial) && k.tableQueue.isEmpty && k.loaderQueue.isEmpty && k.matrixQueue.isEmpty
    && k.watchpoints.all Option.isNone

/-- What is placed together: some cores, and where it is one caravan of theirs alone which. -/
structure SavedGroup where
  cores : List Nat
  alone : Option Nat
  deriving DecidableEq, Repr

/-- The groups that what is saved under a number is placed in. Each caravan is placed by itself (R298, R359), but the caravans of a core
that share tiles, tables or the weight buffer go together, and cores that depend on one another do (DEDUCED from R214 and R239,
assumption log 31). -/
def State.savedGroups (s : State) (n : Nat) : List SavedGroup :=
  if s.joined n then [⟨[2 * n, 2 * n + 1], none⟩]
  else [2 * n, 2 * n + 1].flatMap fun k =>
    if (s.core k).unshared then (s.caravansOn k).map fun c => ⟨[k], some c.1⟩
    else if (s.caravansOn k).isEmpty then [] else [⟨[k], none⟩]

/-- The caravans of a group. -/
def State.caravansIn (s : State) (g : SavedGroup) : List (Nat × Caravan) :=
  (g.cores.flatMap s.caravansOn).filter fun c => chosen g.alone c.1

/-- The move of a group that puts its first core on a given one. -/
def groupMove (cores : List Nat) (dst : Nat) : List (Nat × Nat) := (List.range cores.length).map fun i => (listGet 0 cores i, dst + i)

/-- A core has room for one saved caravan (R298): registers, warps, its caravan table, scratchpad, and no other context. -/
def State.roomFor (s : State) (id : Nat) (c : Caravan) (dst : Nat) : Bool :=
  let here := s.caravansOn dst
  let scratch := here.foldl (fun acc p => acc + p.2.record.scratch) 0
  decide (s.heldBy id c ≤ (s.core dst).free) && decide (here.length < 256)
    && s.warpRoom dst (s.warps.filter fun p => p.2.caravan == id).length && decide (scratch + c.record.scratch ≤ 393216)
    && here.all fun p => p.2.ctx == c.ctx

/-- A core fits a saved group (R298): no claim waits on it, and with both cores on its cluster's other one; it has room for a caravan
placed alone, and holds none where its own part as a whole comes; the group table has entries; the coupling is free; the L1 mode agrees;
each caravan may run on the die, and its context's budgets allow it. R227 gives the table of range locks 64 entries, but R298 names no
condition on it: caravans of different clusters may bring more together (DESIGN CHOICE, assumption log 54). -/
def State.groupFits (s : State) (n : Nat) (g : SavedGroup) (dst : Nat) : Bool :=
  let cl := clusterOf dst
  let caravans := s.caravansIn g
  let free (k : Nat) : Bool := (s.core k).claims.isEmpty && (g.alone.isSome || (s.caravansOn k).isEmpty)
  (groupMove g.cores dst).all (fun p => free p.2) && (g.alone.isNone || caravans.all fun c => s.roomFor c.1 c.2 dst)
    && (g.cores.length == 1 || (dst % 2 == 0 && (s.cluster cl).coupling.isNone && !(s.cluster cl).holding))
    && decide (caravans.foldl (fun acc c => acc + c.2.record.parties) 0 ≤ (s.freeParties cl).length)
    && (s.clusterEmpty cl || (s.cluster cl).fused == (s.cluster n).fused)
    && caravans.all fun c => s.dieAllowed c.2 (clusterDie cl) && s.budgetAllows c.2 (clusterDie cl) dst

/-- Among the fitting cores of a partition, the one with the most free registers; the lowest number breaks a tie. -/
def State.groupCore (s : State) (partition n : Nat) (g : SavedGroup) : Option Nat :=
  ((List.range 4).flatMap (s.coresOf partition)).foldl (fun best k =>
    if s.groupFits n g k then
      match best with
      | none => some k
      | some b =>
        if (s.core b).free < (s.core k).free ∨ ((s.core b).free = (s.core k).free ∧ k < b) then some k else some b
    else best) none

/-- The first collective of a context after restore only sets a time (R385). -/
def State.forgetTimes (s : State) (ctx : Nat) : State :=
  { s with fabric := { s.fabric with tout := s.fabric.tout.filter fun p =>
      match (Tbl.findD s.fabric.convoys (p.convoy / 64) []).find (p.convoy % 64) with
      | some e => e.ctx != ctx
      | none => true } }

/-- Places a saved group where it fits; its warps go on, and its operations from where they stopped. -/
def State.placeGroup (s : State) (partition n : Nat) (g : SavedGroup) : State :=
  match s.groupCore partition n g with
  | none => s
  | some dst =>
    let move := groupMove g.cores dst
    let on (k : Nat) : Bool := move.any fun p => p.2 == k
    let ctxs := ((s.caravansIn g).map fun c => c.2.ctx).eraseDups
    let go (o : EngineOp) : EngineOp := if on o.core && chosen g.alone o.caravan then { o with stopped := false } else o
    let place (id : Nat) (c : Caravan) : Caravan :=
      match c.core with
      | some k => if on k && chosen g.alone id then { c with stage := .placed } else c
      | none => c
    let s1 := (s.moveCores move g.alone n (clusterOf dst)).mapOps go
    let s2 := State.takeUpAll { s1 with caravans := s1.caravans.map fun x => (x.1, place x.1 x.2) }
      (fun w => on w.core && chosen g.alone w.caravan) s1.warps
    move.foldl (fun t p => t.makeClaims p.2) (ctxs.foldl State.forgetTimes s2)

/-- A number under which nothing is saved any more is free. -/
def State.dropEmptySaves (s : State) : State :=
  let gone := (s.partitions.flatMap fun p => p.2.saved).filter fun n => s.clusterEmpty n
  let part (p : Partition) : Partition := { p with saved := p.saved.filter fun n => !gone.contains n }
  { s with partitions := s.partitions.map (fun p => (p.1, part p.2)),
           clusters := gone.foldl Tbl.erase s.clusters,
           cores := gone.foldl (fun t n => Tbl.erase (Tbl.erase t (2 * n)) (2 * n + 1)) s.cores }

/-- Places what is saved under a number. -/
def State.placeSaved (s : State) (partition n : Nat) : State :=
  ((s.savedGroups n).foldl (fun t g => t.placeGroup partition n g) s).dropEmptySaves

/-- The frames of a stop are free again. -/
def State.freeStopFrames (s : State) (partition : Nat) : State :=
  let free (c : Context) : Context := if c.partition = partition then { c with stopFrames := [] } else c
  { s with contexts := s.contexts.map fun c => (c.1, free c.2) }

/-- Goes on with a RESUME while the line is low: it completes once every saved caravan has been placed. From alarm level 2 on the RESUME of
a secure partition completes with status 5 (R364). -/
def State.goOnResume (s : State) (q : Nat) (p : Packet) : State :=
  let n := p.field 0x10 4
  let part := Tbl.findD s.partitions n Partition.initial
  if part.secure && decide (2 ≤ s.security.alarm) then s.endPacket q p 5 0 0
  else if part.halt.isSome then s
  else
    let s1 := part.saved.foldl (fun acc k => acc.placeSaved n k)
      (s.mapTasks n fun q => { q with onDie := q.saved ++ q.onDie, saved := [] })
    if (Tbl.findD s1.partitions n Partition.initial).saved = [] then (s1.freeStopFrames n).endPacket q p 0 0 0 else s1

/-- Every holder lets the line of a partition go. -/
def State.dropHalt (s : State) (partition : Nat) : State :=
  (Tbl.findD s.partitions partition Partition.initial).holders.foldl (fun acc h => acc.lowerHalt partition h) s

def resumePacket (p : Packet) (_ : HostQueue) (s : State) : Begun :=
  let n := p.field 0x10 4
  if 15 < n then .completes s 4 0 0
  else if (Tbl.findD s.partitions n Partition.initial).secure && decide (2 ≤ s.security.alarm) then .completes s 5 0 0
  else if s.preempting n then .waits s
  else .opens (s.dropHalt n)

/-- RESUME. -/
def execResume (queue : Nat) (s : State) : Host.Outcome State Fault Refusal :=
  let s1 := s.served .resume queue resumePacket
  .next (((s1.hostQueue queue).unended .resume).foldl (fun acc p => acc.goOnResume queue p) s1)

/-! ### ABORT (R360) -/

/-- The launch that a LAUNCH packet of a queue began. -/
def State.launchAt (s : State) (q index : Nat) : Option (Nat × LaunchState) :=
  s.launches.find? fun l => l.2.queue == q && l.2.packet == index

/-- The caravans of a launch. -/
def State.launchedBy (s : State) (launch : Nat) : List (Nat × Caravan) := s.caravans.filter fun c => c.2.launch == launch

/-- A queue without a launch's tasks. -/
def TaskQueue.without (q : TaskQueue) (launch : Nat) : TaskQueue :=
  let order := (q.saved ++ q.onDie).map (fun t => t.launch) ++ q.ringTasks.map fun t => t.2.1
  { q with saved := q.saved.filter (fun t => t.launch != launch), onDie := q.onDie.filter (fun t => t.launch != launch),
           ringTasks := q.ringTasks.filter (fun t => t.2.1 != launch),
           flush := ((order.take q.flush).filter fun l => l != launch).length }

/-- Drops a launch's tasks from every task queue. -/
def State.dropTasks (s : State) (launch : Nat) : State :=
  s.taskQueues.foldl (fun t q => ((t.setTaskQueue q.1 (q.2.without launch)).refill q.1 256).1) s

/-- No hold of the attention engine stands in a matrix queue of a cluster any more: the arrays are free (R284). -/
def State.freeArrays (s : State) (cluster : Nat) : State :=
  let holds (k : Nat) : Bool := (s.queueOf (.matrix k)).any fun o => o.kind == .hold
  if holds (2 * cluster) || holds (2 * cluster + 1) then s
  else s.updCluster cluster fun k => { k with holdPlaced := false, holding := false }

/-- Takes out the operations of a warp that some test names, with their locks and with the hold of a request among them. -/
def State.dropOps (s : State) (id : Nat) (w : Warp) (named : EngineOp → Bool) : State :=
  let k := clusterOf w.core
  let ids := ((s.clusterOps k).filter fun o => o.warp == id && named o).map fun o => o.id
  let keep (l : List EngineOp) : List EngineOp := l.filter fun o => !ids.contains o.id
  let core (c : Core) : Core :=
    { c with copyQueue := keep c.copyQueue, tableQueue := keep c.tableQueue, loaderQueue := keep c.loaderQueue,
             matrixQueue := keep c.matrixQueue, unsettled := c.unsettled.filter fun u => !ids.contains u.op }
  State.freeArrays (((s.updCore (2 * k) core).updCore (2 * k + 1) core).updCluster k fun c =>
    { c with selection := keep c.selection, attention := keep c.attention, fabric := keep c.fabric,
             locks := c.locks.filter fun l => !ids.contains l.owner }) k

/-- The peers an operation of the fabric engine deals with: that of an `fput` or `fget`, and those next to this member in the tree of a
collective's convoy. -/
def State.peersOf (s : State) (o : EngineOp) : List Nat :=
  match o.kind with
  | .fput _ _ _ peer _ => [peer]
  | .fget _ _ _ peer _ => [peer]
  | .fcoll r =>
    match Tbl.find (Tbl.findD s.fabric.convoys (s.partitionOf o.ctx) []) r.convoy with
    | some e => e.children ++ (if e.member = 0 then [] else [e.parent])
    | none => []
  | _ => []

/-- Transport operations of a warp that wait on a peer that is down end with the abort (R373). -/
def State.dropWaiting (s : State) (id : Nat) (w : Warp) : State :=
  let down (o : EngineOp) : Bool :=
    o.state != .finished && (s.peersOf o).any fun k => s.fabric.down.contains (s.partitionOf o.ctx, k)
  let gone := ((s.clusterOps (clusterOf w.core)).filter fun o => o.warp == id && down o)
  (s.dropOps id w down).updWarp id fun x =>
    { x with inFlight := x.inFlight - gone.length, puts := x.puts - (gone.filter fun o => o.kind.isPut).length }

/-- Terminates a resident warp of an aborted launch, with cause 0xFF; halt-on-fault does not apply. -/
def State.abortWarp (s : State) (id : Nat) : State :=
  match s.warp? id with
  | none => s
  | some w =>
    let own (c : Claim) : Bool := match c.kind with
      | .grow x _ => x == id
      | .restore x => x == id
      | .launch _ _ => false
    let s1 := s.updCore w.core fun k => { k with claims := k.claims.filter fun c => !own c }
    let s2 := match w.phase with
      | .retiring _ => s1
      | .terminating _ => s1
      | _ => s1.setWarp id { w with phase := .terminating ⟨0xFF, false, false, false⟩, active := false }
    s2.dropWaiting id w

/-- Discards a saved warp with its frame, its registers and its operations. -/
def State.discardWarp (s : State) (id : Nat) : State :=
  match s.warp? id with
  | none => s
  | some w =>
    let settled (k : Core) : Core := { k with unsettled := k.unsettled.filter fun u => u.warp != id }
    let s1 := (((s.dropOps id w fun _ => true).updCore w.core settled).updCore (otherCore w.core) settled).updCore w.core fun k =>
      { k with free := k.free + if w.spilledRegs then 0 else w.quota }
    State.returnFrame { s1 with warps := Tbl.erase s1.warps id } w

/-- Drops the launch claims of a caravan. -/
def State.dropLaunches (s : State) (id : Nat) (c : Caravan) : State :=
  let other (y : Claim) : Bool := match y.kind with
    | .launch z _ => z != id
    | _ => true
  match c.core with
  | some k => s.updCore k fun x => { x with claims := x.claims.filter other }
  | none => s

/-- Removes a caravan that will not complete. -/
def State.removeCaravan (s : State) (id : Nat) (c : Caravan) : State :=
  let s2 := (s.releaseCaravan id c).dropLaunches id c
  let s3 := { s2 with caravans := Tbl.erase s2.caravans id,
                      dies := s2.dies.map fun d => (d.1, { d.2 with waiting := d.2.waiting.filter fun x => x != id }) }
  match c.core with
  | some k => s3.leaveCluster c.ctx (clusterOf k)
  | none => s3

/-- The warps of a caravan. -/
def State.warpsOf (s : State) (caravan : Nat) : List Nat := (s.warps.filter fun w => w.2.caravan == caravan).map fun w => w.1

/-- What an abort does to a caravan: one of the pool, or not yet placed, is removed; the warps of a placed one are terminated and
no further pass launches; a saved one is discarded. -/
def State.abortCaravan (s : State) (id : Nat) (c : Caravan) : State :=
  match c.stage with
  | .pool => s.removeCaravan id c
  | .die _ => s.removeCaravan id c
  | .placed =>
    ((s.warpsOf id).foldl State.abortWarp (s.dropLaunches id c)).updCaravan id fun x => { x with claimed := x.passes }
  | .saved => ((s.warpsOf id).foldl State.discardWarp s).removeCaravan id c

/-- Stop frames that hold nothing any more are free (R360). -/
def State.trimFrames (s : State) : State :=
  let trim (k : Nat) (c : Context) : Context :=
    { c with stopFrames := c.stopFrames.take (s.framesFor k .saved fun q => !q.saved.isEmpty) }
  { s with contexts := s.contexts.map fun c => (c.1, trim c.1 c.2) }

/-- Begins the abort of a launch. -/
def State.abortLaunch (s : State) (launch : Nat) (l : LaunchState) : State :=
  let s1 := State.dropTasks { s with launches := Tbl.put s.launches launch { l with aborted := true } } launch
  ((s1.launchedBy launch).foldl (fun acc c => acc.abortCaravan c.1 c.2) s1).dropEmptySaves.trimFrames

/-- A launch that is being aborted has no warp left. -/
def State.warpsGone (s : State) (launch : Nat) : Bool :=
  (s.launchedBy launch).all fun c => (s.warpsOf c.1).isEmpty

/-- Completes an ABORT once every warp of the launch has retired or been terminated: what is left of its caravans goes, and both
packets receive status 3. -/
def State.endAbort (s : State) (q : Nat) (p : Packet) : State :=
  match s.launchAt q (p.field 0x10 8) with
  | none => s.endPacket q p 3 0 0
  | some (launch, l) =>
    if s.warpsGone launch then
      let s1 := (s.launchedBy launch).foldl (fun acc c => acc.removeCaravan c.1 c.2) s
      (s1.endLaunch launch l 3 0).endPacket q p 3 0 0
    else s

def abortPacket (q : Nat) (p : Packet) (_ : HostQueue) (s : State) : Begun :=
  match s.launchAt q (p.field 0x10 8) with
  | none => .completes s 0 0 0
  | some (launch, l) => .opens (s.abortLaunch launch l)

/-- ABORT. -/
def execAbort (queue : Nat) (s : State) : Host.Outcome State Fault Refusal :=
  let s1 := s.served .abort queue (abortPacket queue)
  .next (((s1.hostQueue queue).unended .abort).foldl (fun acc p => acc.endAbort queue p) s1)

end Sys2Proof.Machine
end

