-- ==== Sys2Proof/Machine/Dispatch.lean ====
section
/-! DEFINITION. The meaning of each row of the table: one arm per constructor. -/

namespace Sys2Proof.Machine

def exec (i : Instr) (s : State) : Host.Outcome State Fault Refusal :=
  match i with
  | .addReg sd sa sb => Sys2Proof.Machine.execAddReg sd sa sb s
  | .addImm sd sa imm => Sys2Proof.Machine.execAddImm sd sa imm s
  | .subReg sd sa sb => Sys2Proof.Machine.execSubReg sd sa sb s
  | .subImm sd sa imm => Sys2Proof.Machine.execSubImm sd sa imm s
  | .mulReg sd sa sb => Sys2Proof.Machine.execMulReg sd sa sb s
  | .mulImm sd sa imm => Sys2Proof.Machine.execMulImm sd sa imm s
  | .mulhsReg sd sa sb => Sys2Proof.Machine.execMulhsReg sd sa sb s
  | .mulhsImm sd sa imm => Sys2Proof.Machine.execMulhsImm sd sa imm s
  | .mulhuReg sd sa sb => Sys2Proof.Machine.execMulhuReg sd sa sb s
  | .mulhuImm sd sa imm => Sys2Proof.Machine.execMulhuImm sd sa imm s
  | .divsReg sd sa sb => Sys2Proof.Machine.execDivsReg sd sa sb s
  | .divsImm sd sa imm => Sys2Proof.Machine.execDivsImm sd sa imm s
  | .divuReg sd sa sb => Sys2Proof.Machine.execDivuReg sd sa sb s
  | .divuImm sd sa imm => Sys2Proof.Machine.execDivuImm sd sa imm s
  | .remsReg sd sa sb => Sys2Proof.Machine.execRemsReg sd sa sb s
  | .remsImm sd sa imm => Sys2Proof.Machine.execRemsImm sd sa imm s
  | .remuReg sd sa sb => Sys2Proof.Machine.execRemuReg sd sa sb s
  | .remuImm sd sa imm => Sys2Proof.Machine.execRemuImm sd sa imm s
  | .andReg sd sa sb => Sys2Proof.Machine.execAndReg sd sa sb s
  | .andImm sd sa imm => Sys2Proof.Machine.execAndImm sd sa imm s
  | .orReg sd sa sb => Sys2Proof.Machine.execOrReg sd sa sb s
  | .orImm sd sa imm => Sys2Proof.Machine.execOrImm sd sa imm s
  | .xorReg sd sa sb => Sys2Proof.Machine.execXorReg sd sa sb s
  | .xorImm sd sa imm => Sys2Proof.Machine.execXorImm sd sa imm s
  | .andnReg sd sa sb => Sys2Proof.Machine.execAndnReg sd sa sb s
  | .andnImm sd sa imm => Sys2Proof.Machine.execAndnImm sd sa imm s
  | .shlReg sd sa sb => Sys2Proof.Machine.execShlReg sd sa sb s
  | .shlImm sd sa imm => Sys2Proof.Machine.execShlImm sd sa imm s
  | .shrReg sd sa sb => Sys2Proof.Machine.execShrReg sd sa sb s
  | .shrImm sd sa imm => Sys2Proof.Machine.execShrImm sd sa imm s
  | .sarReg sd sa sb => Sys2Proof.Machine.execSarReg sd sa sb s
  | .sarImm sd sa imm => Sys2Proof.Machine.execSarImm sd sa imm s
  | .rolReg sd sa sb => Sys2Proof.Machine.execRolReg sd sa sb s
  | .rolImm sd sa imm => Sys2Proof.Machine.execRolImm sd sa imm s
  | .minReg sd sa sb => Sys2Proof.Machine.execMinReg sd sa sb s
  | .minImm sd sa imm => Sys2Proof.Machine.execMinImm sd sa imm s
  | .maxReg sd sa sb => Sys2Proof.Machine.execMaxReg sd sa sb s
  | .maxImm sd sa imm => Sys2Proof.Machine.execMaxImm sd sa imm s
  | .minuReg sd sa sb => Sys2Proof.Machine.execMinuReg sd sa sb s
  | .minuImm sd sa imm => Sys2Proof.Machine.execMinuImm sd sa imm s
  | .maxuReg sd sa sb => Sys2Proof.Machine.execMaxuReg sd sa sb s
  | .maxuImm sd sa imm => Sys2Proof.Machine.execMaxuImm sd sa imm s
  | .sltReg sd sa sb => Sys2Proof.Machine.execSltReg sd sa sb s
  | .sltImm sd sa imm => Sys2Proof.Machine.execSltImm sd sa imm s
  | .sltuReg sd sa sb => Sys2Proof.Machine.execSltuReg sd sa sb s
  | .sltuImm sd sa imm => Sys2Proof.Machine.execSltuImm sd sa imm s
  | .seqReg sd sa sb => Sys2Proof.Machine.execSeqReg sd sa sb s
  | .seqImm sd sa imm => Sys2Proof.Machine.execSeqImm sd sa imm s
  | .sneReg sd sa sb => Sys2Proof.Machine.execSneReg sd sa sb s
  | .sneImm sd sa imm => Sys2Proof.Machine.execSneImm sd sa imm s
  | .clz sd sa => Sys2Proof.Machine.execClz sd sa s
  | .popc sd sa => Sys2Proof.Machine.execPopc sd sa s
  | .brev sd sa => Sys2Proof.Machine.execBrev sd sa s
  | .addpReg sd sa sb => Sys2Proof.Machine.execAddpReg sd sa sb s
  | .addpImm sd sa imm => Sys2Proof.Machine.execAddpImm sd sa imm s
  | .rdsr sd index => Sys2Proof.Machine.execRdsr sd index s
  | .wrsr sa index => Sys2Proof.Machine.execWrsr sa index s
  | .bra off => Sys2Proof.Machine.execBra off s
  | .bz sa off => Sys2Proof.Machine.execBz sa off s
  | .bnz sa off => Sys2Proof.Machine.execBnz sa off s
  | .call off => Sys2Proof.Machine.execCall off s
  | .ret => Sys2Proof.Machine.execRet s
  | .jmpr sa => Sys2Proof.Machine.execJmpr sa s
  | .rcv => Sys2Proof.Machine.execRcv s
  | .exit => Sys2Proof.Machine.execExit s
  | .bar slot => Sys2Proof.Machine.execBar slot s
  | .barArrive slot => Sys2Proof.Machine.execBarArrive slot s
  | .barWait slot => Sys2Proof.Machine.execBarWait slot s
  | .waitm sa => Sys2Proof.Machine.execWaitm sa s
  | .trap code => Sys2Proof.Machine.execTrap code s
  | .tret => Sys2Proof.Machine.execTret s
  | .tmsk mask => Sys2Proof.Machine.execTmsk mask s
  | .settmr sa => Sys2Proof.Machine.execSettmr sa s
  | .perf level => Sys2Proof.Machine.execPerf level s
  | .brk code => Sys2Proof.Machine.execBrk code s
  | .fenceRel scope => Sys2Proof.Machine.execFenceRel scope s
  | .fenceAcq scope => Sys2Proof.Machine.execFenceAcq scope s
  | .fenceFull scope => Sys2Proof.Machine.execFenceFull scope s
  | .fencePath scope paths => Sys2Proof.Machine.execFencePath scope paths s
  | .mwait sa => Sys2Proof.Machine.execMwait sa s
  | .mfence sd => Sys2Proof.Machine.execMfence sd s
  | .evpop sd => Sys2Proof.Machine.execEvpop sd s
  | .evwait sd => Sys2Proof.Machine.execEvwait sd s
  | .vgrow count => Sys2Proof.Machine.execVgrow count s
  | .vshrk count => Sys2Proof.Machine.execVshrk count s
  | .crd sd index => Sys2Proof.Machine.execCrd sd index s
  | .cwr sa index => Sys2Proof.Machine.execCwr sa index s
  | .cadd sd sa index => Sys2Proof.Machine.execCadd sd sa index s
  | .ccas sd sa index => Sys2Proof.Machine.execCcas sd sa index s
  | .yield => Sys2Proof.Machine.execYield s
  | .clk sd => Sys2Proof.Machine.execClk sd s
  | .hrel track => Sys2Proof.Machine.execHrel track s
  | .sli sd imm => Sys2Proof.Machine.execSli sd imm s
  | .vaddInteger f => Sys2Proof.Machine.execVaddInteger f s
  | .vsubInteger f => Sys2Proof.Machine.execVsubInteger f s
  | .vmulInteger f => Sys2Proof.Machine.execVmulInteger f s
  | .vmulh f => Sys2Proof.Machine.execVmulh f s
  | .vmad f => Sys2Proof.Machine.execVmad f s
  | .vminInteger f => Sys2Proof.Machine.execVminInteger f s
  | .vmaxInteger f => Sys2Proof.Machine.execVmaxInteger f s
  | .vabsInteger f => Sys2Proof.Machine.execVabsInteger f s
  | .vnegInteger f => Sys2Proof.Machine.execVnegInteger f s
  | .vadds f => Sys2Proof.Machine.execVadds f s
  | .vsubs f => Sys2Proof.Machine.execVsubs f s
  | .vand f => Sys2Proof.Machine.execVand f s
  | .vor f => Sys2Proof.Machine.execVor f s
  | .vxor f => Sys2Proof.Machine.execVxor f s
  | .vandn f => Sys2Proof.Machine.execVandn f s
  | .vnot f => Sys2Proof.Machine.execVnot f s
  | .vshl f => Sys2Proof.Machine.execVshl f s
  | .vshr f => Sys2Proof.Machine.execVshr f s
  | .vsar f => Sys2Proof.Machine.execVsar f s
  | .vrol f => Sys2Proof.Machine.execVrol f s
  | .vclz f => Sys2Proof.Machine.execVclz f s
  | .vpopc f => Sys2Proof.Machine.execVpopc f s
  | .vbrev f => Sys2Proof.Machine.execVbrev f s
  | .vbfe f => Sys2Proof.Machine.execVbfe f s
  | .vaddFloat f => Sys2Proof.Machine.execVaddFloat f s
  | .vsubFloat f => Sys2Proof.Machine.execVsubFloat f s
  | .vmulFloat f => Sys2Proof.Machine.execVmulFloat f s
  | .vfma f => Sys2Proof.Machine.execVfma f s
  | .vfms f => Sys2Proof.Machine.execVfms f s
  | .vminFloat f => Sys2Proof.Machine.execVminFloat f s
  | .vmaxFloat f => Sys2Proof.Machine.execVmaxFloat f s
  | .vabsFloat f => Sys2Proof.Machine.execVabsFloat f s
  | .vnegFloat f => Sys2Proof.Machine.execVnegFloat f s
  | .vrnd f => Sys2Proof.Machine.execVrnd f s
  | .vceq f => Sys2Proof.Machine.execVceq f s
  | .vcne f => Sys2Proof.Machine.execVcne f s
  | .vclt f => Sys2Proof.Machine.execVclt f s
  | .vcle f => Sys2Proof.Machine.execVcle f s
  | .vcgt f => Sys2Proof.Machine.execVcgt f s
  | .vcge f => Sys2Proof.Machine.execVcge f s
  | .vcord f => Sys2Proof.Machine.execVcord f s
  | .vcuno f => Sys2Proof.Machine.execVcuno f s
  | .vcvt fn f => Sys2Proof.Machine.execVcvt fn f s
  | .vqblkE4 f => Sys2Proof.Machine.execVqblkE4 f s
  | .vqblkE5 f => Sys2Proof.Machine.execVqblkE5 f s
  | .vqblkF4 f => Sys2Proof.Machine.execVqblkF4 f s
  | .vqblkLg f => Sys2Proof.Machine.execVqblkLg f s
  | .vdqblkE4 f => Sys2Proof.Machine.execVdqblkE4 f s
  | .vdqblkE5 f => Sys2Proof.Machine.execVdqblkE5 f s
  | .vdqblkF4 f => Sys2Proof.Machine.execVdqblkF4 f s
  | .vdqblkLg f => Sys2Proof.Machine.execVdqblkLg f s
  | .vexp2 f => Sys2Proof.Machine.execVexp2 f s
  | .vlog2 f => Sys2Proof.Machine.execVlog2 f s
  | .vrcp f => Sys2Proof.Machine.execVrcp f s
  | .vrsqrt f => Sys2Proof.Machine.execVrsqrt f s
  | .vsqrt f => Sys2Proof.Machine.execVsqrt f s
  | .vsin f => Sys2Proof.Machine.execVsin f s
  | .vcos f => Sys2Proof.Machine.execVcos f s
  | .vtanh f => Sys2Proof.Machine.execVtanh f s
  | .vtbl slot f => Sys2Proof.Machine.execVtbl slot f s
  | .vmov f => Sys2Proof.Machine.execVmov f s
  | .vsel f => Sys2Proof.Machine.execVsel f s
  | .vbcast f => Sys2Proof.Machine.execVbcast f s
  | .vrdl f => Sys2Proof.Machine.execVrdl f s
  | .vwrl f => Sys2Proof.Machine.execVwrl f s
  | .viota f => Sys2Proof.Machine.execViota f s
  | .vradd f => Sys2Proof.Machine.execVradd f s
  | .vrmin f => Sys2Proof.Machine.execVrmin f s
  | .vrmax f => Sys2Proof.Machine.execVrmax f s
  | .vrand f => Sys2Proof.Machine.execVrand f s
  | .vror f => Sys2Proof.Machine.execVror f s
  | .vrxor f => Sys2Proof.Machine.execVrxor f s
  | .vrfadd f => Sys2Proof.Machine.execVrfadd f s
  | .vrfmax f => Sys2Proof.Machine.execVrfmax f s
  | .vrfmin f => Sys2Proof.Machine.execVrfmin f s
  | .vscanAdd f => Sys2Proof.Machine.execVscanAdd f s
  | .vscanxAdd f => Sys2Proof.Machine.execVscanxAdd f s
  | .vscanXor f => Sys2Proof.Machine.execVscanXor f s
  | .vscanxXor f => Sys2Proof.Machine.execVscanxXor f s
  | .vscanMax f => Sys2Proof.Machine.execVscanMax f s
  | .vscanFadd f => Sys2Proof.Machine.execVscanFadd f s
  | .vclmul f => Sys2Proof.Machine.execVclmul f s
  | .vclmulh f => Sys2Proof.Machine.execVclmulh f s
  | .vpxor f => Sys2Proof.Machine.execVpxor f s
  | .pand f => Sys2Proof.Machine.execPand f s
  | .por f => Sys2Proof.Machine.execPor f s
  | .pxor f => Sys2Proof.Machine.execPxor f s
  | .pnot f => Sys2Proof.Machine.execPnot f s
  | .pfroms f => Sys2Proof.Machine.execPfroms f s
  | .ptos f => Sys2Proof.Machine.execPtos f s
  | .pcnt f => Sys2Proof.Machine.execPcnt f s
  | .pfirst f => Sys2Proof.Machine.execPfirst f s
  | .vbr pred neg target reconv => Sys2Proof.Machine.execVbr pred neg target reconv s
  | .vlgmul f => Sys2Proof.Machine.execVlgmul f s
  | .vlgadd f => Sys2Proof.Machine.execVlgadd f s
  | .vperf f => Sys2Proof.Machine.execVperf f s
  | .ld f => Sys2Proof.Machine.execLd f s
  | .st f => Sys2Proof.Machine.execSt f s
  | .lds f => Sys2Proof.Machine.execLds f s
  | .sts f => Sys2Proof.Machine.execSts f s
  | .atomAdd f => Sys2Proof.Machine.execAtomAdd f s
  | .atomSub f => Sys2Proof.Machine.execAtomSub f s
  | .atomMin f => Sys2Proof.Machine.execAtomMin f s
  | .atomMax f => Sys2Proof.Machine.execAtomMax f s
  | .atomMinu f => Sys2Proof.Machine.execAtomMinu f s
  | .atomMaxu f => Sys2Proof.Machine.execAtomMaxu f s
  | .atomAnd f => Sys2Proof.Machine.execAtomAnd f s
  | .atomOr f => Sys2Proof.Machine.execAtomOr f s
  | .atomXor f => Sys2Proof.Machine.execAtomXor f s
  | .atomXchg f => Sys2Proof.Machine.execAtomXchg f s
  | .atomCas f => Sys2Proof.Machine.execAtomCas f s
  | .atomFaddF32 f => Sys2Proof.Machine.execAtomFaddF32 f s
  | .atomFmaxF32 f => Sys2Proof.Machine.execAtomFmaxF32 f s
  | .atomsAdd f => Sys2Proof.Machine.execAtomsAdd f s
  | .atomsSub f => Sys2Proof.Machine.execAtomsSub f s
  | .atomsMin f => Sys2Proof.Machine.execAtomsMin f s
  | .atomsMax f => Sys2Proof.Machine.execAtomsMax f s
  | .atomsMinu f => Sys2Proof.Machine.execAtomsMinu f s
  | .atomsMaxu f => Sys2Proof.Machine.execAtomsMaxu f s
  | .atomsAnd f => Sys2Proof.Machine.execAtomsAnd f s
  | .atomsOr f => Sys2Proof.Machine.execAtomsOr f s
  | .atomsXor f => Sys2Proof.Machine.execAtomsXor f s
  | .atomsXchg f => Sys2Proof.Machine.execAtomsXchg f s
  | .atomsCas f => Sys2Proof.Machine.execAtomsCas f s
  | .atomsFaddF32 f => Sys2Proof.Machine.execAtomsFaddF32 f s
  | .atomsFmaxF32 f => Sys2Proof.Machine.execAtomsFmaxF32 f s
  | .mon f => Sys2Proof.Machine.execMon f s
  | .pref f => Sys2Proof.Machine.execPref f s
  | .cpyMs f => Sys2Proof.Machine.execCpyMs f s
  | .cpySm f => Sys2Proof.Machine.execCpySm f s
  | .cpyMm f => Sys2Proof.Machine.execCpyMm f s
  | .cpyPp f => Sys2Proof.Machine.execCpyPp f s
  | .gath f => Sys2Proof.Machine.execGath f s
  | .scat f => Sys2Proof.Machine.execScat f s
  | .prom f => Sys2Proof.Machine.execProm f s
  | .dmot f => Sys2Proof.Machine.execDmot f s
  | .wbld f => Sys2Proof.Machine.execWbld f s
  | .mma f => Sys2Proof.Machine.execMma f s
  | .mmas f => Sys2Proof.Machine.execMmas f s
  | .acld space f => Sys2Proof.Machine.execAcld space f s
  | .acst space f => Sys2Proof.Machine.execAcst space f s
  | .acrd f => Sys2Proof.Machine.execAcrd f s
  | .acwr f => Sys2Proof.Machine.execAcwr f s
  | .acopZero f => Sys2Proof.Machine.execAcopZero f s
  | .acopMulrow f => Sys2Proof.Machine.execAcopMulrow f s
  | .acopAddrow f => Sys2Proof.Machine.execAcopAddrow f s
  | .acopFold f => Sys2Proof.Machine.execAcopFold f s
  | .acopMaxrow f => Sys2Proof.Machine.execAcopMaxrow f s
  | .tblld slot f => Sys2Proof.Machine.execTblld slot f s
  | .tblsw slot f => Sys2Proof.Machine.execTblsw slot f s
  | .kapp f => Sys2Proof.Machine.execKapp f s
  | .ksel f => Sys2Proof.Machine.execKsel f s
  | .katt f => Sys2Proof.Machine.execKatt f s
  | .ksum f => Sys2Proof.Machine.execKsum f s
  | .spawn f => Sys2Proof.Machine.execSpawn f s
  | .join f => Sys2Proof.Machine.execJoin f s
  | .qpush f => Sys2Proof.Machine.execQpush f s
  | .qpop f => Sys2Proof.Machine.execQpop f s
  | .fput f => Sys2Proof.Machine.execFput f s
  | .fget f => Sys2Proof.Machine.execFget f s
  | .fcollAllreduce f => Sys2Proof.Machine.execFcollAllreduce f s
  | .fcollReduce f => Sys2Proof.Machine.execFcollReduce f s
  | .fcollBcast f => Sys2Proof.Machine.execFcollBcast f s
  | .fcollMcast f => Sys2Proof.Machine.execFcollMcast f s
  | .fcollAllgather f => Sys2Proof.Machine.execFcollAllgather f s
  | .dbgSetbrk f => Sys2Proof.Machine.execDbgSetbrk f s
  | .dbgClrbrk f => Sys2Proof.Machine.execDbgClrbrk f s
  | .dbgHalt f => Sys2Proof.Machine.execDbgHalt f s
  | .dbgResume f => Sys2Proof.Machine.execDbgResume f s
  | .dbgStep f => Sys2Proof.Machine.execDbgStep f s
  | .dbgWatch f => Sys2Proof.Machine.execDbgWatch f s
  | .dbgUnwatch f => Sys2Proof.Machine.execDbgUnwatch f s
  | .dbgRdreg f => Sys2Proof.Machine.execDbgRdreg f s
  | .dbgWrreg f => Sys2Proof.Machine.execDbgWrreg f s
  | .trcOn f => Sys2Proof.Machine.execTrcOn f s
  | .trcOff f => Sys2Proof.Machine.execTrcOff f s
  | .trcAnchor f => Sys2Proof.Machine.execTrcAnchor f s
  | .trcMark f => Sys2Proof.Machine.execTrcMark f s
  | .sampCfg f => Sys2Proof.Machine.execSampCfg f s
  | .sampStart f => Sys2Proof.Machine.execSampStart f s
  | .sampStop f => Sys2Proof.Machine.execSampStop f s
  | .sysTlbinv f => Sys2Proof.Machine.execSysTlbinv f s
  | .sysFeat f => Sys2Proof.Machine.execSysFeat f s
  | .runFetch w => Sys2Proof.Machine.execRunFetch w s
  | .runIssue core sched cycles => Sys2Proof.Machine.execRunIssue core sched cycles s
  | .terminateComplete w => Sys2Proof.Machine.execTerminateComplete w s
  | .retireComplete w => Sys2Proof.Machine.execRetireComplete w s
  | .timer w => Sys2Proof.Machine.execTimer w s
  | .warpStop w => Sys2Proof.Machine.execWarpStop w s
  | .haltDeferTimeout w => Sys2Proof.Machine.execHaltDeferTimeout w s
  | .claimServe core => Sys2Proof.Machine.execClaimServe core s
  | .quotaArbiter core => Sys2Proof.Machine.execQuotaArbiter core s
  | .relayCopy caravan pass track => Sys2Proof.Machine.execRelayCopy caravan pass track s
  | .caravanComplete caravan => Sys2Proof.Machine.execCaravanComplete caravan s
  | .sharedRegisterVisible caravan index => Sys2Proof.Machine.execSharedRegisterVisible caravan index s
  | .loadReturn w load count => Sys2Proof.Machine.execLoadReturn w load count s
  | .storeArrival w store => Sys2Proof.Machine.execStoreArrival w store s
  | .storeAck w store => Sys2Proof.Machine.execStoreAck w store s
  | .matrixQueueStart core => Sys2Proof.Machine.execMatrixQueueStart core s
  | .matrixOpComplete core => Sys2Proof.Machine.execMatrixOpComplete core s
  | .mwaitReturn w => Sys2Proof.Machine.execMwaitReturn w s
  | .evwaitReturn w => Sys2Proof.Machine.execEvwaitReturn w s
  | .waitmWake w => Sys2Proof.Machine.execWaitmWake w s
  | .waitmTimeout w => Sys2Proof.Machine.execWaitmTimeout w s
  | .barRelease w => Sys2Proof.Machine.execBarRelease w s
  | .joinReturn w => Sys2Proof.Machine.execJoinReturn w s
  | .weightLoaderRun core count => Sys2Proof.Machine.execWeightLoaderRun core count s
  | .copyEngineRun core count => Sys2Proof.Machine.execCopyEngineRun core count s
  | .completionRecordQueue unit place => Sys2Proof.Machine.execCompletionRecordQueue unit place s
  | .tableCopyWrite core => Sys2Proof.Machine.execTableCopyWrite core s
  | .selectionUnitRun cluster => Sys2Proof.Machine.execSelectionUnitRun cluster s
  | .attentionEngineRun cluster => Sys2Proof.Machine.execAttentionEngineRun cluster s
  | .hold cluster => Sys2Proof.Machine.execHold cluster s
  | .chainPrefetch cluster ahead => Sys2Proof.Machine.execChainPrefetch cluster ahead s
  | .pageMove unit => Sys2Proof.Machine.execPageMove unit s
  | .rateUpdate cluster => Sys2Proof.Machine.execRateUpdate cluster s
  | .railSwitch cluster rail => Sys2Proof.Machine.execRailSwitch cluster rail s
  | .tableWalk core ctx va => Sys2Proof.Machine.execTableWalk core ctx va s
  | .placement die place => Sys2Proof.Machine.execPlacement die place s
  | .tokenRefill die ctx => Sys2Proof.Machine.execTokenRefill die ctx s
  | .mailboxPost ctx => Sys2Proof.Machine.execMailboxPost ctx s
  | .sampleRow cluster timed => Sys2Proof.Machine.execSampleRow cluster timed s
  | .taggedRecord cluster level cycles => Sys2Proof.Machine.execTaggedRecord cluster level cycles s
  | .doorbell ctx message => Sys2Proof.Machine.execDoorbell ctx message s
  | .nop queue => Sys2Proof.Machine.execNop queue s
  | .launch queue => Sys2Proof.Machine.execLaunch queue s
  | .copy queue => Sys2Proof.Machine.execCopy queue s
  | .signal queue => Sys2Proof.Machine.execSignal queue s
  | .ctxload queue => Sys2Proof.Machine.execCtxload queue s
  | .ctxfree queue => Sys2Proof.Machine.execCtxfree queue s
  | .qbind queue => Sys2Proof.Machine.execQbind queue s
  | .partition queue => Sys2Proof.Machine.execPartition queue s
  | .tqbind queue => Sys2Proof.Machine.execTqbind queue s
  | .tqflush queue => Sys2Proof.Machine.execTqflush queue s
  | .tqunbind queue => Sys2Proof.Machine.execTqunbind queue s
  | .resolve queue => Sys2Proof.Machine.execResolve queue s
  | .preempt queue => Sys2Proof.Machine.execPreempt queue s
  | .resume queue => Sys2Proof.Machine.execResume queue s
  | .attach queue => Sys2Proof.Machine.execAttach queue s
  | .abort queue => Sys2Proof.Machine.execAbort queue s
  | .launchComplete launch => Sys2Proof.Machine.execLaunchComplete launch s
  | .arbiterVisit die => Sys2Proof.Machine.execArbiterVisit die s
  | .dispatch taskQueue => Sys2Proof.Machine.execDispatch taskQueue s
  | .engineStop unit amount => Sys2Proof.Machine.execEngineStop unit amount s
  | .powerOn input => Sys2Proof.Machine.execPowerOn input s
  | .supplyVoltageFault duration => Sys2Proof.Machine.execSupplyVoltageFault duration s
  | .clockGlitch => Sys2Proof.Machine.execClockGlitch s
  | .tamper => Sys2Proof.Machine.execTamper s
  | .quoteRequest nonce => Sys2Proof.Machine.execQuoteRequest nonce s
  | .featAcceptWrite mask => Sys2Proof.Machine.execFeatAcceptWrite mask s
  | .headroomUpdate total loads => Sys2Proof.Machine.execHeadroomUpdate total loads s
  | .put secure ctx va bytes => Sys2Proof.Machine.execPut secure ctx va bytes s
  | .get secure ctx va length => Sys2Proof.Machine.execGet secure ctx va length s
  | .unreliablePacket => Sys2Proof.Machine.execUnreliablePacket s
  | .contributionArrival partition convoy child seq c => Sys2Proof.Machine.execContributionArrival partition convoy child seq c s
  | .collectiveResult partition convoy arrival => Sys2Proof.Machine.execCollectiveResult partition convoy arrival s
  | .peerTableWrite partition index words => Sys2Proof.Machine.execPeerTableWrite partition index words s
  | .convoyTableWrite partition index words => Sys2Proof.Machine.execConvoyTableWrite partition index words s
  | .capWrite cluster value => Sys2Proof.Machine.execCapWrite cluster value s
  | .powerBlockWrite cluster register value => Sys2Proof.Machine.execPowerBlockWrite cluster register value s
  | .peerDown partition peer => Sys2Proof.Machine.execPeerDown partition peer s
  | .peerReturn partition peer => Sys2Proof.Machine.execPeerReturn partition peer s
  | .fabricEngineRun cluster place reply => Sys2Proof.Machine.execFabricEngineRun cluster place reply s
  | .restart input => Sys2Proof.Machine.execRestart input s

end Sys2Proof.Machine
end

