-- ==== Sys2Proof/Machine/Turns.lean ====
section
/-! DEFINITION. What an entry of the agenda does beside the rows of the table: device time (R9), replacement (R224, R226, R293,
R327), the loader (R42 to R46), the firmware's CONFIG packets (R343), and the order in which the agents move where the agenda
names none (assumption log 1). -/

namespace Sys2Proof.Machine

/-! ### Time and replacement -/

def State.tick (s : State) (n : Nat) : State := { s with time := s.time + n }

/-- A line leaves the L1 that holds it (R224). -/
def State.evictL1 (s : State) (core line : Nat) : State :=
  s.updCore core fun c => { c with l1 := c.l1.filter fun x => x.line != line }

/-- A line leaves a constant cache (R226). -/
def State.evictConst (s : State) (core line : Nat) : State :=
  s.updCore core fun c => { c with constCache := c.constCache.filter fun x => x.line != line }

/-- A line leaves a tile-layout cache (R226). -/
def State.evictTile (s : State) (core line : Nat) : State :=
  s.updCore core fun c => { c with tileCache := c.tileCache.filter fun x => x.line != line }

/-- The entries of a TLB that do not translate an address of a context. -/
def tlbWithout (l : List TlbEntry) (ctx va : Nat) : List TlbEntry :=
  l.filter fun e => !(e.ctx == ctx && decide (e.va ≤ va ∧ va < e.va + e.size))

/-- A translation leaves a TLB: a core's, a cluster's or a die's (R293). -/
def State.evictTlb (s : State) (level unit ctx va : Nat) : State :=
  match level with
  | 0 => s.updCore unit fun c => { c with tlb := tlbWithout c.tlb ctx va }
  | 1 => s.updCluster unit fun c => { c with tlb := tlbWithout c.tlb ctx va }
  | _ => s.updDie unit fun d => { d with tlb := tlbWithout d.tlb ctx va }

/-! ### The loader (R42 to R46) -/

/-- A section of an object: its first byte and its size. -/
abbrev Section := Nat × Nat

def Section.overlaps (a b : Section) : Bool :=
  a.2 != 0 && b.2 != 0 && decide (a.1 < b.1 + b.2) && decide (b.1 < a.1 + a.2)

/-- No section of a list overlaps another. -/
def apart (l : List Section) : Bool :=
  match l with
  | [] => true
  | x :: rest => (rest.all fun y => !x.overlaps y) && apart rest

/-- The fields of a code object's header (R42). -/
structure ObjectHeader where
  magic : Nat
  version : Nat
  entries : Nat
  featReq : BitVec 128
  objId : Nat
  code : Section
  points : Section
  data : Section
  symbols : Section
  deriving DecidableEq, Repr

def objectHeader (b : List Byte) : ObjectHeader :=
  let x (off n : Nat) : Nat := byteField b off n
  { magic := x 0 4, version := x 4 2, entries := x 6 2, featReq := BitVec.ofNat 128 (x 8 16), objId := x 0x18 8,
    code := (x 0x20 4, x 0x24 4), points := (x 0x28 4, 48 * x 0x2C 4), data := (x 0x30 4, x 0x34 4),
    symbols := (x 0x38 4, x 0x3C 4) }

/-- The sections of an object, its header with the entry records among them. -/
def ObjectHeader.sections (h : ObjectHeader) : List Section :=
  [(0, 64 + 8 * h.entries), h.code, h.points, h.data, h.symbols]

/-- The code offsets of the entry records. -/
def entryOffsets (b : List Byte) (n : Nat) : List Nat := (List.range n).map fun i => byteField b (64 + 8 * i) 4

/-- The bytes of safe-point record i. -/
def pointBytes (b : List Byte) (h : ObjectHeader) (i : Nat) : List Byte := (b.drop (h.points.1 + 48 * i)).take 48

/-- A safe-point record (R43). -/
def safePointAt (b : List Byte) (h : ObjectHeader) (i : Nat) : SafePoint :=
  let r := pointBytes b h i
  { ord := byteField r 0 2, header := byteField r 4 4, slive := BitVec.ofNat 64 (byteField r 8 8),
    vlive := BitVec.ofNat 128 (byteField r 16 16), plive := BitVec.ofNat 8 (byteField r 32 1),
    hlive := BitVec.ofNat 16 (byteField r 34 2) }

def safePointsOf (b : List Byte) (h : ObjectHeader) : List SafePoint :=
  (List.range (h.points.2 / 48)).map fun i => safePointAt b h i

/-- A reserved field of a safe-point record is nonzero. -/
def pointReserved (b : List Byte) (h : ObjectHeader) (i : Nat) : Bool :=
  let r := pointBytes b h i
  byteField r 2 2 != 0 || byteField r 31 1 != 0 || decide (128 ≤ byteField r 32 1) || byteField r 33 1 != 0
    || byteField r 36 12 != 0

/-- Status 4: sections, reserved fields, ENTRIES and OBJID. A code section above 16 MiB, the limit of R42, is refused with it too: R44 names
no status for that (DESIGN CHOICE, assumption log 34). -/
def layoutBad (b : List Byte) (h : ObjectHeader) : Bool :=
  decide (h.entries < 1 ∨ 256 < h.entries ∨ h.objId = 0 ∨ b.length < 64) || !(h.sections.all fun x => decide (x.1 + x.2 ≤ b.length))
    || h.code.1 % 256 != 0 || h.code.2 % 4 != 0 || decide (2 ^ 24 < h.code.2) || h.points.1 % 16 != 0 || !apart h.sections
    || ((List.range h.entries).any fun i => byteField b (64 + 8 * i + 4) 4 != 0)
    || (List.range (h.points.2 / 48)).any (pointReserved b h)

/-- A word of the code section of an object. -/
def objectWord (b : List Byte) (h : ObjectHeader) (off : Nat) : Option Word :=
  if off + 4 ≤ h.code.2 then some (BitVec.ofNat 32 (byteField b (h.code.1 + off) 4)) else none

/-- The runs that the walk visits after one (R45), which stands at an offset with its words. -/
def runSuccessors (off : Nat) (ws : List Word) : List Nat :=
  let raws := rawsFrom ws 1 (headerLen (listGet 0 ws 0))
  let behind := off + 4 * ws.length
  match raws.getLast? with
  | none => []
  | some (pos, r) =>
    let here := off + 4 * pos
    let falls := if [0x20, 0x24, 0x25, 0x27, 0x2B].contains (opNat r) then [] else [behind]
    match r with
    | .b _ _ d => relTarget here (d.signExtend 32) :: falls
    | .r _ _ _ _ t c => relTarget here (t.signExtend 32) :: relTarget here (c.signExtend 32) :: falls
    | _ => falls

/-- The headers that the walk of R45 visits, from the offsets still to visit. -/
def walkRuns (read : Nat → Option Word) (size fuel : Nat) (todo seen : List Nat) : List Nat :=
  match fuel, todo with
  | 0, _ => seen
  | _, [] => seen
  | k + 1, off :: rest =>
    if seen.contains off then walkRuns read size k rest seen
    else match read off with
      | none => walkRuns read size k rest seen
      | some w =>
        if off % 4 != 0 || !headerOk w then walkRuns read size k rest seen
        else match fetchWords read size off with
          | .words ws => walkRuns read size k (runSuccessors off ws ++ rest) (seen ++ [off])
          | _ => walkRuns read size k rest seen

/-- Ordinals rise without repeats. -/
def ordinalsRise (l : List SafePoint) : Bool :=
  match l with
  | a :: b :: rest => decide (a.ord < b.ord) && ordinalsRise (b :: rest)
  | _ => true

/-- Status 5: the safe-point table does not agree with the code. -/
def pointsBad (b : List Byte) (h : ObjectHeader) : Bool :=
  let l := safePointsOf b h
  let read := objectWord b h
  let visited := walkRuns read h.code.2 (h.entries + 3 * (h.code.2 / 4) + 1) (entryOffsets b h.entries) []
  let named (p : SafePoint) : Bool := match read p.header with
    | some w => p.header % 4 == 0 && decide (1 ≤ p.ord) && headerStop w && headerOrd w == p.ord
    | none => false
  let recorded (off : Nat) : Bool := match read off with
    | some w => !headerStop w || l.any fun p => p.ord == headerOrd w && p.header == off
    | none => true
  !ordinalsRise l || !l.all named || !visited.all recorded

/-- Status 6: an entry offset that is no multiple of 4, lies outside the code section, or addresses a word that fails R20, its run's
extent included. -/
def entriesBad (b : List Byte) (h : ObjectHeader) : Bool :=
  (entryOffsets b h.entries).any fun off => match fetchWords (objectWord b h) h.code.2 off with
    | .words _ => false
    | _ => true

/-- The loader's status for an object: the lowest that applies (R44). -/
def loaderStatus (accept : BitVec 128) (b : List Byte) : Nat :=
  let h := objectHeader b
  if h.magic ≠ 0xD7C10B8E then 1
  else if h.version / 256 ≠ 1 then 2
  else if h.featReq &&& ~~~accept ≠ 0 then 3
  else if layoutBad b h then 4
  else if pointsBad b h then 5
  else if entriesBad b h then 6
  else 0

/-- The physical places of a span mapped executable, none where some page is not, and the state after their translation. -/
def State.codePieces (s : State) (ctx : Nat) (l : List (Nat × Nat)) : State × Option (List (Nat × Nat)) :=
  match l with
  | [] => (s, some [])
  | (va, n) :: rest =>
    match s.peek 0 ctx va with
    | (t, some e) =>
      if leafExecutable e.leaf then
        match t.codePieces ctx rest with
        | (u, some r) => (u, some ((leafPa e.leaf va, n) :: r))
        | (u, none) => (u, none)
      else (t, none)
    | (t, none) => (t, none)

/-- Writes bytes piece by piece at physical addresses. -/
def State.writePlaces (s : State) (l : List (Nat × Nat)) (b : List Byte) : State :=
  match l with
  | [] => s
  | (pa, n) :: rest => (s.homeWrite pa (b.take n)).writePlaces rest (b.drop n)

/-- The loader takes an object for a context: refused with a status, or its code section placed at an address that is a
multiple of 256 in pages mapped executable (R44, R46). -/
def State.loadObject (s : State) (ctx base : Nat) (b : List Byte) : State :=
  let h := objectHeader b
  let status := loaderStatus s.featAccept b
  if status ≠ 0 then { s with loader := some status }
  else if base % 256 ≠ 0 ∨ s.loaded ctx = false then s
  else match s.codePieces ctx (piecesOf base h.code.2) with
    | (t, none) => t
    | (t, some l) =>
      let o : CodeObject := { ctx := ctx, objId := h.objId, base := base, size := h.code.2, entries := entryOffsets b h.entries,
                              safePoints := safePointsOf b h }
      State.writePlaces { t with loader := some 0, objects := o :: t.objects.filter fun x => x.ctx != ctx || x.objId != h.objId }
        l ((b.drop h.code.1).take h.code.2)

/-! ### The firmware's packets (R343) -/

/-- A CONFIG packet that the firmware puts into an empty lane. -/
def State.configPacket (s : State) (lane : Nat) (b : List Byte) : State :=
  let h := s.hostQueue lane
  if h.lane.isNone && b.length == 64 && byteField b 0 1 == 4 && decide (lane < 64) then
    State.setHostQueue { s with nextId := s.nextId + 1 } lane
      { h with lane := some ⟨2 ^ 64 + s.nextId, false, b⟩, stalled := false }
  else s

/-! ### The default order (assumption log 1) -/

/-- A move of some agent. -/
abbrev Move := State → Host.Outcome State Fault Refusal

/-- A warp that is in its issue slot becomes the one whose instruction is next. -/
def State.takeSlot (s : State) (id : Nat) : State :=
  match s.warp? id with
  | some w => if w.phase = .issuing ∧ w.spilledRegs = false then { s with cur := id } else s
  | none => s

/-- What a warp waits for, or does between its runs, and its memory accesses on their way. -/
def warpMoves (id : Nat) (w : Warp) : List Move :=
  [execRunFetch id, execTimer id, execMwaitReturn id, execEvwaitReturn id, execWaitmWake id, execWaitmTimeout id,
   execBarRelease id, execJoinReturn id, execWarpStop id, execHaltDeferTimeout id, execTerminateComplete id,
   execRetireComplete id, fun s => .next (s.flushTrace id 1), fun s => .next (s.takeSlot id)]
    ++ w.loads.map (fun l => execLoadReturn id l.id 96) ++ w.stores.map (fun x => execStoreArrival id x.id)
    ++ w.stores.map fun x => execStoreAck id x.id

/-- The relays of a caravan that are still to be copied. -/
def relayMoves (id : Nat) (c : Caravan) : List Move :=
  (List.range c.tracks.length).flatMap fun k =>
    ((listGet [] c.tracks k).filter fun x => x.relayPending).map fun x => execRelayCopy id x.tag k

def caravanMoves (id : Nat) (c : Caravan) : List Move :=
  execCaravanComplete id :: (relayMoves id c ++ c.updates.map fun u => execSharedRegisterVisible id u.index)

/-- The record of each operation of a unit, and its stop. -/
def unitMoves (s : State) (u : EngineUnit) : List Move :=
  execEngineStop u 1 :: execPageMove u :: (List.range (s.queueOf u).length).map (execCompletionRecordQueue u)

def coreMoves (s : State) (k : Nat) : List Move :=
  [execRunIssue k 0 1, execRunIssue k 1 1, execRunIssue k 2 1, execRunIssue k 3 1, execClaimServe k, execQuotaArbiter k,
   execMatrixQueueStart k, execMatrixOpComplete k, execWeightLoaderRun k 1, execCopyEngineRun k 1, execTableCopyWrite k]
    ++ [EngineUnit.copy k, .loader k, .matrix k, .table k].flatMap (unitMoves s)

def clusterMoves (s : State) (k : Nat) : List Move :=
  [execSelectionUnitRun k, execAttentionEngineRun k, execHold k, execRateUpdate k, execRailSwitch k 0, execRailSwitch k 1,
   execSampleRow k [], execTaggedRecord k 0 []]
    ++ (List.range (s.cluster k).fabric.length).map (fun i => execFabricEngineRun k i .none)
    ++ [EngineUnit.selection k, .attention k, .fabric k].flatMap (unitMoves s)

def dieMoves (s : State) (k : Nat) : List Move :=
  execArbiterVisit k :: ((s.die k).requests.map (fun r => execTableWalk r.core r.ctx (BitVec.ofNat 64 r.va))
    ++ (List.range (s.die k).waiting.length).map (execPlacement k) ++ s.contexts.map fun c => execTokenRefill k c.1)

/-- Every handler of the front end takes what a lane holds or has open for it. -/
def queueMoves (q : Nat) : List Move :=
  [execNop q, execLaunch q, execCopy q, execSignal q, execCtxload q, execCtxfree q, execQbind q, execPartition q, execTqbind q,
   execTqflush q, execTqunbind q, execResolve q, execPreempt q, execResume q, execAttach q, execAbort q]

/-- The cores that hold a warp, an operation or a register of their own, and the cluster numbers likewise. -/
def State.coresInUse (s : State) : List Nat :=
  (((s.warps.map fun w => w.2.core) ++ s.cores.map fun c => c.1).filter fun k => decide (k < 576)).eraseDups

def State.clustersInUse (s : State) : List Nat :=
  ((s.coresInUse.map clusterOf ++ s.clusters.map fun c => c.1).filter fun k => decide (k < 288)).eraseDups

/-- Every move that the part may make of itself in a state; device time is among them. -/
def State.moves (s : State) : List Move :=
  (fun t => .next (t.tick 1)) ::
    (s.warps.flatMap (fun w => warpMoves w.1 w.2) ++ s.caravans.flatMap (fun c => caravanMoves c.1 c.2)
      ++ s.coresInUse.flatMap (coreMoves s) ++ s.clustersInUse.flatMap (clusterMoves s)
      ++ (List.range 4).flatMap (dieMoves s) ++ s.queues.flatMap (fun q => queueMoves q.1)
      ++ s.launches.map (fun l => execLaunchComplete l.1) ++ s.taskQueues.map (fun q => execDispatch q.1)
      ++ s.contexts.map fun c => execMailboxPost c.1)

/-- The move whose turn it is in the default order. -/
def State.otherMove (s : State) : Move :=
  let l := s.moves
  l.getD (s.rr % l.length) fun t => .next (t.tick 1)

end Sys2Proof.Machine
end

