-- ==== Sys2Proof/Machine/Agenda.lean ====
section
/-! DEFINITION. Whose move it is and what it does: an entry of the agenda, the next instruction of the current warp, or the next
move of the default order (assumption log 1); and how an instruction is placed where the next step runs it. `noncomputable` here
and in the decoder: compiled code cannot build constructors of `Instr` beyond the 245th; Lean's kernel evaluates them. -/

namespace Sys2Proof.Machine

/-- Runs the instruction of the words at which a warp in its issue slot stands. Words that are no instruction take the trap of
R23; predecode lets none come so far. -/
noncomputable def State.runInstruction (s : State) (w : Warp) : Host.Outcome State Fault Refusal :=
  match decodeWords w.instrWords.1 w.instrWords.2 with
  | .ok i => exec i s
  | .error _ => .next (s.trapHere w .illegalInstruction .none)

/-- The warp's instruction could not go on: it stands where it stood. -/
def stalledAt (w : Warp) (x : Option Warp) : Bool :=
  match x with
  | some x => x.phase == .issuing && x.idx == w.idx && (x.run.map fun r => r.header) == w.run.map fun r => r.header
  | none => false

/-- What an instruction's state becomes besides: the sampler counts it (R322, R323), and where it could not go on the next move
is another agent's. -/
def State.settle (s : State) (w : Warp) (t : State) : State :=
  { s.instructionCounted t with others := stalledAt w (Tbl.find t.warps s.cur) }

/-- The next instruction of the current warp. -/
noncomputable def State.instructionStep (s : State) (w : Warp) : Host.Outcome State Fault Refusal :=
  match s.runInstruction w with
  | .next t => .next (s.settle w t)
  | .fault r => .fault r
  | .refused r => .refused r

/-- A warp runs its next instruction: it is in its issue slot, and its registers are on the core (R59, R176). -/
def Warp.mayRun (w : Warp) : Bool := w.phase == .issuing && !w.spilledRegs

/-- The move of an entry of the agenda. An instruction is no event: it is run by its warp alone. -/
noncomputable def State.takeTurn (s : State) (t : Turn) : Host.Outcome State Fault Refusal :=
  match t with
  | .event e => if (rawOf e).isNone then exec e s else .next s
  | .warp id =>
    match s.warp? id with
    | some w => if w.mayRun then State.instructionStep { s with cur := id } w else .next s
    | none => .next s
  | .tick n => .next (s.tick n)
  | .evictL1 core line => .next (s.evictL1 core line)
  | .evictConst core line => .next (s.evictConst core line)
  | .evictTile core line => .next (s.evictTile core line)
  | .evictTlb level unit ctx va => .next (s.evictTlb level unit ctx va)
  | .evictL2 line => .next (s.evictL2 line)
  | .loadObject ctx base bytes => .next (s.loadObject ctx base bytes)
  | .config lane bytes => .next (s.configPacket lane bytes)
  | .flushTrace w => .next (s.flushTrace w 1)

/-- The warp whose next instruction is the next move: the current one, in its issue slot, unless it has just stalled. -/
def State.issuing (s : State) : Option Warp :=
  match s.curWarp with
  | some w => if w.mayRun && !s.others then some w else none
  | none => none

/-- One move. -/
noncomputable def State.move (s : State) : Host.Outcome State Fault Refusal :=
  match s.agenda with
  | t :: rest => State.takeTurn { s with agenda := rest } t
  | [] =>
    match s.issuing with
    | some w => s.instructionStep w
    | none => s.otherMove { s with others := false, rr := s.rr + 1 }

/-! ### An instruction placed to be run -/

/-- The launch record of the caravan that `State.place` makes where no warp is current. -/
def standInRecord : LaunchRecord :=
  { trip := 1, stages := 1, depth := 1, tracks := 16, quota := 15, pair := false, fuseL1 := false, scratch := 65536, entry := 0,
    objId := 0, dbase := 0, argAddr := 0, argN := 0, parties := 0, initAddr := 0, initMask := 0, statLen := 0, statAddr := 0 }

/-- A context with nothing but the smallest values a context record may hold (R355). -/
def standInContext : Context :=
  { contextOf [] 1 with lease := 1024, weight := 1 }

/-- A run of one instruction: its header with every engine class and all temporaries (R18, R19). -/
def oneRun (ws : List Word) : Run :=
  let w0 := listGet 0 ws 0
  runOf 0 (BitVec.ofNat 32 (1 + 63 * 2 ^ 5 + 4 * 2 ^ 12 + 0b10110 * 2 ^ 15) :: ws.take (wordCount w0)) 0

/-- A warp at the first instruction of a run. -/
def Warp.atRun (w : Warp) (r : Run) : Warp :=
  { w with phase := .issuing, run := some r, idx := 0, pos := 1, active := true, resume := none, remainder := false, temps := [],
           wroteTemps := 0, operands := none }

/-- Puts the current warp at the first of an instruction's words. Where no warp is current, the launch that would have made one
is stood in for: a context, a caravan of one pass on core 0, and its warp (R51, R298). -/
def State.place (s : State) (ws : List Word) : State :=
  let r := oneRun ws
  let s0 := { s with agenda := [], others := false }
  match s.curWarp with
  | some w => s0.setWarp s.cur (w.atRun r)
  | none =>
    let c := Caravan.fresh 0 0 none 1 standInRecord ⟨0, 0, 0, 4 * r.words.length, [0], []⟩ [] []
    let s1 := if s0.loaded 0 then s0 else s0.setContext 0 standInContext
    let s2 := s1.settleOn s.cur c 0 120 (fun _ => none)
    s2.setWarp s.cur ((Warp.first c s.cur 0 0 0 0 0 0 s.time 0).atRun r)

end Sys2Proof.Machine
end

