-- ==== Sys2Proof/Machine/Step.lean ====
section
/-! DEFINITION. One step of the machine, and an instruction stored where the next step fetches it. -/

namespace Sys2Proof.Machine

/-- One step: one move, and then the reports that a halt of a whole partition owes its debuggers (R314). -/
noncomputable def step (s : State) : Host.Outcome State Fault Refusal :=
  match s.move with
  | .next t => .next t.haltReports
  | .fault r => .fault r
  | .refused r => .refused r

/-- The state with the instruction of the bits `w` as the next one that `step` runs (assumption log 11). -/
def State.withFetchWord (s : State) (nbits w : Nat) : State := s.place (tableWords nbits w)

end Sys2Proof.Machine
end

