-- ==== Sys2Proof/Safety.lean ====
section
/-! DEFINITION. What counts as a safe step and a safe run, and the terms in which claims say what an instruction changes and
what it leaves. -/

namespace Sys2Proof

open Machine

/-- The step from a state answers a next state: no fault and no refusal. -/
def Safe (s : State) : Prop := ∃ t, step s = .next t

/-- A state that some number of steps from another leads to. -/
inductive Reaches (s : State) : State → Prop
  | here : Reaches s s
  | step {t u : State} : Reaches s t → Machine.step t = .next u → Reaches s u

/-! ### What stays of the part -/

/-- No byte of memory differs, as memory is read. -/
def SameMemory (s t : State) : Prop := ∀ a, Memory.read t.mem a = Memory.read s.mem a

/-- Nothing of the part but the current warp differs, and no byte of memory. -/
structure OnlyCurrent (s t : State) : Prop where
  rest : t = { s with warps := t.warps }
  others : ∀ id, id ≠ s.cur → t.warp? id = s.warp? id
  memory : SameMemory s t

/-! ### What stays of a warp -/

/-- What names the warp and where it lives (R50, R168, R183). -/
structure SameIdentity (w w' : Warp) : Prop where
  ctx : w'.ctx = w.ctx
  core : w'.core = w.core
  caravan : w'.caravan = w.caravan
  pass : w'.pass = w.pass
  ordinal : w'.ordinal = w.ordinal
  sched : w'.sched = w.sched
  widx : w'.widx = w.widx
  frame : w'.frame = w.frame
  quota : w'.quota = w.quota

/-- The special and exception registers and the trap state (R36, R161), but for FLAGS and TINFO. -/
structure SameSpecials (w w' : Warp) : Prop where
  fpctl : w'.fpctl = w.fpctl
  tcause : w'.tcause = w.tcause
  trun : w'.trun = w.trun
  tidx : w'.tidx = w.tidx
  tvec : w'.tvec = w.tvec
  progress : w'.progress = w.progress
  stepState : w'.stepState = w.stepState
  wmax : w'.wmax = w.wmax
  horizon : w'.horizon = w.horizon
  trapMask : w'.trapMask = w.trapMask
  handlerActive : w'.handlerActive = w.handlerActive
  timerPending : w'.timerPending = w.timerPending
  watchPending : w'.watchPending = w.watchPending
  timer : w'.timer = w.timer
  tblSel : w'.tblSel = w.tblSel

/-- The vector registers and the predicates (R52, R54). -/
structure SameVectors (w w' : Warp) : Prop where
  vregs : w'.vregs = w.vregs
  preds : w'.preds = w.preds

/-- Every scalar register, as it reads. -/
def SameScalars (w w' : Warp) : Prop := ∀ r, w'.sreg r = w.sreg r

/-- The reconvergence stack (R60). -/
structure SameStack (w w' : Warp) : Prop where
  stack : w'.stack = w.stack
  spilled : w'.spilled = w.spilled

/-- What the warp has under way outside itself: stores, watches, engine operations, records, children, parties. -/
structure SameUnits (w w' : Warp) : Prop where
  stores : w'.stores = w.stores
  watches : w'.watches = w.watches
  batch : w'.batch = w.batch
  openAll : w'.openAll = w.openAll
  openOps : w'.openOps = w.openOps
  openFlags : w'.openFlags = w.openFlags
  batches : w'.batches = w.batches
  records : w'.records = w.records
  overrun : w'.overrun = w.overrun
  lostOps : w'.lostOps = w.lostOps
  inFlight : w'.inFlight = w.inFlight
  children : w'.children = w.children
  recChildren : w'.recChildren = w.recChildren
  puts : w'.puts = w.puts
  arrival : w'.arrival = w.arrival

/-- The warp stands at the next instruction: of its run, or at the run header behind it when the instruction was the last
(R21, R59). -/
structure MovedOn (w w' : Warp) : Prop where
  within : w.lastOfRun = false → w'.phase = .issuing ∧ w'.run = w.run ∧ w'.idx = w.idx + 1
    ∧ w'.pos = w.pos + wordCount w.instrWords.1 ∧ w'.loads = w.loads
  behind : w.lastOfRun = true → w'.phase = .fetch ∧ w'.run = none ∧ w'.next = w.after
    ∧ w'.loads = w.loads.map PendingLoad.forget

/-- The temporaries keep what they hold until their run ends, and are gone then (R53). -/
structure SameTemps (w w' : Warp) : Prop where
  within : w.lastOfRun = false → w'.temps = w.temps ∧ w'.wroteTemps = w.wroteTemps
  behind : w.lastOfRun = true → w'.temps = []

/-- The read latches keep what they captured until their run ends; then none has been read in the run that follows (R98). -/
structure SameLatches (w w' : Warp) : Prop where
  latches : w'.wmaxLatch = w.wmaxLatch ∧ w'.horizonLatch = w.horizonLatch ∧ w'.baseLatch = w.baseLatch
  within : w.lastOfRun = false → w'.readLow = w.readLow
  behind : w.lastOfRun = true → w'.readLow = 0

/-- What every instruction that completes leaves of its warp, unless its statement says otherwise. -/
structure Keeps (w w' : Warp) : Prop where
  identity : SameIdentity w w'
  specials : SameSpecials w w'
  latches : SameLatches w w'
  stack : SameStack w w'
  units : SameUnits w w'
  moved : MovedOn w w'

/-! ### Results -/

/-- s56 to s59, the base and identity registers that no instruction writes (R50). -/
def isFixed (d : BitVec 6) : Bool := decide (56 ≤ d.toNat) && decide (d.toNat ≤ 59)

abbrev Fixed (d : BitVec 6) : Prop := isFixed d = true

/-- A write of a value to a scalar register (R50): s0 and s56 to s59 keep what they read, and a write to one of the latter sets
TINFO bit 0. -/
structure WritesScalar (w w' : Warp) (d : BitVec 6) (v : Word) : Prop where
  scalars : ∀ r, w'.sreg r = if r = d ∧ d ≠ 0 ∧ ¬ Fixed d then v else w.sreg r
  tinfo : w'.tinfo = if Fixed d then w.tinfo ||| 1 else w.tinfo

/-- The state after an instruction that writes a value to one scalar register and nothing else. -/
structure ScalarResult (s : State) (w : Warp) (t : State) (d : BitVec 6) (v : Word) : Prop where
  only : OnlyCurrent s t
  warp : ∃ w', t.curWarp = some w' ∧ WritesScalar w w' d v ∧ SameVectors w w' ∧ SameTemps w w' ∧ w'.flags = w.flags ∧ Keeps w w'

/-- A write of a value to a register pair, each half under the rules of a scalar write (R27, R95). -/
structure WritesPair (w w' : Warp) (d : BitVec 6) (v : DWord) : Prop where
  scalars : ∀ r, w'.sreg r =
    if r = d ∧ d ≠ 0 ∧ ¬ Fixed d then v.extractLsb' 0 32
    else if r = d + 1 ∧ ¬ Fixed d then v.extractLsb' 32 32 else w.sreg r
  tinfo : w'.tinfo = if Fixed d then w.tinfo ||| 1 else w.tinfo

/-- The state after an instruction that writes a value to one register pair and nothing else. -/
structure PairResult (s : State) (w : Warp) (t : State) (d : BitVec 6) (v : DWord) : Prop where
  only : OnlyCurrent s t
  warp : ∃ w', t.curWarp = some w' ∧ WritesPair w w' d v ∧ SameVectors w w' ∧ SameTemps w w' ∧ w'.flags = w.flags ∧ Keeps w w'

/-- An instruction has left its warp as it was but for going on: `w` is the warp with the instruction's own effect on it. -/
structure OnlyMoves (w w' : Warp) : Prop where
  scalars : SameScalars w w'
  vectors : SameVectors w w'
  temps : SameTemps w w'
  flags : w'.flags = w.flags
  tinfo : w'.tinfo = w.tinfo
  keeps : Keeps w w'

/-- The current warp has completed its instruction with an effect on it, and nothing else has changed. -/
def Becomes (s t : State) (x : Warp) : Prop := OnlyCurrent s t ∧ ∃ w', t.curWarp = some w' ∧ OnlyMoves x w'

/-- The reconvergence stack, the entries on chip before those in the spill area, the newest first (R60, R62). -/
def fullStack (s : State) (w : Warp) : List StackEntry :=
  w.stack ++ (List.range w.spilled).reverse.map fun i => entryAt s.mem (w.spillAt i)

/-- The scalar registers but for the mask s61 to s63. -/
def SameButMask (w w' : Warp) : Prop := ∀ r : BitVec 6, r.toNat < 61 → w'.sreg r = w.sreg r

/-- Memory outside the spill area of a warp's stack (R62). -/
def SameOutsideSpill (s t : State) (w : Warp) : Prop :=
  ∀ a, a < w.frame + 46080 ∨ w.frame + 46080 + 64 * 1024 ≤ a → Memory.read t.mem a = Memory.read s.mem a

/-- Nothing of the part but memory, what a write to memory touches (the tags beside it, the watches on its lines and the lines that L2
holds, R153, R327, R331), and the current warp differs. -/
structure OnlyCurrentAndMemory (s t : State) : Prop where
  rest : t = { s with warps := t.warps, mem := t.mem, tagv := t.tagv, lineE := t.lineE, evx := t.evx }
  others : ∀ id x, id ≠ s.cur → s.warp? id = some x → ∃ l, t.warp? id = some { x with watches := l }

/-! ### Control transfers and traps -/

/-- The warp has left its run for the run header at an offset, and nothing else of its registers and units differs. -/
structure GoesTo (w w' : Warp) (off : Nat) : Prop where
  phase : w'.phase = .fetch
  run : w'.run = none
  next : w'.next = off
  resume : w'.resume = none
  temps : w'.temps = []
  identity : SameIdentity w w'
  specials : SameSpecials w w'
  units : SameUnits w w'
  flags : w'.flags = w.flags
  tinfo : w'.tinfo = w.tinfo
  vectors : SameVectors w w'

/-- The offset of the header of the run a warp executes, and the index of its instruction in issue (R161). -/
def Warp.runHere (w : Warp) : Nat :=
  match w.run with
  | some r => r.header
  | none => w.next

/-- The registers that a trap writes before anything else (R161): TCAUSE, TRUN, TIDX and the TINFO bits of a mask. -/
structure CauseWritten (w w' : Warp) (cause run : Nat) (idx mask value : Word) : Prop where
  tcause : w'.tcause = BitVec.ofNat 32 cause
  trun : w'.trun = BitVec.ofNat 32 run
  tidx : w'.tidx = idx
  written : w'.tinfo &&& mask = value
  kept : w'.tinfo &&& ~~~(mask ||| 2) = w.tinfo &&& ~~~(mask ||| 2)

/-- The handler is entered (R161). The masks, the reconvergence stack, FLAGS, the timer comparator, WMAX, HORIZON and every
register of the program stand as they did; temporaries are discarded. -/
structure Entered (s : State) (w : Warp) (t : State) (cause run : Nat) (idx mask value : Word) : Prop where
  only : OnlyCurrent s t
  warp : ∃ w', t.curWarp = some w' ∧ CauseWritten w w' cause run idx mask value
    ∧ w'.tinfo.getLsbD 1 = w.trapMask ∧ w'.handlerActive = true ∧ w'.trapMask = true
    ∧ w'.phase = .fetch ∧ w'.run = none ∧ w'.resume = none ∧ w'.next = w.tvec.toNat ∧ w'.temps = []
    ∧ SameIdentity w w' ∧ SameScalars w w' ∧ SameVectors w w' ∧ SameStack w w' ∧ SameUnits w w'
    ∧ w'.flags = w.flags ∧ w'.fpctl = w.fpctl ∧ w'.tvec = w.tvec ∧ w'.timer = w.timer ∧ w'.wmax = w.wmax
    ∧ w'.horizon = w.horizon

/-- A handler is installed and not active, so that a cause that has one is taken there (R161). -/
structure HandlerFree (w : Warp) : Prop where
  installed : w.tvec ≠ 0
  inactive : w.handlerActive = false

/-- The context of a warp is not flagged halt-on-fault (R166). -/
def NoHaltOnFault (s : State) (w : Warp) : Prop := ∀ c, Tbl.find s.contexts w.ctx = some c → c.haltOnFault = false

/-- The warp issues nothing further and ends with a cause and the flags of its exit status (R166, R167). -/
structure Terminates (s : State) (w : Warp) (t : State) (cause run : Nat) (idx mask value : Word) (how : Ending) : Prop where
  only : OnlyCurrent s t
  warp : ∃ w', t.curWarp = some w' ∧ CauseWritten w w' cause run idx mask value
    ∧ w'.phase = .terminating how ∧ w'.active = false ∧ SameIdentity w w' ∧ SameScalars w w' ∧ SameVectors w w'
    ∧ SameStack w w' ∧ SameUnits w w'

/-! ### Vector results -/

/-- The instruction may begin (R24, R28, R59, R188): its operand codes are admitted, and, but for a never-instruction, its
registers lie within the quota, its operands have arrived and no track is written a second time. -/
def Ready (s : State) (w : Warp) (i : Instr) : Prop := ∃ r, rawOf i = some r ∧ s.ready w r = true

/-- The code names a temporary, t0 to t3 (R28). -/
def isTemp (c : BitVec 8) : Bool := decide (0x78 ≤ c.toNat) && decide (c.toNat < 0x7C)

/-- The code names a handoff register (R28). -/
def isHandoff (c : BitVec 8) : Bool := decide (0x80 ≤ c.toNat)

/-- What a code reads as lasts: it names no temporary, or the run goes on (R53). -/
def Lasts (w : Warp) (c : BitVec 8) : Prop := isTemp c = true → w.lastOfRun = false

/-- Thread by thread, a vector register has taken the values of some threads and kept its own in the others, and no other
register reads differently. -/
structure VectorWritten (s : State) (w : Warp) (t : State) (w' : Warp) (vd : BitVec 8) (take : BitVec 96) (g : Nat → Word) :
    Prop where
  written : ∀ th, th < 96 → Lasts w vd → t.source w' vd 0 th = if take.getLsbD th then g th else s.source w vd 0 th
  kept : ∀ c sb th, c ≠ vd → th < 96 → Lasts w c → t.source w' c sb th = s.source w c sb th

/-- Nothing of the part but the current warp and its caravan differs, and the caravan only where a handoff register is
written. -/
structure OnlyCurrentAndTrack (s t : State) (w : Warp) (vd : BitVec 8) : Prop where
  rest : t = { s with warps := t.warps, caravans := t.caravans }
  others : ∀ id, id ≠ s.cur → t.warp? id = s.warp? id
  caravans : ∀ id, id ≠ w.caravan → t.caravan? id = s.caravan? id
  tracks : isHandoff vd = false → t.caravans = s.caravans

/-- FLAGS has accumulated what the threads of a mask raise (R81). -/
def FlagsRaised (w w' : Warp) (take : BitVec 96) (fl : Nat → Flags) : Prop :=
  ∀ b, w'.flags.getLsbD b = (w.flags.getLsbD b || (List.range 96).any fun th => take.getLsbD th && (fl th).getLsbD b)

/-- The state after a per-thread instruction with one vector destination (R57, R114): every thread that takes part has
written its value and raised its flags. -/
structure VectorResult (s : State) (w : Warp) (t : State) (f : VForm) (g : Nat → Word) (fl : Nat → Flags) : Prop where
  only : OnlyCurrentAndTrack s t w f.vd
  warp : ∃ w', t.curWarp = some w' ∧ VectorWritten s w t w' f.vd (s.takes w f.pred f.pneg) g
    ∧ FlagsRaised w w' (s.takes w f.pred f.pneg) fl ∧ w'.preds = w.preds ∧ SameScalars w w' ∧ w'.tinfo = w.tinfo ∧ Keeps w w'

/-- The state after a per-thread instruction that writes a predicate (R57, R114, R123, R136). -/
structure PredicateResult (s : State) (w : Warp) (t : State) (f : VForm) (g : Nat → Bool) (fl : Nat → Flags) : Prop where
  only : OnlyCurrent s t
  warp : ∃ w', t.curWarp = some w'
    ∧ (∀ n th, n < 7 → th < 96 → (w'.predicate n).getLsbD th =
        if n = f.vd.toNat % 8 ∧ (s.takes w f.pred f.pneg).getLsbD th = true then g th else (w.predicate n).getLsbD th)
    ∧ FlagsRaised w w' (s.takes w f.pred f.pneg) fl ∧ w'.vregs = w.vregs ∧ SameTemps w w' ∧ SameScalars w w'
    ∧ w'.tinfo = w.tinfo ∧ Keeps w w'

/-- The state after a per-thread instruction that writes one scalar register, once, where some thread takes part (R114). -/
structure GatherResult (s : State) (w : Warp) (t : State) (f : VForm) (v : Word) (fl : Flags) : Prop where
  only : OnlyCurrent s t
  warp : ∃ w', t.curWarp = some w' ∧ SameVectors w w' ∧ SameTemps w w' ∧ Keeps w w'
    ∧ if s.takes w f.pred f.pneg = 0 then SameScalars w w' ∧ w'.tinfo = w.tinfo ∧ w'.flags = w.flags
      else WritesScalar w w' (f.vd.setWidth 6) v ∧ w'.flags = w.flags ||| fl

/-- Registers of a group have taken the values of some threads, register by register, and no other register reads differently. -/
structure GroupWritten (s : State) (w : Warp) (t : State) (w' : Warp) (codes : List (BitVec 8)) (take : BitVec 96)
    (g : Nat → Nat → Word) : Prop where
  written : ∀ k th, k < codes.length → th < 96 → Lasts w (codes.getD k 0) → t.source w' (codes.getD k 0) 0 th =
    if take.getLsbD th then g k th else s.source w (codes.getD k 0) 0 th
  kept : ∀ c sb th, c ∉ codes → th < 96 → Lasts w c → t.source w' c sb th = s.source w c sb th

/-- The registers that no load or store of a warp touches, and the rest of what it has (R50 to R60), but for what it has on its
way in memory. -/
structure KeepsRegisters (w w' : Warp) : Prop where
  identity : SameIdentity w w'
  scalars : SameScalars w w'
  preds : w'.preds = w.preds
  flags : w'.flags = w.flags
  tinfo : w'.tinfo = w.tinfo
  stack : SameStack w w'

/-- An instruction that some thread takes part in may begin. -/
structure Begins (s : State) (w : Warp) (i : Instr) (pred : BitVec 4) (neg : BitVec 1) : Prop where
  current : s.curWarp = some w
  ready : Ready s w i
  some_ : s.takes w pred neg ≠ 0

/-- No thread before one of a mask has a property that this one has: it decides (R142). -/
def Decides (take : BitVec 96) (p : Nat → Prop) (th : Nat) : Prop :=
  th < 96 ∧ take.getLsbD th = true ∧ p th ∧ ∀ u < th, take.getLsbD u = true → ¬ p u

/-- TINFO fields of a memory cause: THREAD, SPACE and DETAIL (R160). -/
def memoryInfo (thread space detail : Nat) : Word := BitVec.ofNat 32 (thread * 2 ^ 8 + space * 2 ^ 15 + detail * 2 ^ 16)

/-! ### Engine operations -/

/-- An engine operation of the current warp has joined its unit's queue with its locks, and its warp goes on (R227, R228,
R230); `x` is the warp with what the issue marks on it besides. -/
structure Queued (s t : State) (x : Warp) (u : EngineUnit) (kind : OpKind) (tag : Word) (spans : List Span) : Prop where
  queue : ∃ cursor, t.queueOf u = s.queueOf u ++ [{ s.newOp x kind tag with cursor := cursor }]
  queues : ∀ v, v ≠ u → t.queueOf v = s.queueOf v
  locks : ∀ k, (t.cluster k).locks = if k = clusterOfUnit u then (s.cluster k).locks ++ locksFor s.nextId spans else (s.cluster k).locks
  number : t.nextId = s.nextId + 1
  memory : SameMemory s t
  caravans : t.caravans = s.caravans
  others : ∀ id, id ≠ s.cur → t.warp? id = s.warp? id
  warp : ∃ w', t.curWarp = some w' ∧ OnlyMoves { x with inFlight := x.inFlight + 1 } w'

/-- Nothing stands against an engine operation's issue: no lock, and room in its queue and in the lock table (R227, R228). -/
structure RoomFor (s : State) (w : Warp) (u : EngineUnit) (limit : Nat) (spans : List Span) : Prop where
  free : spanConflict (s.cluster (clusterOf w.core)).locks spans = none
  queue : s.held u < limit
  locks : s.lockRoom (clusterOfUnit u) spans = true

/-- An operation of the current warp on a tile has joined the queues of its arrays and the warp's open set, its tile's slots
are unsettled, and the warp goes on (R199, R209, R211, R212). -/
structure QueuedMatrix (s t : State) (w : Warp) (d : Tile) (kind : OpKind) (writer : Bool) (spans : List Span) : Prop where
  queue : ∀ k, (t.core k).matrixQueue = (s.core k).matrixQueue ++ if k ∈ d.cores w.core then [s.newOp w kind 0] else []
  unsettled : ∀ k, (t.core k).unsettled = (s.core k).unsettled ++
    if k ∈ d.cores w.core then d.slots.map fun x => ⟨x, s.nextId, s.cur, writer, none, true⟩ else []
  locks : ∀ k, (t.cluster k).locks =
    if k = clusterOf w.core then (s.cluster k).locks ++ locksFor s.nextId spans else (s.cluster k).locks
  number : t.nextId = s.nextId + 1
  memory : SameMemory s t
  caravans : t.caravans = s.caravans
  others : ∀ id, id ≠ s.cur → t.warp? id = s.warp? id
  warp : ∃ w', t.curWarp = some w'
    ∧ OnlyMoves { w with openAll := w.openAll ++ [s.nextId], openOps := w.openOps ++ [s.nextId] } w'

/-! ### Packets -/

/-- A packet stands in the lane of a queue of the front end, its turn has come, and nothing of its queue is under way (R340,
R341, R344). -/
structure LanePacket (s : State) (q : Nat) (p : Packet) (kind : PacketKind) : Prop where
  started : s.security.started = true
  number : q < 64
  lane : (s.hostQueue q).lane = some p
  kind : p.kind = kind
  turn : s.firstInOrder q p = true
  quiet : (s.hostQueue q).headDue = false ∧ (s.hostQueue q).readTail = false ∧ (s.hostQueue q).inFlight = []
  context : p.type = 4 ∨ s.loaded (s.hostQueue q).ctx = true

/-- The packet has left its lane, `left` is what its queue has open, and nothing else of the part differs from `u` but memory
and what a write to memory touches: the tags beside it, the watches on its lines and the lines that L2 holds. -/
structure LaneTaken (u t : State) (q : Nat) (p : Packet) (left : List OpenPacket) : Prop where
  queue : t.hostQueue q =
    { u.hostQueue q with
      lane := none, stalled := false, headDue := false, inFlight := left
      head := if p.ring then (u.hostQueue q).head + 1 else (u.hostQueue q).head
      readTail := p.ring && decide ((u.hostQueue q).tail ≤ (u.hostQueue q).head + 1) }
  queues : ∀ k, k ≠ q → t.hostQueue k = u.hostQueue k
  rest : t = { u with queues := t.queues, mem := t.mem, tagv := t.tagv, warps := t.warps, lineE := t.lineE, evx := t.evx }
  warps : ∀ id x, u.warp? id = some x → ∃ y, t.warp? id = some y ∧ y = { x with watches := y.watches }

/-- Memory has the bytes of two words where the front end wrote them, the second over the first, and is `u`'s elsewhere. -/
def TwoWords (u t : State) (a : Nat) (x : List Byte) (b : Nat) (y : List Byte) : Prop :=
  ∀ k, Memory.read t.mem k =
    if b ≤ k ∧ k < b + y.length then y.getD (k - b) 0 else if a ≤ k ∧ k < a + x.length then x.getD (k - a) 0 else Memory.read u.mem k

/-- The event of a packet takes it from its lane with the effect `u`, and completes it with a status and a detail (R341): from
a ring, HEAD passes the packet and its completion word says them; that of a packet which the firmware put into a lane without a queue
lies at a physical address. -/
def PacketEnds (s u : State) (q : Nat) (p : Packet) (i : Instr) (status detail : Nat) : Prop :=
  let h := u.hostQueue q
  u.hostQueue q = s.hostQueue q →
    (p.ring = false → h.bound = false → ∃ t, exec i s = .next t ∧ LaneTaken u t q p []
      ∧ t.mem = if p.notify = true ∧ p.doneVa % 8 = 0 then
          Memory.writeBytes u.mem p.doneVa (natBytes 4 status ++ natBytes 4 detail) else u.mem) ∧
    (∀ headAt doneAt, p.ring = true → h.bound = true → h.control % 64 = 0 → p.notify = true → p.doneVa % 8 = 0 →
      u.loaded h.ctx = true →
      u.partReach (.head q) 0 h.ctx (h.control + 16) true = .go headAt →
      (u.homeWrite headAt (natBytes 8 (h.head + 1))).partReach (.word q p.index) 0 h.ctx p.doneVa true = .go doneAt →
      ∃ t, exec i s = .next t ∧ LaneTaken u t q p []
        ∧ TwoWords u t headAt (natBytes 8 (h.head + 1)) doneAt (natBytes 4 status ++ natBytes 4 detail))

/-- The event of a packet takes it from its lane with the effect `u` and leaves it open, with what it has come to. -/
def PacketOpens (s u : State) (q : Nat) (p : Packet) (i : Instr) (result : Option (Nat × Nat)) (due : Nat) : Prop :=
  let h := u.hostQueue q
  u.hostQueue q = s.hostQueue q → ∀ headAt, p.ring = true → h.bound = true → h.control % 64 = 0 → u.loaded h.ctx = true →
    u.partReach (.head q) 0 h.ctx (h.control + 16) true = .go headAt →
    ∃ t, exec i s = .next t ∧ LaneTaken u t q p [⟨p, result, due⟩]
      ∧ TwoWords u t headAt (natBytes 8 (h.head + 1)) headAt (natBytes 8 (h.head + 1))

/-- The event of a packet takes it from its lane with the effect `u`, leaves it open, and then works on it. -/
def PacketWorks (s u : State) (q : Nat) (p : Packet) (i : Instr) (work : State → State) : Prop :=
  let h := u.hostQueue q
  u.hostQueue q = s.hostQueue q → ∀ headAt, p.ring = true → h.bound = true → h.control % 64 = 0 → u.loaded h.ctx = true →
    u.partReach (.head q) 0 h.ctx (h.control + 16) true = .go headAt →
    ∃ v, LaneTaken u v q p [⟨p, none, 0⟩] ∧ TwoWords u v headAt (natBytes 8 (h.head + 1)) headAt (natBytes 8 (h.head + 1))
      ∧ exec i s = .next (work v)

/-- A contribution in packets of at most 4,096 bytes, each with its place (R373). -/
def inPackets (c : Contribution) : List (Nat × Contribution) :=
  (List.range (max 1 ((c.bytes.length + 4095) / 4096))).map fun k =>
    (4096 * k, { c with bytes := (c.bytes.drop (4096 * k)).take 4096 })

/-! ### Values of number formats -/

/-- The number a decoded finite value stands for; 0 for the others. -/
def ratOf (v : FVal) : ℚ :=
  match v with
  | .fin n m e => (if n then -1 else 1) * m * (2 : ℚ) ^ e
  | _ => 0

def isFin (v : FVal) : Bool :=
  match v with
  | .fin _ _ _ => true
  | _ => false

/-- Element `k` of a register element in a format (R67). -/
def codeAt (fmt : Fmt) (x : Word) (k : Nat) : Nat := x.toNat / 2 ^ (fmt.width * k) % 2 ^ fmt.width

/-- A value is the number x times 2^q. -/
def Worth (v : FVal) (x q : Int) : Prop :=
  ∃ n m e, v = .fin n m e ∧ (if n then -(m : Int) else m) * 2 ^ (e - min e q).toNat = x * 2 ^ (q - min e q).toNat

/-- The magnitude j of the integer that a rounding mode chooses for the value of sign n and magnitude m 2^e: the nearest with ties to even,
or the next toward zero, +∞ or −∞ (R31, R75). -/
structure NearestInteger (rm : BitVec 2) (n : Bool) (m : Nat) (e : Int) (j : Nat) : Prop where
  nearest : rm = 0 → let d := 2 ^ (-e).toNat; let x := m * 2 ^ e.toNat
    2 * j * d ≤ 2 * x + d ∧ 2 * x ≤ 2 * j * d + d ∧ (2 * x = 2 * j * d + d ∨ 2 * j * d = 2 * x + d → j % 2 = 0)
  inward : rm = 1 ∨ (rm = 2 ∧ n = true) ∨ (rm = 3 ∧ n = false) →
    j * 2 ^ (-e).toNat ≤ m * 2 ^ e.toNat ∧ m * 2 ^ e.toNat < (j + 1) * 2 ^ (-e).toNat
  outward : (rm = 2 ∧ n = false) ∨ (rm = 3 ∧ n = true) →
    m * 2 ^ e.toNat ≤ j * 2 ^ (-e).toNat ∧ j * 2 ^ (-e).toNat < m * 2 ^ e.toNat + 2 ^ (-e).toNat

/-! ### Engines' writes -/

/-- A byte string stands at an address, and no other byte has changed. -/
def Wrote (m m' : Memory) (a : Nat) (bytes : List Byte) : Prop :=
  ∀ k, Memory.read m' k = if a ≤ k ∧ k < a + bytes.length then bytes.getD (k - a) 0 else Memory.read m k

/-- What a close of P 2^e, or of a special block, leaves in a cell, with or without CMP (R86, R88): a NaN; the sum of the cell and P 2^e
rounded once; or, for a pair, hi + lo + P 2^e rounded once as hi, and what is left of it as lo, with lo = +0 beside an infinite hi. -/
structure Closes (cmp : Bool) (acc new : Cell) (special : Prop) (p e : Int) : Prop where
  isSpecial : special → new = (canonicalNaN, if cmp then canonicalNaN else acc.2)
  single : ¬ special → cmp = false → new = (f32Of ((f32Val acc.1).add 0 (.fin (decide (p < 0)) p.natAbs e)).1, acc.2)
  pair : ¬ special → cmp = true → isFin (f32Val acc.1) = true →
    let w := (((f32Val acc.1).add 0 (f32Val acc.2)).1.add 0 (.fin (decide (p < 0)) p.natAbs e)).1
    new.1 = f32Of w ∧ (∀ n, f32Val new.1 = .inf n → new.2 = 0)
      ∧ ∀ n m x, f32Val new.1 = .fin n m x → new.2 = f32Of (w.add 0 (.fin (!n) m x)).1
  infinite : ¬ special → cmp = true → ∀ n, f32Val acc.1 = .inf n → new = (acc.1, 0)
  nan : ¬ special → cmp = true → (f32Val acc.1).isNaN = true → new = (canonicalNaN, canonicalNaN)

end Sys2Proof
end

