-- ==== Sys2Proof/WellFormed.lean ====
section
/-! DEFINITION. Well-formed instructions: those whose fields no rule of R26 to R41 ranks as an illegal instruction. -/

namespace Sys2Proof

/-- The instruction's fields satisfy every static rule of its encoding. An event has no encoding and is never well-formed
as an instruction. Operand codes that are decoded but not usable (R27 to R29) are no matter of this predicate: they are
*illegal operand*, which `Machine.operandsOk` decides. -/
def Instr.WellFormed (i : Instr) : Prop := legal i = true

end Sys2Proof
end

