-- ==== Sys2Proof/Certificates/Slice0/Obligations.lean ====
section
/-! DEFINITION. The statements for the provers: what the instructions, the events and the machine do, from the rules of the
spec. -/

open Sys2Proof Sys2Proof.Machine

/-! ### Scalar instructions -/

/-- R92, R93, R94: every two-operand scalar instruction completes and writes its result to SD, b being the register SB in the register form and
the extended IMM12 in the immediate form (zero-extended for `and`, `or`, `xor`, `andn`, the shifts and `rol`, sign-extended otherwise).
Nothing else changes. -/
def Obligations.ScalarArithmetic : Prop :=
  ∀ (s : State) (w : Warp) (d a b : BitVec 6) (imm : BitVec 12), s.curWarp = some w →
    let x := w.sreg a
    let rows : List (Instr × Instr × Bool × (Word → Word)) :=
      [(.addReg d a b, .addImm d a imm, true, fun y => BitVec.ofNat 32 (x.toNat + y.toNat)),
       (.subReg d a b, .subImm d a imm, true, fun y => BitVec.ofInt 32 (x.toInt - y.toInt)),
       (.mulReg d a b, .mulImm d a imm, true, fun y => BitVec.ofNat 32 (x.toNat * y.toNat)),
       (.mulhsReg d a b, .mulhsImm d a imm, true, fun y => BitVec.ofInt 32 (x.toInt * y.toInt / 2 ^ 32)),
       (.mulhuReg d a b, .mulhuImm d a imm, true, fun y => BitVec.ofNat 32 (x.toNat * y.toNat / 2 ^ 32)),
       (.divsReg d a b, .divsImm d a imm, true, fun y =>
          if y = 0 then 0xFFFFFFFF else BitVec.ofInt 32 (x.toInt.tdiv y.toInt)),
       (.divuReg d a b, .divuImm d a imm, true, fun y =>
          if y = 0 then 0xFFFFFFFF else BitVec.ofNat 32 (x.toNat / y.toNat)),
       (.remsReg d a b, .remsImm d a imm, true, fun y => if y = 0 then x else BitVec.ofInt 32 (x.toInt.tmod y.toInt)),
       (.remuReg d a b, .remuImm d a imm, true, fun y => if y = 0 then x else BitVec.ofNat 32 (x.toNat % y.toNat)),
       (.andReg d a b, .andImm d a imm, false, fun y => x &&& y),
       (.orReg d a b, .orImm d a imm, false, fun y => x ||| y),
       (.xorReg d a b, .xorImm d a imm, false, fun y => x ^^^ y),
       (.andnReg d a b, .andnImm d a imm, false, fun y => x &&& ~~~y),
       (.shlReg d a b, .shlImm d a imm, false, fun y => BitVec.ofNat 32 (x.toNat * 2 ^ (y.toNat % 32))),
       (.shrReg d a b, .shrImm d a imm, false, fun y => BitVec.ofNat 32 (x.toNat / 2 ^ (y.toNat % 32))),
       (.sarReg d a b, .sarImm d a imm, false, fun y => BitVec.ofInt 32 (x.toInt / 2 ^ (y.toNat % 32))),
       (.rolReg d a b, .rolImm d a imm, false, fun y =>
          BitVec.ofNat 32 (x.toNat * 2 ^ (y.toNat % 32) + x.toNat * 2 ^ (y.toNat % 32) / 2 ^ 32)),
       (.minReg d a b, .minImm d a imm, true, fun y => if x.toInt ≤ y.toInt then x else y),
       (.maxReg d a b, .maxImm d a imm, true, fun y => if x.toInt ≤ y.toInt then y else x),
       (.minuReg d a b, .minuImm d a imm, true, fun y => if x.toNat ≤ y.toNat then x else y),
       (.maxuReg d a b, .maxuImm d a imm, true, fun y => if x.toNat ≤ y.toNat then y else x),
       (.sltReg d a b, .sltImm d a imm, true, fun y => if x.toInt < y.toInt then 1 else 0),
       (.sltuReg d a b, .sltuImm d a imm, true, fun y => if x.toNat < y.toNat then 1 else 0),
       (.seqReg d a b, .seqImm d a imm, true, fun y => if x = y then 1 else 0),
       (.sneReg d a b, .sneImm d a imm, true, fun y => if x = y then 0 else 1)]
    ∀ p ∈ rows,
      (∃ t, exec p.1 s = .next t ∧ ScalarResult s w t d (p.2.2.2 (w.sreg b))) ∧
      ∃ t, exec p.2.1 s = .next t ∧
        ScalarResult s w t d (p.2.2.2 (if p.2.2.1 then BitVec.ofInt 32 imm.toInt else BitVec.ofNat 32 imm.toNat))

/-- R93, R95, R96, R107: `clz`, `popc`, `brev`, `sli` write one register, and `addp` and `clk` a register pair, each half under R27. Nothing
else changes. -/
def Obligations.ScalarWide : Prop :=
  ∀ (s : State) (w : Warp) (d a b : BitVec 6) (imm : BitVec 12) (word : Word), s.curWarp = some w →
    (∀ p ∈ [(Instr.clz d a, (w.sreg a).clz), (.popc d a, (w.sreg a).cpop), (.brev d a, (w.sreg a).reverse), (.sli d word, word)],
      ∃ t, exec p.1 s = .next t ∧ ScalarResult s w t d p.2) ∧
    (d.getLsbD 0 = false → a.getLsbD 0 = false → b.getLsbD 0 = false →
      ∀ p ∈ [(Instr.addpReg d a b, BitVec.ofNat 64 ((w.sreg (a + 1)).toNat * 2 ^ 32 + (w.sreg a).toNat
                + (w.sreg (b + 1)).toNat * 2 ^ 32 + (w.sreg b).toNat)),
             (.addpImm d a imm, BitVec.ofInt 64 ((w.sreg (a + 1)).toNat * 2 ^ 32 + (w.sreg a).toNat + imm.toInt)),
             (.clk d, BitVec.ofNat 64 s.time)],
        ∃ t, exec p.1 s = .next t ∧ PairResult s w t d p.2)

/-- R36, R97, R98: `rdsr` writes the special register at INDEX to SD; 0x019 and above read zero. A read of a low index captures the whole
register in its latch, and a read of the high index returns the latched high word if the low one was read earlier in the run. R36, R77, R81, R97, R160: `wrsr` replaces
the writable bits of FLAGS and FPCTL, all of TINFO, and bits 31 to 2 of TVEC; a write to a read-only register is ignored and sets TINFO bit
0; an unassigned index ignores the write. -/
def Obligations.SpecialRegisters : Prop :=
  (∀ (s : State) (w : Warp) (c : Caravan) (d : BitVec 6) (n : BitVec 12), s.curWarp = some w → s.caravan? w.caravan = some c →
     let base := BitVec.ofNat 64 c.codeBase
     let high (k : Nat) (latch : Option DWord) (now : DWord) : Word :=
       (if w.readLow.getLsbD k then latch.getD now else now).extractLsb' 32 32
     let values : List Word :=
       [w.flags.zeroExtend 32, w.fpctl, w.tcause, w.trun, w.tidx, w.tinfo, w.tvec, w.progress, BitVec.ofNat 32 w.quota]
       ++ (List.range 4).map (fun i => BitVec.ofNat 32 (listGet 0xFFFFFFFF c.partyBase i))
       ++ [BitVec.ofNat 32 w.caravan, BitVec.ofNat 32 c.record.trip, BitVec.ofNat 32 c.record.stages,
           BitVec.ofNat 32 c.record.depth,
           w.wmax.extractLsb' 0 32, high 0 w.wmaxLatch w.wmax, w.horizon.extractLsb' 0 32, high 1 w.horizonLatch w.horizon,
           base.extractLsb' 0 32, high 2 w.baseLatch base,
           (Tbl.findD (s.cluster (clusterOf w.core)).requests w.ctx 2).zeroExtend 32, w.stepState]
     ∃ t w', exec (.rdsr d n) s = .next t ∧ OnlyCurrent s t ∧ t.curWarp = some w'
       ∧ WritesScalar w w' d (values.getD n.toNat 0) ∧ SameVectors w w' ∧ SameTemps w w' ∧ w'.flags = w.flags
       ∧ SameIdentity w w' ∧ SameSpecials w w' ∧ SameStack w w' ∧ SameUnits w w' ∧ MovedOn w w'
       ∧ w'.wmaxLatch = (if n = 0x011 then some w.wmax else w.wmaxLatch)
       ∧ w'.horizonLatch = (if n = 0x013 then some w.horizon else w.horizonLatch)
       ∧ w'.baseLatch = (if n = 0x015 then some base else w.baseLatch)
       ∧ w'.readLow = if w.lastOfRun then 0 else w.readLow |||
           (if n = 0x011 then 1 else if n = 0x013 then 2 else if n = 0x015 then 4 else 0)) ∧
  (∀ (s : State) (w : Warp) (a : BitVec 6) (n : BitVec 12), s.curWarp = some w →
     let v := w.sreg a
     let x : Warp :=
       if n = 0x000 then { w with flags := v.extractLsb' 0 11 }
       else if n = 0x001 then { w with fpctl := v &&& 0xFFFF1F1F }
       else if n = 0x005 then { w with tinfo := v }
       else if n = 0x006 then { w with tvec := v.extractLsb' 2 30 ++ (0 : BitVec 2) }
       else if n.toNat ≤ 0x018 then { w with tinfo := w.tinfo ||| 1 }
       else w
     ∃ t, exec (.wrsr a n) s = .next t ∧ Becomes s t x)

/-! ### Control transfers -/

/-- R99, R100, R101: the run that follows a `bra`, `bz`, `bnz`, `call`, `ret` or `jmpr`. A relative target is the code offset of the branch word
plus four times the signed OFF19, as a 32-bit value. `call` leaves the offset of the header behind it in s60. A `ret` or `jmpr` to an offset
that is a multiple of 4 goes there. R100, R161: a `ret` or `jmpr` to an offset that is not a multiple of 4 takes *misaligned* at itself.
That it writes no TINFO field beside PMASK is DEDUCED (assumption log 17). -/
def Obligations.Branches : Prop :=
  (∀ (s : State) (w : Warp) (a : BitVec 6) (off : BitVec 19), s.curWarp = some w →
     let taken := (BitVec.ofInt 32 (w.here + 4 * off.toInt)).toNat
     (∀ p ∈ [(Instr.bra off, taken), (.bz a off, if w.sreg a = 0 then taken else w.after),
             (.bnz a off, if w.sreg a = 0 then w.after else taken)],
       ∃ t w', exec p.1 s = .next t ∧ OnlyCurrent s t ∧ t.curWarp = some w' ∧ GoesTo w w' p.2 ∧ SameScalars w w'
         ∧ SameStack w w') ∧
     (∃ t w', exec (.call off) s = .next t ∧ OnlyCurrent s t ∧ t.curWarp = some w' ∧ GoesTo w w' taken
         ∧ SameStack w w' ∧ ∀ r, w'.sreg r = if r = 60 then BitVec.ofNat 32 w.after else w.sreg r) ∧
     (∀ p ∈ [(Instr.ret, w.sreg 60), (.jmpr a, w.sreg a)], p.2.toNat % 4 = 0 →
       ∃ t w', exec p.1 s = .next t ∧ OnlyCurrent s t ∧ t.curWarp = some w' ∧ GoesTo w w' p.2.toNat ∧ SameScalars w w'
         ∧ SameStack w w')) ∧
  (∀ (s : State) (w : Warp) (a : BitVec 6), s.curWarp = some w → HandlerFree w →
     ∀ p ∈ [(Instr.ret, w.sreg 60), (.jmpr a, w.sreg a)], p.2.toNat % 4 ≠ 0 →
       ∃ t, exec p.1 s = .next t ∧ Entered s w t 0x09 (Warp.runHere w) (BitVec.ofNat 32 w.idx) 0 0)

/-! ### Divergence and the end of a path -/

/-- R60, R62, R63, R102: `vbr` splits the path of the mask M by its predicate P. A JOIN entry with M is pushed, and, when both M ∧ P
and M ∧ ¬P have threads, a PENDING entry with M ∧ ¬P; the path goes on at T with M ∧ P if that has threads, and else at F with M ∧ ¬P.
Where a push finds 32 entries on chip, the oldest goes to the spill area, and memory changes nowhere else. Not for a depth beyond
1,024, nor for the never-instruction. R26, R63, R102: a `vbr` whose pushes would take the stack beyond 1,024 entries takes *divergence
overflow*; the never form of `vbr` pushes nothing, keeps the mask and goes on at F. R61, R103: `rcv` continues behind itself on an
empty stack; otherwise the top entry is popped and becomes the mask, and the path goes on at the entry's offset if it is PENDING and
behind the `rcv` if it is a JOIN. An offset outside the code section is held by its low 24 bits: the model's choice (DESIGN CHOICE,
assumption log 42). -/
def Obligations.Divergence : Prop :=
  (∀ (s : State) (w : Warp) (pred : BitVec 4) (neg : BitVec 1) (target reconv : BitVec 16), s.curWarp = some w →
     isNever pred neg = false →
     let m := w.mask
     let p := s.predOf w pred neg
     let taken := m &&& p
     let fall := m &&& ~~~p
     let join : StackEntry := ⟨.join, BitVec.ofInt 24 (w.here + 4 * reconv.toInt), m⟩
     let pushed := if taken ≠ 0 ∧ fall ≠ 0 then [⟨.pending, BitVec.ofNat 24 w.after, fall⟩, join] else [join]
     w.depth + pushed.length ≤ 1024 →
     ∃ t w', exec (.vbr pred neg target reconv) s = .next t ∧ OnlyCurrentAndMemory s t ∧ t.curWarp = some w'
       ∧ GoesTo { w with watches := w'.watches } w'
           (if taken ≠ 0 then (BitVec.ofInt 32 (w.here + 4 * target.toInt)).toNat else w.after)
       ∧ w'.mask = (if taken ≠ 0 then taken else fall) ∧ SameButMask w w'
       ∧ fullStack t w' = pushed ++ fullStack s w ∧ SameOutsideSpill s t w) ∧
  (∀ (s : State) (w : Warp) (pred : BitVec 4) (neg : BitVec 1) (target reconv : BitVec 16), s.curWarp = some w →
     let p := s.predOf w pred neg
     (isNever pred neg = true → ∃ t w', exec (.vbr pred neg target reconv) s = .next t ∧ OnlyCurrent s t
       ∧ t.curWarp = some w' ∧ GoesTo w w' w.after ∧ SameScalars w w' ∧ SameStack w w') ∧
     (isNever pred neg = false → HandlerFree w →
       1024 < w.depth + (if w.mask &&& p ≠ 0 ∧ w.mask &&& ~~~p ≠ 0 then 2 else 1) →
       ∃ t, exec (.vbr pred neg target reconv) s = .next t
         ∧ Entered s w t 0x10 (Warp.runHere w) (BitVec.ofNat 32 w.idx) 0 0)) ∧
  (∀ (s : State) (w : Warp), s.curWarp = some w →
     (w.stack = [] → ∃ t w', exec .rcv s = .next t ∧ OnlyCurrent s t ∧ t.curWarp = some w' ∧ GoesTo w w' w.after
       ∧ SameScalars w w' ∧ SameStack w w') ∧
     (∀ e rest, w.stack = e :: rest → ∃ t w', exec .rcv s = .next t ∧ OnlyCurrent s t ∧ t.curWarp = some w'
       ∧ GoesTo w w' (if e.kind = .pending then e.offset.toNat else w.after) ∧ w'.mask = e.mask ∧ SameButMask w w'
       ∧ fullStack t w' = (fullStack s w).tail))

/-- R104, R105: `exit` takes the threads of its mask out of every entry, on chip and spilled, and drops the entries left with none. With an
entry left, its threads go on: at its offset if it is PENDING, and behind the extent of the run at its offset if it is a JOIN, or at the
offset where that word has no extent (DEDUCED, assumption log 17); while a page of the extent is not translated nothing is done (R295). With
none left the warp retires, and a timer trap due or pending is discarded. -/
def Obligations.ExitPath : Prop :=
  ∀ (s : State) (w : Warp), s.curWarp = some w → (w.stack = [] → w.spilled = 0) → w.depth ≤ 1024 →
    let cleared := (fullStack s w).map fun e => { e with mask := e.mask &&& ~~~w.mask }
    match cleared.dropWhile fun e => decide (e.mask = 0) with
    | [] => ∃ t w', exec .exit s = .next t ∧ OnlyCurrentAndMemory s t ∧ SameOutsideSpill s t w ∧ t.curWarp = some w'
        ∧ w'.phase = .retiring (Warp.runHere w) ∧ w'.timer = 0 ∧ w'.timerPending = false ∧ SameScalars w w'
        ∧ SameIdentity w w' ∧ SameVectors w w' ∧ SameUnits { w with watches := w'.watches } w'
    | e :: rest =>
      let off := e.offset.toNat
      let goes (next : Nat) : Prop :=
        ∃ t w', exec .exit s = .next t ∧ OnlyCurrentAndMemory s t ∧ SameOutsideSpill s t w ∧ t.curWarp = some w'
          ∧ GoesTo { w with watches := w'.watches } w' next ∧ w'.mask = e.mask ∧ SameButMask w w' ∧ fullStack t w' = rest
      (e.kind = .pending → goes off) ∧
      (e.kind = .join → (∀ n, s.extentOf w off = .behind n → goes n) ∧ (s.extentOf w off = .none → goes off)
        ∧ ∀ u, s.extentOf w off = .waits u → exec .exit s = .next u)

/-! ### Taking a trap and returning from it -/

/-- R108, R109, R161: `trap`, and a `brk` that no debugger has claimed, enter the handler with CODE in TINFO[27:16]. R161, R166: while a handler
is active, or where none is installed, `trap` and `brk` write TCAUSE, TRUN, TIDX and TINFO and end the warp, INHANDLER or NOHANDLER saying
which; in a context flagged halt-on-fault the warp is held at the fault instead and its partition's halt line rises. -/
def Obligations.TrapEntry : Prop :=
  (∀ (s : State) (w : Warp) (code : BitVec 12), s.curWarp = some w → HandlerFree w →
     (∃ t, exec (.trap code) s = .next t
       ∧ Entered s w t 0x0E (Warp.runHere w) (BitVec.ofNat 32 w.idx) 0x0FFF0000 (BitVec.ofNat 32 (code.toNat * 2 ^ 16))) ∧
     (s.brkClaimed w = false → ∃ t, exec (.brk code) s = .next t
       ∧ Entered s w t 0x0D (Warp.runHere w) (BitVec.ofNat 32 w.idx) 0x0FFF0000 (BitVec.ofNat 32 (code.toNat * 2 ^ 16)))) ∧
  (∀ (s : State) (w : Warp) (code : BitVec 12), s.curWarp = some w → s.brkClaimed w = false →
     w.handlerActive = true ∨ w.tvec = 0 →
     let value : Word := BitVec.ofNat 32 (code.toNat * 2 ^ 16)
     ∀ p ∈ [(Instr.trap code, 0x0E), (.brk code, 0x0D)],
       let how : Ending := ⟨BitVec.ofNat 8 p.2, w.handlerActive, !w.handlerActive, false⟩
       (NoHaltOnFault s w → ∃ t, exec p.1 s = .next t
         ∧ Terminates s w t p.2 (Warp.runHere w) (BitVec.ofNat 32 w.idx) 0x0FFF0000 value how) ∧
       (∀ c, Tbl.find s.contexts w.ctx = some c → c.haltOnFault = true → ∃ t w', exec p.1 s = .next t ∧ t.curWarp = some w'
         ∧ CauseWritten w w' p.2 (Warp.runHere w) (BitVec.ofNat 32 w.idx) 0x0FFF0000 value ∧ w'.phase = .faultStopped how
         ∧ SameScalars w w' ∧ SameVectors w w' ∧ SameMemory s t
         ∧ (Tbl.findD t.partitions c.partition Partition.initial).halt.isSome = true))

/-- R24, R28, R161, R188, for every instruction: an operand code that is not admitted takes *illegal operand* with detail 0, and a vector
register at or above the quota with detail 1; a second write of a handoff track in one pass ends the warp with cause 0x05, whatever handler
is installed. Never-instructions have only the first of these. Details that the spec leaves to inference are read as assumption log 19 says. -/
def Obligations.OperandTraps : Prop :=
  ∀ (s : State) (w : Warp) (i : Instr) (r : Raw), s.curWarp = some w → rawOf i = some r →
    (operandsOk r (s.tracksOf w) = false → HandlerFree w → ∃ t, exec i s = .next t
      ∧ Entered s w t 0x04 (Warp.runHere w) (BitVec.ofNat 32 w.idx) 0x000F0000 0) ∧
    (operandsOk r (s.tracksOf w) = true → rawNever r = false → overQuota r w.quota = true → HandlerFree w →
      ∃ t, exec i s = .next t ∧ Entered s w t 0x04 (Warp.runHere w) (BitVec.ofNat 32 w.idx) 0x000F0000 0x00010000) ∧
    (operandsOk r (s.tracksOf w) = true → rawNever r = false → overQuota r w.quota = false → s.hazard w r = false →
      s.rewrites w r = true → NoHaltOnFault s w → ∃ t, exec i s = .next t
        ∧ Terminates s w t 0x05 (Warp.runHere w) (BitVec.ofNat 32 w.idx) 0 0 ⟨0x05, false, false, false⟩)

/-- R110, R163: `tret` outside a handler is an illegal instruction. In a handler it clears handler-active and restores the trap mask
from TINFO[1]. With REDIRECT set the warp continues at TARGET and REDIRECT is cleared; otherwise the Resume column of R159 for TCAUSE
says where: at the trapping point, after it, at the header behind the run (while a page of that run is not translated nothing is done,
R295), or nowhere, which ends the warp. R106, R111, R112: `tmsk` writes the trap mask, `settmr` the timer comparator, discarding a
timer trap held pending; `yield` restarts the aging count and asks to leave the active set where a warp of its scheduler waits to
enter. At a run boundary TIMER makes the trap due once the comparator is reached, and clears it. When a waiting warp is looked for at a
`yield` is DEDUCED (assumption log 43), and where a return from a refused run fetch goes on is a DESIGN CHOICE (assumption log 53). -/
def Obligations.TrapReturn : Prop :=
  (∀ (s : State) (w : Warp), s.curWarp = some w →
     (HandlerFree w → ∃ t, exec .tret s = .next t
       ∧ Entered s w t 0x01 (Warp.runHere w) (BitVec.ofNat 32 w.idx) 0 0) ∧
     (w.handlerActive = true →
       let run := w.trun.toNat
       let detail := w.tinfo.extractLsb' 16 4
       let atCause := [0x06, 0x0C, 0x11].contains w.tcause.toNat || (w.tcause.toNat == 0x04 && detail == 1)
       let afterCause := [0x08, 0x09, 0x0A, 0x0B, 0x0D, 0x0E, 0x0F, 0x12].contains w.tcause.toNat
       let nextCause := [0x01, 0x03, 0x13].contains w.tcause.toNat || (w.tcause.toNat == 0x04 && detail != 1)
       let back (next : Nat) (resume : Option Nat) : Prop := ∃ t w', exec .tret s = .next t ∧ OnlyCurrent s t
         ∧ t.curWarp = some w' ∧ w'.handlerActive = false ∧ w'.trapMask = w.tinfo.getLsbD 1 ∧ w'.phase = .fetch
         ∧ w'.run = none ∧ w'.temps = [] ∧ w'.next = next ∧ w'.resume = resume ∧ SameIdentity w w' ∧ SameScalars w w'
         ∧ SameVectors w w' ∧ SameStack w w' ∧ SameUnits w w' ∧ w'.flags = w.flags ∧ w'.tcause = w.tcause
         ∧ w'.tinfo = w.tinfo &&& 0x7FFFFFFF
       if w.tinfo.getLsbD 31 then back (4 * (w.tinfo.toNat / 4 % 2 ^ 22)) none
       else if atCause then (if w.tidx = 0xFFFFFFFF then back run none else back run (some w.tidx.toNat))
       else if afterCause then back run (some (w.tidx.toNat + 1))
       else if nextCause then
         (∀ n, s.extentOf w run = .behind n → back n none) ∧ (s.extentOf w run = .none → back run none)
           ∧ ∀ u, s.extentOf w run = .waits u → exec .tret s = .next u
       else NoHaltOnFault s w → ∃ t w', exec .tret s = .next t ∧ OnlyCurrent s t ∧ t.curWarp = some w'
         ∧ w'.phase = .terminating ⟨w.tcause.extractLsb' 0 8, false, false, true⟩ ∧ SameScalars w w' ∧ SameVectors w w')) ∧
  (∀ (s : State) (w : Warp) (m : BitVec 1) (a : BitVec 6), s.curWarp = some w →
     (∃ t, exec (.tmsk m) s = .next t ∧ Becomes s t { w with trapMask := m == 1 }) ∧
     (a.getLsbD 0 = false → ∃ t, exec (.settmr a) s = .next t
       ∧ Becomes s t { w with timer := w.sreg (a + 1) ++ w.sreg a, timerPending := false }) ∧
     (∃ t w', exec .yield s = .next t ∧ Becomes s t w ∧ t.curWarp = some w' ∧ w'.aging = 0
       ∧ (w'.yielded = true ↔ w.yielded = true ∨ ∃ p ∈ s.warps, p.2.core = w.core ∧ p.2.sched = w.sched ∧ p.2.active = false
           ∧ p.2.debugHalted = false ∧ (p.2.phase = .fetch ∨ p.2.phase = .boundary
             ∨ (p.2.run = none ∧ ∃ n, p.2.phase = .waiting (.translation n))))) ∧
     (∀ id x, s.warp? id = some x → (x.phase = .fetch ∨ x.phase = .boundary) → x.resume = none →
       exec (.timer id) s = .next (if x.timer ≠ 0 ∧ x.timer.toNat ≤ s.time then
         s.setWarp id { x with timer := 0, timerPending := true } else s)))

/-! ### Integer vector instructions -/

/-- R57, R67, R117: element by element, at the width and sign of TY, the integer instructions write the low bits of the exact result to every
thread that takes part; `vmulh` writes the high half of the product, `vmad` adds the old destination element, and the absolute value of the
most negative element is itself. R67, R81, R117: `vadds` and `vsubs` clamp the exact result of each element to the range of its format, and
a thread in which a clamp changed a value raises *saturated*. -/
def Obligations.VectorInteger : Prop :=
  (∀ (s : State) (w : Warp) (f : VForm), s.curWarp = some w →
     let n := if f.ty = 5 then 16 else if f.ty = 6 ∨ f.ty = 7 then 8 else 32
     let signed := f.ty = 0 ∨ f.ty = 5 ∨ f.ty = 6
     let rows : List (Instr × (BitVec n → BitVec n → BitVec n → BitVec n)) :=
       [(.vaddInteger f, fun a b _ => a + b), (.vsubInteger f, fun a b _ => a - b), (.vmulInteger f, fun a b _ => a * b),
        (.vmulh f, fun a b _ => if signed then BitVec.ofInt n (a.toInt * b.toInt / 2 ^ n)
           else BitVec.ofNat n (a.toNat * b.toNat / 2 ^ n)),
        (.vmad f, fun a b d => a * b + d),
        (.vminInteger f, fun a b _ => if (if signed then a.toInt ≤ b.toInt else a.toNat ≤ b.toNat) then a else b),
        (.vmaxInteger f, fun a b _ => if (if signed then a.toInt ≤ b.toInt else a.toNat ≤ b.toNat) then b else a),
        (.vabsInteger f, fun _ b _ => if signed ∧ b.toInt < 0 then -b else b), (.vnegInteger f, fun _ b _ => -b)]
     ∀ p ∈ rows, Ready s w p.1 → ∃ t g, exec p.1 s = .next t ∧ VectorResult s w t f g (fun _ => 0)
       ∧ ∀ th k, k < 32 / n → (g th).extractLsb' (n * k) n =
           p.2 ((s.opA w f th).extractLsb' (n * k) n) ((s.opB w f th).extractLsb' (n * k) n) ((s.opD w f th).extractLsb' (n * k) n)) ∧
  (∀ (s : State) (w : Warp) (f : VForm), s.curWarp = some w →
     let n := if f.ty = 5 then 16 else if f.ty = 6 ∨ f.ty = 7 then 8 else 32
     let signed : Bool := f.ty = 0 ∨ f.ty = 5 ∨ f.ty = 6
     let low : Int := if signed then -2 ^ (n - 1) else 0
     let high : Int := if signed then 2 ^ (n - 1) - 1 else 2 ^ n - 1
     let value (x : Word) (k : Nat) : Int :=
       if signed then (x.extractLsb' (n * k) n).toInt else (x.extractLsb' (n * k) n).toNat
     ∀ p ∈ [(Instr.vadds f, fun (a b : Int) => a + b), (.vsubs f, fun a b => a - b)], Ready s w p.1 →
       let exact (th k : Nat) := p.2 (value (s.opA w f th) k) (value (s.opB w f th) k)
       ∃ t g, exec p.1 s = .next t
         ∧ VectorResult s w t f g (fun th => if ∃ k < 32 / n, exact th k < low ∨ high < exact th k then 0x20 else 0)
         ∧ ∀ th k, k < 32 / n → value (g th) k = max low (min high (exact th k)))

/-- R29, R57, R118, R119, R131: the logic, shift, bit and move instructions. A shift or rotate amount is B mod 32; `vbfe` takes the field that B
names, of B[13:8] bits at B[4:0] but no further than bit 31, and extends its sign where B[16] is set; `vsel` chooses by the predicate of
PPAR, `vbcast` gives every thread A of the lowest one that takes part, and `viota` counts the threads from SB where VB is 0x7F. -/
def Obligations.VectorWords : Prop :=
  ∀ (s : State) (w : Warp) (f : VForm), s.curWarp = some w →
    let a := s.opA w f
    let b := s.opB w f
    let lowest := ((List.range 96).find? fun th => (s.takes w f.pred f.pneg).getLsbD th).getD 0
    let rows : List (Instr × (Nat → Word)) :=
      [(.vand f, fun th => a th &&& b th), (.vor f, fun th => a th ||| b th), (.vxor f, fun th => a th ^^^ b th),
       (.vandn f, fun th => a th &&& ~~~b th), (.vnot f, fun th => ~~~b th),
       (.vshl f, fun th => a th <<< ((b th).toNat % 32)), (.vshr f, fun th => a th >>> ((b th).toNat % 32)),
       (.vsar f, fun th => (a th).sshiftRight ((b th).toNat % 32)), (.vrol f, fun th => (a th).rotateLeft ((b th).toNat % 32)),
       (.vclz f, fun th => (b th).clz), (.vpopc f, fun th => (b th).cpop), (.vbrev f, fun th => (b th).reverse),
       (.vmov f, b), (.vsel f, fun th => if (w.predicate (f.ppar.toNat % 8)).getLsbD th then a th else b th),
       (.vbcast f, fun _ => a lowest), (.viota f, fun th => BitVec.ofNat 32 th + if f.vb = 0x7F then w.sreg f.sb else 0)]
    (∀ p ∈ rows, Ready s w p.1 → ∃ t g, exec p.1 s = .next t ∧ VectorResult s w t f g (fun _ => 0) ∧ ∀ th < 96, g th = p.2 th) ∧
    (Ready s w (.vbfe f) → ∃ t g, exec (.vbfe f) s = .next t ∧ VectorResult s w t f g (fun _ => 0) ∧
      ∀ th i, i < 32 →
        let pos := (b th).toNat % 32
        let n := min ((b th).toNat / 2 ^ 8 % 64) (32 - pos)
        (g th).getLsbD i = if i < n then (a th).getLsbD (pos + i)
          else (b th).getLsbD 16 && decide (0 < n) && (a th).getLsbD (pos + n - 1))

/-- R114, R131: `vwrl` writes SB to the one element PPAR names, whatever that thread's activity, where some thread takes part; `vrdl` reads the
element of that thread into a scalar register. -/
def Obligations.LaneMoves : Prop :=
  ∀ (s : State) (w : Warp) (f : VForm), s.curWarp = some w →
    (Ready s w (.vrdl f) → ∃ t, exec (.vrdl f) s = .next t ∧ GatherResult s w t f (s.opA w f f.ppar.toNat) 0) ∧
    (Ready s w (.vwrl f) → ∃ t w', exec (.vwrl f) s = .next t ∧ OnlyCurrent s t ∧ t.curWarp = some w'
      ∧ VectorWritten s w t w' f.vd (if s.takes w f.pred f.pneg = 0 then 0 else BitVec.ofNat 96 (2 ^ f.ppar.toNat))
          (fun _ => w.sreg f.sb)
      ∧ w'.preds = w.preds ∧ SameScalars w w' ∧ w'.flags = w.flags ∧ w'.tinfo = w.tinfo ∧ Keeps w w')

/-- R114, R132: an integer reduction writes to a scalar register, where some thread takes part, the sum, the least, the greatest (signed for TY
0), the conjunction, the disjunction or the exclusive or of A over the threads that take part. R134: an integer scan writes to each thread
that takes part the running value over the threads that do, in thread order, from the identity or, where VB is 0x7F, from SB: with its own
element if the scan is inclusive, without it if it is not. -/
def Obligations.IntegerReductions : Prop :=
  (∀ (s : State) (w : Warp) (f : VForm), s.curWarp = some w →
     let a := s.opA w f
     let ts := (List.range 96).filter fun th => (s.takes w f.pred f.pneg).getLsbD th
     let le (x y : Word) : Bool := if f.ty = 0 then x.toInt ≤ y.toInt else x.toNat ≤ y.toNat
     let rows : List (Instr × (Word → Prop)) :=
       [(.vradd f, fun v => v = BitVec.ofNat 32 (ts.map fun th => (a th).toNat).sum),
        (.vrmin f, fun v => (∃ th ∈ ts, v = a th) ∧ ∀ th ∈ ts, le v (a th) = true),
        (.vrmax f, fun v => (∃ th ∈ ts, v = a th) ∧ ∀ th ∈ ts, le (a th) v = true),
        (.vrand f, fun v => ∀ i < 32, v.getLsbD i = ts.all fun th => (a th).getLsbD i),
        (.vror f, fun v => ∀ i < 32, v.getLsbD i = ts.any fun th => (a th).getLsbD i),
        (.vrxor f, fun v => ∀ i < 32, v.getLsbD i = decide ((ts.countP fun th => (a th).getLsbD i) % 2 = 1))]
     ∀ p ∈ rows, Ready s w p.1 → ∃ t v, exec p.1 s = .next t ∧ GatherResult s w t f v 0
       ∧ (s.takes w f.pred f.pneg ≠ 0 → p.2 v)) ∧
  (∀ (s : State) (w : Warp) (f : VForm), s.curWarp = some w →
     let take := s.takes w f.pred f.pneg
     let larger (x y : Word) : Word := if (if f.ty = 0 then x.toInt < y.toInt else x.toNat < y.toNat) then y else x
     let rows : List (Instr × (Word → Word → Word) × Word × Bool) :=
       [(.vscanAdd f, (fun x y => x + y), 0, true), (.vscanxAdd f, (fun x y => x + y), 0, false),
        (.vscanXor f, (fun x y => x ^^^ y), 0, true), (.vscanxXor f, (fun x y => x ^^^ y), 0, false),
        (.vscanMax f, larger, if f.ty = 0 then 0x80000000 else 0, true)]
     ∀ p ∈ rows, Ready s w p.1 → ∃ t g, exec p.1 s = .next t ∧ VectorResult s w t f g (fun _ => 0)
       ∧ ∀ th < 96, take.getLsbD th = true → g th =
           ((List.range (if p.2.2.2 then th + 1 else th)).filter fun u => take.getLsbD u).foldl
             (fun acc u => p.2.1 acc (s.opA w f u)) (if f.vb = 0x7F then w.sreg f.sb else p.2.2.1))

/-- R135: bit by bit, `vclmul` and `vclmulh` write the low and the high half of the product over GF(2), and `vpxor` the parity of the bits up to
each. R54, R57, R114, R136: the predicate operations, of the predicates that VA and VB name. `pfroms` takes a predicate from three scalar
registers; `ptos` writes the taking-part threads of one to three, `pcnt` their number and `pfirst` the least of them or all ones, where some
thread takes part. -/
def Obligations.PredicatesAndCarryless : Prop :=
  (∀ (s : State) (w : Warp) (f : VForm), s.curWarp = some w →
     let term (th j : Nat) : Bool := decide (((List.range 32).countP fun i =>
       decide (i ≤ j) && (s.opB w f th).getLsbD i && (s.opA w f th).getLsbD (j - i)) % 2 = 1)
     let rows : List (Instr × (Nat → Nat → Bool)) :=
       [(.vclmul f, term), (.vclmulh f, fun th j => term th (j + 32)),
        (.vpxor f, fun th j => decide (((List.range (j + 1)).countP fun i => (s.opB w f th).getLsbD i) % 2 = 1))]
     ∀ p ∈ rows, Ready s w p.1 → ∃ t g, exec p.1 s = .next t ∧ VectorResult s w t f g (fun _ => 0)
       ∧ ∀ th j, j < 32 → (g th).getLsbD j = p.2 th j) ∧
  (∀ (s : State) (w : Warp) (f : VForm), s.curWarp = some w →
     let take := s.takes w f.pred f.pneg
     let a := w.predicate (f.va.toNat % 8)
     let b := w.predicate (f.vb.toNat % 8)
     let ts := (List.range 96).filter fun th => take.getLsbD th && a.getLsbD th
     let rows : List (Instr × (Nat → Bool)) :=
       [(.pand f, fun th => a.getLsbD th && b.getLsbD th), (.por f, fun th => a.getLsbD th || b.getLsbD th),
        (.pxor f, fun th => a.getLsbD th != b.getLsbD th), (.pnot f, fun th => !a.getLsbD th),
        (.pfroms f, fun th => (w.sreg (f.sb + BitVec.ofNat 6 (th / 32))).getLsbD (th % 32))]
     (∀ p ∈ rows, Ready s w p.1 → ∃ t, exec p.1 s = .next t ∧ PredicateResult s w t f p.2 (fun _ => 0)) ∧
     (∀ p ∈ [(Instr.pcnt f, BitVec.ofNat 32 ts.length), (.pfirst f, (ts.head?.map (BitVec.ofNat 32 ·)).getD 0xFFFFFFFF)],
       Ready s w p.1 → ∃ t, exec p.1 s = .next t ∧ GatherResult s w t f p.2 0) ∧
     (Ready s w (.ptos f) → ∃ t w', exec (.ptos f) s = .next t ∧ OnlyCurrent s t ∧ t.curWarp = some w' ∧ SameVectors w w'
       ∧ SameTemps w w' ∧ w'.flags = w.flags ∧ Keeps w w'
       ∧ w'.tinfo = (if take ≠ 0 ∧ ∃ i < 3, Fixed (BitVec.ofNat 6 (f.vd.toNat + i)) then w.tinfo ||| 1 else w.tinfo)
       ∧ ∀ q : BitVec 6, w'.sreg q =
           if take ≠ 0 ∧ q ≠ 0 ∧ f.vd.toNat ≤ q.toNat ∧ q.toNat < f.vd.toNat + 3 ∧ ¬ Fixed q then
             (take &&& a).extractLsb' (32 * (q.toNat - f.vd.toNat)) 32
           else w.sreg q))

/-! ### Number formats -/

/-- R68, R69, R70, R75: a value that a format holds rounds to its own code in every mode, without a flag. R75: under RNE a value that does not
overflow rounds to a value of the format that none of the format is nearer to, and *inexact* says whether it changed; under RZ it rounds to
the largest magnitude of the format that is not above its own. R79, R120, R121: addition, multiplication and the fused multiply-add of
finite values are exact before their one rounding, and an exact zero sum of unlike signs is -0 only under RM 3; comparison is that of the
numbers; an infinity times zero, and infinities of unlike sign added, give a NaN with *invalid*. -/
def Obligations.NumberFormats : Prop :=
  (∀ (fmt : Fmt) (code : Nat) (rm : BitVec 2) (sat neg : Bool) (m : Nat) (e : Int), code < 2 ^ fmt.width →
     (fmt = .lg → lgBad code = false) → fmt.decode code = .fin neg m e → m ≠ 0 → fmt.round (.mode rm) sat neg m 1 e = (code, 0)) ∧
  (∀ (fmt : Fmt) (neg : Bool) (num den : Nat) (e : Int), fmt ≠ .lg → 0 < num → 0 < den →
     let v : ℚ := (num : ℚ) / den * (2 : ℚ) ^ e
     let mag (code : Nat) : ℚ := abs (ratOf (fmt.decode code))
     v ≤ (fmt.maxFinite.1 : ℚ) * (2 : ℚ) ^ fmt.maxFinite.2 →
       (let r := fmt.round rne false neg num den e
        isFin (fmt.decode r.1) = true ∧ (r.2.getLsbD 4 = true ↔ mag r.1 ≠ v)
           ∧ ∀ c < 2 ^ fmt.width, isFin (fmt.decode c) = true → abs (mag r.1 - v) ≤ abs (mag c - v)) ∧
       (let r := fmt.round (.mode 1) false neg num den e
        isFin (fmt.decode r.1) = true ∧ mag r.1 ≤ v
           ∧ ∀ c < 2 ^ fmt.width, isFin (fmt.decode c) = true → mag c ≤ v → mag c ≤ mag r.1)) ∧
  (∀ (rm : BitVec 2) (x y z : FVal), isFin x = true → isFin y = true → isFin z = true →
     (isFin (x.add rm y).1 = true ∧ ratOf (x.add rm y).1 = ratOf x + ratOf y ∧ (x.add rm y).2 = 0) ∧
     (isFin (x.mul y).1 = true ∧ ratOf (x.mul y).1 = ratOf x * ratOf y ∧ (x.mul y).2 = 0) ∧
     (isFin (x.fma rm y z).1 = true ∧ ratOf (x.fma rm y z).1 = ratOf x * ratOf y + ratOf z ∧ (x.fma rm y z).2 = 0) ∧
     (ratOf x + ratOf y = 0 → x.isNeg ≠ y.isNeg → (x.add rm y).1.isNeg = decide (rm = 3)) ∧
     (x.less y = decide (ratOf x < ratOf y)) ∧ (x.equal y = decide (ratOf x = ratOf y)) ∧
     (∀ n, FVal.add rm (.inf n) (.inf !n) = (.nan false, 1)) ∧
     (ratOf x = 0 → ∀ n, FVal.mul (.inf n) x = (.nan false, 1) ∧ FVal.mul x (.inf n) = (.nan false, 1)))

/-! ### Float vector instructions -/

/-- R57, R68, R75 to R80, R116, R120, R121, R122: element by element in the format of TY, the float instructions read their operands under
OPFTZ, compute the exact value, round it once under RM and flush it under RESFTZ; `vfma` and `vfms` take the old destination as their
addend. A thread raises the flags of its operands, of the operation and of the rounding. R57, R81, R123: a compare writes a predicate bit in
each thread that takes part, of the integers of TY or of the binary32 values read under OPFTZ; a comparison of numbers with a NaN is false
but for `vcne` and `vcuno`, and one for order raises *invalid* even on a quiet NaN. -/
def Obligations.VectorFloat : Prop :=
  (∀ (s : State) (w : Warp) (f : VForm), s.curWarp = some w →
     let fmt : Fmt := if f.ty = 2 then .f32 else if f.ty = 3 then .f16 else .bf16
     let rows : List (Instr × Bool × Bool × (FVal → FVal → FVal → FVal × Flags)) :=
       [(.vaddFloat f, true, false, fun x y _ => x.add f.rm y), (.vsubFloat f, true, false, fun x y _ => x.add f.rm y.negate),
        (.vmulFloat f, true, false, fun x y _ => x.mul y), (.vfma f, true, true, fun x y z => x.fma f.rm y z),
        (.vfms f, true, true, fun x y z => x.fma f.rm y z.negate), (.vminFloat f, true, false, fun x y _ => x.minMax false y),
        (.vmaxFloat f, true, false, fun x y _ => x.minMax true y), (.vabsFloat f, false, false, fun _ y _ => (y.abs, y.sigFlag)),
        (.vnegFloat f, false, false, fun _ y _ => (y.negate, y.sigFlag))]
     ∀ p ∈ rows, Ready s w p.1 →
       let x (th k : Nat) := fmt.read w.opftz (codeAt fmt (if p.2.1 then s.opA w f th else 0) k)
       let y (th k : Nat) := fmt.read w.opftz (codeAt fmt (s.opB w f th) k)
       let z (th k : Nat) := fmt.read w.opftz (codeAt fmt (if p.2.2.1 then s.opD w f th else 0) k)
       let v (th k : Nat) := p.2.2.2 (x th k).1 (y th k).1 (z th k).1
       let r (th k : Nat) := fmt.result f.rm w.resftz (v th k).1
       ∃ t g fl, exec p.1 s = .next t ∧ VectorResult s w t f g fl
         ∧ ∀ th, (∀ k < 32 / fmt.width, codeAt fmt (g th) k = (r th k).1 % 2 ^ fmt.width)
           ∧ ∀ b, (fl th).getLsbD b = (List.range (32 / fmt.width)).any fun k =>
               (((x th k).2 ||| (y th k).2) ||| ((z th k).2 ||| ((v th k).2 ||| (r th k).2))).getLsbD b) ∧
  (∀ (s : State) (w : Warp) (f : VForm), s.curWarp = some w →
     let rows : List (Instr × (Int → Int → Bool) × (FVal → FVal → Bool) × Bool × Bool) :=
       [(.vceq f, fun a b => a = b, fun x y => x.equal y, false, false), (.vcne f, fun a b => a ≠ b, fun x y => !x.equal y, true, false),
        (.vclt f, fun a b => a < b, fun x y => x.less y, false, true), (.vcle f, fun a b => a ≤ b, fun x y => !y.less x, false, true),
        (.vcgt f, fun a b => b < a, fun x y => y.less x, false, true), (.vcge f, fun a b => b ≤ a, fun x y => !x.less y, false, true),
        (.vcord f, fun _ _ => true, fun _ _ => true, false, false), (.vcuno f, fun _ _ => false, fun _ _ => false, true, false)]
     let a := s.opA w f
     let b := s.opB w f
     let x (th : Nat) := (Fmt.f32.read w.opftz (a th).toNat)
     let y (th : Nat) := (Fmt.f32.read w.opftz (b th).toNat)
     let nan (th : Nat) := (x th).1.isNaN || (y th).1.isNaN
     ∀ p ∈ rows, Ready s w p.1 →
       ∃ t g fl, exec p.1 s = .next t ∧ PredicateResult s w t f g fl ∧ ∀ th,
         (f.ty = 0 → g th = p.2.1 (a th).toInt (b th).toInt ∧ fl th = 0)
         ∧ (f.ty = 1 → g th = p.2.1 (a th).toNat (b th).toNat ∧ fl th = 0)
         ∧ (f.ty = 2 → g th = (if nan th then p.2.2.2.1 else p.2.2.1 (x th).1 (y th).1)
             ∧ fl th = ((x th).2 ||| (y th).2 ||| (x th).1.sigFlag ||| (y th).1.sigFlag
                 ||| if nan th && p.2.2.2.2 then fInvalid else 0)))

/-- R70, R72, R122, R126, R127, R137: `vrnd` rounds each element to the integer of its own format that RM chooses; `vqblk` writes the scale
and code of each thread's element within its block of sixteen threads, of those that take part, the scale being the least at which the
largest of them rounds within the format's range; `vdqblk` reads them back; `vlgmul` and `vlgadd` multiply and add the four LG6 bytes of
each element by their codes and the table CORR. R76, R124, R125: `vcvt` converts the elements of B one by one and writes them packed to as
many registers as they need, in the threads that take part: into an integer format the low bits of an integer, or with `.sat` the nearest
in range, and the integer that RM chooses of a float, 0 of a NaN, and the nearest end of the range outside it; a stochastic conversion in
which some thread takes part advances SRSEQ by one.
What the spec leaves open of them is the model's choice (DESIGN CHOICE, assumption log 48). -/
def Obligations.VectorConversions : Prop :=
  (∀ (s : State) (w : Warp) (f : VForm), s.curWarp = some w →
     let take := s.takes w f.pred f.pneg
     let b := s.opB w f
     let block (th : Nat) : List FVal := ((List.range 96).filter fun u => u / 16 == th / 16 && take.getLsbD u).map fun u =>
       (Fmt.f32.read w.opftz (b u).toNat).1
     let fmt : Fmt := if f.ty = 2 then .f32 else if f.ty = 3 then .f16 else .bf16
     (∀ p ∈ [(Instr.vqblkE4 f, Fmt.e4), (.vqblkE5 f, .e5), (.vqblkF4 f, .f4), (.vqblkLg f, .lg)], Ready s w p.1 →
       ∃ t g fl, exec p.1 s = .next t ∧ VectorResult s w t f g fl ∧ ∀ th < 96,
         g th = (quantise p.2 f.rm w.resftz (block th) (Fmt.f32.read w.opftz (b th).toNat).1).1
         ∧ (∀ n m q n' m' q', take.getLsbD th = true → (∀ v ∈ block th, isFin v = true) → FVal.fin n m q ∈ block th → m ≠ 0 →
             (∀ n' m' q', FVal.fin n' m' q' ∈ block th → exceeds m' q' m q = false) →
             (Fmt.f32.read w.opftz (b th).toNat).1 = .fin n' m' q' →
             let within (e : Nat) : Prop :=
               (p.2.round (.mode f.rm) false false m 1 (q + 127 - (e : Int))).2 &&& (fOverflow ||| fSaturated) = 0
             let e := (g th).toNat / 256
             (within e ∨ e = 254) ∧ e ≤ 254 ∧ (∀ x < e, ¬ within x)
               ∧ (g th).toNat % 256 = (p.2.convert (.mode f.rm) true w.resftz (.fin n' m' (q' + 127 - e))).1)
         ∧ ((block th).any (fun v => !isFin v) = true → g th = 0x0000FF00)
         ∧ ((block th).all (fun v => isFin v && v.isZero) = true → take.getLsbD th = true → (g th).toNat / 256 = 127)) ∧
     (∀ p ∈ [(Instr.vdqblkE4 f, Fmt.e4), (.vdqblkE5 f, .e5), (.vdqblkF4 f, .f4), (.vdqblkLg f, .lg)], Ready s w p.1 →
       ∃ t g fl, exec p.1 s = .next t ∧ VectorResult s w t f g fl ∧ ∀ th,
         (BitVec.extractLsb' 8 8 (b th) = 255 → g th = 0x7FC00000 ∧ fl th = 0)
         ∧ ∀ n m e, (p.2.read w.opftz ((b th).toNat % 2 ^ p.2.width)).1 = .fin n m e → BitVec.extractLsb' 8 8 (b th) ≠ 255 →
             (g th).toNat = (Fmt.f32.convert (.mode f.rm) false w.resftz
               (.fin n m (e + ((b th).toNat / 256 % 256 : Nat) - 127))).1 % 2 ^ 32) ∧
     (∀ p ∈ [(Instr.vlgmul f, lgMul), (.vlgadd f, lgAdd)], Ready s w p.1 →
       ∃ t g fl, exec p.1 s = .next t ∧ VectorResult s w t f g fl ∧ ∀ th k, k < 4 →
         codeAt .lg (g th) k = (p.2 (codeAt .lg (s.opA w f th) k) (codeAt .lg (b th) k)).1 % 256) ∧
     (∀ x y : Nat, let good (c : Nat) : Bool := c / 32 % 4 == 0
       let sign (c : Nat) : Nat := if good c then c / 128 % 2 else 0
       let code (c : Nat) : Nat := if good c then c % 32 else 0
       let result (sg : Nat) (l : Int) : Nat := 128 * sg + (min 31 (max 0 l)).toNat
       let corr : List Int := [4, 4, 3, 3, 2, 2, 2, 2, 1, 1, 1, 1, 1, 1, 0, 0, 0, -11, -7, -5, -4, -3, -3, -2, -2, -1, -1, -1, -1, -1, -1, 0]
       let sum (hi lo : Nat) : Nat :=
         let d := code hi - code lo
         let opposite : Bool := sign hi != sign lo
         if opposite = true ∧ d = 0 then 0 else result (sign hi) ((code hi : Int) + corr.getD ((if opposite then 16 else 0) + min d 15) 0)
       (lgMul x y).1 = (if code x = 0 ∨ code y = 0 then result ((sign x + sign y) % 2) 0
         else result ((sign x + sign y) % 2) ((code x : Int) + code y - 16))
       ∧ (lgAdd x y).1 = if code x = 0 then result (sign y) (code y) else if code y = 0 then result (sign x) (code x)
         else if code x < code y then sum y x else sum x y) ∧
     (Ready s w (.vrnd f) → ∃ t g fl, exec (.vrnd f) s = .next t ∧ VectorResult s w t f g fl ∧ ∀ th k, k < 32 / fmt.width →
         codeAt fmt (g th) k =
           (roundIntegral fmt f.rm (fmt.read w.opftz (codeAt fmt (b th) k)).1).1 % 2 ^ fmt.width
         ∧ ∀ n m e, (fmt.read w.opftz (codeAt fmt (b th) k)).1 = .fin n m e → ∃ j : Nat, NearestInteger f.rm n m e j
             ∧ Worth (fmt.decode (codeAt fmt (g th) k)) (if n then -(j : Int) else j) 0
             ∧ (j = 0 → codeAt fmt (g th) k = fmt.signed n 0))) ∧
  (∀ (s : State) (w : Warp) (f : VForm) (fn : BitVec 6), s.curWarp = some w → Ready s w (.vcvt fn f) →
     isNever f.pred f.pneg = false →
     let take := s.takes w f.pred f.pneg
     let stochastic := fn.getLsbD 5
     let bits (th : Nat) : Nat := (convertThread f.ty.toNat (fn.toNat % 16) (fn.getLsbD 4)
       (if stochastic then .stochastic (stochasticWord w.srseq (BitVec.ofNat 32 w.caravan) (w.sreg 56) th) else .mode f.rm)
       w.opftz w.resftz (s.opB w f th)).1
     let from_ := f.ty.toNat
     let into_ := fn.toNat % 16
     let ws := formatBits from_
     let wd := formatBits into_
     let sat := fn.getLsbD 4
     let source (th k : Nat) : Nat := (s.opB w f th).toNat / 2 ^ (ws * k) % 2 ^ ws
     let result (th k : Nat) : Nat := bits th / 2 ^ (k * wd) % 2 ^ wd
     let low (x : Int) : Nat := (x % 2 ^ wd).toNat
     let least : Int := if fmtSigned into_ then -(2 ^ (wd - 1)) else 0
     let most : Int := if fmtSigned into_ then 2 ^ (wd - 1) - 1 else 2 ^ wd - 1
     let clamp (x : Int) : Int := max least (min most x)
     let integer (th k : Nat) : Int := if fmtSigned from_ = true ∧ 2 ^ (ws - 1) ≤ source th k then (source th k : Int) - 2 ^ ws else source th k
     let read (th k : Nat) : FVal := ((fmtOf from_).read w.opftz (source th k)).1
     (∀ th k, k < 32 / ws → isIntFormat into_ = true →
       (isIntFormat from_ = true → result th k = low (if sat then clamp (integer th k) else integer th k)) ∧
       (isIntFormat from_ = false → stochastic = false →
         ((read th k).isNaN = true → result th k = 0)
         ∧ (∀ n, read th k = .inf n → result th k = low (if n then least else most))
         ∧ ∀ n m e, read th k = .fin n m e → ∃ j : Nat, NearestInteger f.rm n m e j
             ∧ result th k = low (clamp (if n then -(j : Int) else j)))) ∧
     let codes := codesFrom f.vd (vcvtRegs fn f)
     let fpctl := if stochastic = true ∧ take ≠ 0 then (w.srseq + 1) ++ w.fpctl.extractLsb' 0 16 else w.fpctl
     ∃ t w', exec (.vcvt fn f) s = .next t ∧ OnlyCurrentAndTrack s t w f.vd ∧ t.curWarp = some w'
       ∧ GroupWritten s w t w' codes take (fun k th => BitVec.ofNat 32 (bits th / 2 ^ (32 * k)))
       ∧ w'.preds = w.preds ∧ SameScalars w w' ∧ w'.tinfo = w.tinfo ∧ w'.fpctl = fpctl ∧ Keeps { w with fpctl := fpctl } w')

/-- R89, R114, R133, R134: the float reductions combine the elements of the threads that take part by the tree of R89, and the float scan adds
them in thread order from SB where VB is 0x7F, every step rounded to binary32 and flushed. -/
def Obligations.FloatReductions : Prop :=
  ∀ (s : State) (w : Warp) (f : VForm), s.curWarp = some w →
    let take := s.takes w f.pred f.pneg
    let leaf (th : Nat) : FVal := (floatLeaf w (s.opA w f th)).1
    let code (acc : Option FVal) (th : Nat) : Nat := (Fmt.f32.result f.rm w.resftz (match acc with
      | some y => (y.add f.rm (leaf th)).1
      | none => leaf th)).1
    let tree (op : FVal → FVal → FVal × Flags) : FVal :=
      ((floatTree (floatNode w f.rm op) ((List.range 96).map fun th => if take.getLsbD th then some (leaf th) else none)).1).getD
        (.nan false)
    (∀ p ∈ [(Instr.vrfadd f, FVal.add f.rm), (.vrfmax f, FVal.minMax true), (.vrfmin f, FVal.minMax false)], Ready s w p.1 →
      ∃ t v fl, exec p.1 s = .next t ∧ GatherResult s w t f v fl
        ∧ (take ≠ 0 → v.toNat = (Fmt.f32.result f.rm w.resftz (tree p.2)).1 % 2 ^ 32)) ∧
    (Ready s w (.vscanFadd f) → ∃ t g fl, exec (.vscanFadd f) s = .next t ∧ VectorResult s w t f g fl
      ∧ ∀ th < 96, take.getLsbD th = true → g th = BitVec.ofNat 32 (code
          (((List.range th).filter fun u => take.getLsbD u).foldl (fun acc u => some (Fmt.f32.decode (code acc u)))
            (if f.vb = 0x7F then some (floatLeaf w (w.sreg f.sb)).1 else none)) th))

/-- R128, R129, R130: `vexp2`, `vlog2`, `vrcp`, `vrsqrt`, `vsqrt`, `vsin`, `vcos`, `vtanh` and `vtbl` each complete whenever they may
begin, and write VD for the threads that take part. A special function writes its value of B, read under OPFTZ, with the flags of the read and of the
value; special arguments give the results of R129, and the exact cases of R128 their exact values. `vrcp`, `vsqrt` and `vrsqrt` write the
algebraic value rounded once: where the root is no number of the format, from the two whole numbers of small units between which it
lies. `vtbl` looks B up in the copy of the slot that the run holds, and a NaN gives the canonical NaN. Details that the
spec leaves to inference are read as assumption logs 13 and 47 say. -/
def Obligations.SpecialFunctions : Prop :=
  ∀ (s : State) (w : Warp) (f : VForm) (slot : BitVec 3), s.curWarp = some w →
    (Ready s w (.vexp2 f) → ∃ t g fl, exec (.vexp2 f) s = .next t ∧ VectorResult s w t f g fl) ∧
    (Ready s w (.vlog2 f) → ∃ t g fl, exec (.vlog2 f) s = .next t ∧ VectorResult s w t f g fl) ∧
    (Ready s w (.vrcp f) → ∃ t g fl, exec (.vrcp f) s = .next t ∧ VectorResult s w t f g fl) ∧
    (Ready s w (.vrsqrt f) → ∃ t g fl, exec (.vrsqrt f) s = .next t ∧ VectorResult s w t f g fl) ∧
    (Ready s w (.vsqrt f) → ∃ t g fl, exec (.vsqrt f) s = .next t ∧ VectorResult s w t f g fl) ∧
    (Ready s w (.vsin f) → ∃ t g fl, exec (.vsin f) s = .next t ∧ VectorResult s w t f g fl) ∧
    (Ready s w (.vcos f) → ∃ t g fl, exec (.vcos f) s = .next t ∧ VectorResult s w t f g fl) ∧
    (Ready s w (.vtanh f) → ∃ t g fl, exec (.vtanh f) s = .next t ∧ VectorResult s w t f g fl) ∧
    (Ready s w (.vtbl slot f) → ∃ t g fl, exec (.vtbl slot f) s = .next t ∧ VectorResult s w t f g fl) ∧
    let b (th : Nat) : FVal := (Fmt.f32.read w.opftz (s.opB w f th).toNat).1
    let nan : Nat := 0x7FC00000
    let inf : Nat := 0x7F800000
    let one : Nat := 0x3F800000
    let minus : Nat := 0x80000000
    let rows : List (Instr × Nat × (FVal → FVal → Prop) × (FVal → Option Nat)) :=
      [(.vexp2 f, 0, fun x y => ∀ k : Int, -149 ≤ k → k ≤ 127 → w.resftz.getLsbD 0 = false ∨ -126 ≤ k → Worth x k 0 → Worth y 1 k,
          fun v => match v with
          | .inf n => some (if n then 0 else inf) | .fin _ 0 _ => some one | _ => none),
       (.vlog2 f, 1, fun x y => ∀ k, Worth x 1 k → Worth y k 0, fun v => match v with
          | .inf n => some (if n then nan else inf) | .fin _ 0 _ => some (minus + inf)
          | .fin true _ _ => some nan | _ => none),
       (.vrcp f, 2, fun x y => ∀ k sg : Int, -127 ≤ k → w.resftz.getLsbD 0 = false ∨ k ≤ 126 → sg = 1 ∨ sg = -1 → Worth x sg k → Worth y sg (-k),
          fun v => match v with
          | .inf n => some (if n then minus else 0) | .fin n 0 _ => some (if n then minus + inf else inf) | _ => none),
       (.vrsqrt f, 3, fun x y => ∀ k, Worth x 1 (2 * k) → Worth y 1 (-k), fun v => match v with
          | .inf n => some (if n then nan else 0) | .fin n 0 _ => some (if n then minus + inf else inf)
          | .fin true _ _ => some nan | _ => none),
       (.vsqrt f, 4, fun x y => ∀ j q : Int, 0 ≤ j → j < 2 ^ 24 → Worth x (j * j) (2 * q) → Worth y j q, fun v => match v with
          | .inf n => some (if n then nan else inf) | .fin n 0 _ => some (if n then minus else 0)
          | .fin true _ _ => some nan | _ => none),
       (.vsin f, 5, fun x y => ∀ j : Int, Worth x j (-2) → Worth y (if j % 4 = 1 then 1 else if j % 4 = 3 then -1 else 0) 0,
          fun v => match v with
          | .inf _ => some nan | .fin n 0 _ => some (if n then minus else 0) | _ => none),
       (.vcos f, 6, fun x y => ∀ j : Int, Worth x j (-2) → Worth y (if j % 4 = 0 then 1 else if j % 4 = 2 then -1 else 0) 0,
          fun v => match v with
          | .inf _ => some nan | .fin _ 0 _ => some one | _ => none),
       (.vtanh f, 7, fun _ _ => True, fun v => match v with
          | .inf n => some (if n then minus + one else one) | .fin n 0 _ => some (if n then minus else 0) | _ => none)]
    (∀ p ∈ rows, Ready s w p.1 → ∃ t g fl, exec p.1 s = .next t ∧ VectorResult s w t f g fl ∧ ∀ th,
      let value := special p.2.1 f.rm w.resftz (b th)
      g th = BitVec.ofNat 32 value.1 ∧ fl th = ((Fmt.f32.read w.opftz (s.opB w f th).toNat).2 ||| value.2)
      ∧ p.2.2.1 (b th) (Fmt.f32.decode (g th).toNat)
      ∧ (∀ c, p.2.2.2 (b th) = some c → (g th).toNat = c) ∧ ((b th).isNaN = true → (g th).toNat = nan)) ∧
    (∀ (n : Bool) (m : Nat) (e : Int), m ≠ 0 →
      let flushed (x : Nat × Flags) : Nat × Flags := Fmt.f32.flushResult w.resftz x
      special 2 f.rm w.resftz (.fin n m e) = flushed (Fmt.f32.round (.mode 0) false n 1 m (-e))
      ∧ (m < 2 ^ 24 → (∃ (a : Nat) (k : Int), 2 ^ 40 ≤ a ∧ 2 * k ≤ e
            ∧ a * a ≤ m * 2 ^ (e - 2 * k).toNat ∧ m * 2 ^ (e - 2 * k).toNat < (a + 1) * (a + 1)
            ∧ special 4 f.rm w.resftz (.fin false m e) = if a * a = m * 2 ^ (e - 2 * k).toNat then
                flushed (Fmt.f32.round (.mode f.rm) false false a 1 k)
              else flushed (Fmt.f32.round (.mode f.rm) false false (2 * a + 1) 1 (k - 1)))
        ∧ ∃ (a : Nat) (k : Int), 2 ^ 40 ≤ a ∧ e + 2 * k ≤ 0
            ∧ a * a * m ≤ 2 ^ (-(e + 2 * k)).toNat ∧ 2 ^ (-(e + 2 * k)).toNat < (a + 1) * (a + 1) * m
            ∧ special 3 f.rm w.resftz (.fin false m e) = if a * a * m = 2 ^ (-(e + 2 * k)).toNat then
                flushed (Fmt.f32.round (.mode 0) false false a 1 k)
              else flushed (Fmt.f32.round (.mode 0) false false (2 * a + 1) 1 (k - 1)))) ∧
    (Ready s w (.vtbl slot f) → ∃ t g fl, exec (.vtbl slot f) s = .next t ∧ VectorResult s w t f g fl ∧ ∀ th,
      ((b th).isNaN = true → (g th).toNat = nan)
      ∧ (g th).toNat = (Fmt.f32.result 0 w.resftz
          (tableLookup (((s.core w.core).table slot.toNat).copy (w.tblSel.getLsbD slot.toNat)) (b th)).1).1 % 2 ^ 32)

/-! ### Memory -/

/-- R140 to R144, R161: the checks of an access of memory or scratchpad are made in the order of R142 before any thread's access, and the lowest
failing thread decides: a misaligned address, an address bit above 54 or an offset outside the allotment, a poisoned page, a page that may
not be written, a range lock. The trap names the thread, the space and the detail. Details that the spec leaves to inference are read as
assumption log 21 says. -/
def Obligations.AccessTraps : Prop :=
  ∀ (s : State) (w : Warp) (f : MForm) (th : Nat), HandlerFree w →
    let take := s.takes w f.pred f.pneg
    let n := szBytes f.sz
    let trap (i : Instr) (cause space detail : Nat) : Prop := ∃ t, exec i s = .next t
      ∧ Entered s w t cause (Warp.runHere w) (BitVec.ofNat 32 w.idx) 0x000FFF00 (memoryInfo th space detail)
    let mem := s.memAddr w f.sbase f.vidx (f.off.signExtend 64)
    let leaf (u : Nat) : Option DWord := (s.translated w.core w.ctx (mem u) false).map fun e => e.leaf
    let scr := s.scratchAddr w f.sbase f.vidx (f.off.signExtend 32)
    let locks := (s.cluster (clusterOf w.core)).locks
    (∀ p ∈ [(Instr.ld f, false), (.mon f, false), (.st f, true)], Begins s w p.1 f.pred f.pneg →
      (if p.2 then w.mayStore else w.mayLoad) = true →
      let aligned : Prop := ∀ u < 96, take.getLsbD u = true → mem u % n = 0
      let within : Prop := ∀ u < 96, take.getLsbD u = true → mem u < 2 ^ 55
      let found (q : DWord → Prop) : Prop := ∀ u < 96, take.getLsbD u = true → ∃ e, leaf u = some e ∧ q e
      let refused (e : DWord) : Option Nat := protectDetail (s.ctxSecure w.ctx) p.2 e
      (Decides take (fun u => mem u % n ≠ 0) th → trap p.1 0x09 0 0) ∧
      (aligned → Decides take (fun u => 2 ^ 55 ≤ mem u) th → trap p.1 0x08 0 4) ∧
      (aligned → within → found (fun _ => True) → Decides take (fun u => (leaf u).any leafPoison = true) th →
        trap p.1 0x12 0 9) ∧
      (aligned → within → found (fun e => leafPoison e = false) → ∀ d, d ≠ 3 →
        Decides take (fun u => ((leaf u).bind refused).isSome = true) th → (leaf th).bind refused = some d → trap p.1 0x08 0 d) ∧
      (aligned → within → found (fun e => leafPoison e = false ∧ refused e = none) →
        Decides take (fun u => lockConflict locks (.memory w.ctx) (mem u) n p.2 = true) th →
        trap p.1 0x06 0 (if p.2 then 7 else 6))) ∧
    (∀ p ∈ [(Instr.lds f, false), (.sts f, true)], Begins s w p.1 f.pred f.pneg →
      (if p.2 then w.mayStore else w.mayLoad) = true →
      (Decides take (fun u => scr u % n ≠ 0) th → trap p.1 0x09 1 0) ∧
      ((∀ u < 96, take.getLsbD u = true → scr u % n = 0) → Decides take (fun u => s.allotment w < scr u + n) th →
        trap p.1 0x08 1 5) ∧
      ((∀ u < 96, take.getLsbD u = true → scr u % n = 0 ∧ scr u + n ≤ s.allotment w) →
        Decides take (fun u => lockConflict locks (.scratch w.core w.caravan) (scr u) n p.2 = true) th →
        trap p.1 0x06 1 (if p.2 then 7 else 6)))

/-- R49, R147, R153, R187: a `ld` or `mon` whose checks pass is sent, with every access still to be served, and the warp goes on. `mon` replaces
the watches, those that an earlier `mon` still on its way would arm among them. No byte of memory and, but for a handoff destination, no register has changed yet. R145, R147, R339: the last access of a load
is served and its data written. Where the access must reach the home, or the core's L1 holds no copy of the line, the value is the bytes at
the home now; where L1 holds a copy under a lease that has not expired, granted at or after HORIZON and not made stale by the warp's own
stores, it is the copy's. The load is done, and an acquire moves HORIZON to now. Memory does not change. Details that the spec leaves to
inference are read as assumption logs 20 and 21 say; that the whole of a `b128` access is served at one time is a DESIGN CHOICE
(assumption log 54). -/
def Obligations.Loads : Prop :=
  (∀ (s : State) (w : Warp) (f : MForm) (addrs : List ThreadAddr),
     ∀ p ∈ [(Instr.ld f, false), (.mon f, true)], Begins s w p.1 f.pred f.pneg → w.mayLoad = true →
       s.checkMemory w (threadsOf (s.takes w f.pred f.pneg)) (s.memAddr w f.sbase f.vidx (f.off.signExtend 64)) (szBytes f.sz)
         false = .ok addrs →
       let acquire := f.qual.getLsbD 1
       let load : PendingLoad :=
         { id := s.nextId, vd := f.vd, sz := f.sz, path := f.path, fresh := p.2 || f.qual.getLsbD 0 || acquire,
           stream := f.qual.getLsbD 3, acquire := acquire, horizon := acquire && f.qual.extractLsb' 4 2 != 0, monitor := p.2,
           lines := (addrs.map fun a => a.pa / 128).eraseDups, waiting := addrs, got := [] }
       ∃ t w', exec p.1 s = .next t ∧ t = { s with warps := t.warps, caravans := t.caravans, nextId := s.nextId + 1 }
         ∧ t.curWarp = some w'
         ∧ OnlyMoves { w with loads := (if p.2 then w.loads.map PendingLoad.superseded else w.loads) ++ [load],
                              watches := if p.2 then [] else w.watches } w'
         ∧ (∀ id, id ≠ s.cur → t.warp? id = s.warp? id) ∧ (∀ id, id ≠ w.caravan → t.caravan? id = s.caravan? id)
         ∧ (isHandoff f.vd = false → t.caravans = s.caravans) ∧ SameMemory s t) ∧
  (∀ (s : State) (id : Nat) (w : Warp) (l : PendingLoad) (a : ThreadAddr) (n : Nat), s.warp? id = some w →
     w.loads.find? (fun x => x.id == l.id) = some l → l.waiting = [a] → l.path = 0 → isHandoff l.vd = false → isTemp l.vd = false →
     (∃ v, codeOf l.vd = .v v ∧ v + szRegs l.sz ≤ 120) → a.thread < 96 → (∀ p ∈ l.got, p.1 < a.thread) → w.storing (a.pa / 128) = false →
     (∀ x ∈ w.loads, x.id < l.id → ∀ b ∈ x.waiting, b.pa / 128 ≠ a.pa / 128) → a.pa % szBytes l.sz = 0 → 0 < n →
     let copy := cacheFind (s.core (s.l1Core w.core (a.pa / 128))).l1 (a.pa / 128)
     let usable : Bool := match copy with
       | some x => !l.fresh && decide (s.time < x.expiry) && decide (w.horizon.toNat ≤ x.grant) && !x.notFor.contains id
       | none => false
     let value := match copy with
       | some x => if usable then bytesNat ((x.data.drop (a.pa % 128)).take (szBytes l.sz)) else Memory.readNat s.mem a.pa (szBytes l.sz)
       | none => Memory.readNat s.mem a.pa (szBytes l.sz)
     ∃ t w', exec (.loadReturn id l.id n) s = .next t ∧ t.warp? id = some w' ∧ SameMemory s t
       ∧ (∀ k < szRegs l.sz, t.source w' (l.vd + BitVec.ofNat 8 k) 0 a.thread = loadedElement l.sz value k)
       ∧ (∀ c sb th, c ∉ codesFrom l.vd (szRegs l.sz) → th < 96 → t.source w' c sb th = s.source w c sb th)
       ∧ (∀ x ∈ w'.loads, x.id ≠ l.id) ∧ w'.horizon = (if l.horizon then BitVec.ofNat 64 s.time else w.horizon)
       ∧ KeepsRegisters w w')

/-- R148: a `st` whose checks pass, and whose release, if it has one, waits for nothing, sends each thread's bytes, lowest first, and the warp
goes on; the bytes stand in no memory until they arrive. R148, R153: a store that arrives, none of the warp's own to its bytes being ahead
of it, changes exactly the bytes it stores, fires every watch on a line it touches or puts out of the L2, and takes a completion time: now, or four
ticks behind the latest lease on one of its lines, whichever is the latest. Its acknowledgement raises WMAX to that time. Which line a fill puts out of the L2 is a DESIGN CHOICE
(assumption log 12). -/
def Obligations.Stores : Prop :=
  (∀ (s : State) (w : Warp) (f : MForm) (addrs : List ThreadAddr), Begins s w (.st f) f.pred f.pneg → w.mayStore = true →
     s.checkMemory w (threadsOf (s.takes w f.pred f.pneg)) (s.memAddr w f.sbase f.vidx (f.off.signExtend 64)) (szBytes f.sz)
       true = .ok addrs →
     (f.qual.getLsbD 2 = true → s.released w s.cur (f.qual.extractLsb' 4 2).toNat = true) →
     ∃ t w' sent, exec (.st f) s = .next t ∧ t.curWarp = some w' ∧ w'.stores = w.stores ++ sent
       ∧ sent.map (fun p => (p.pa, p.bytes, p.done)) =
           addrs.map (fun a => (a.pa, natBytes (szBytes f.sz) (s.storedValue w f.vd (szBytes f.sz) a.thread), none))
       ∧ KeepsRegisters w w' ∧ SameVectors w w' ∧ MovedOn w w' ∧ SameMemory s t ∧ t.caravans = s.caravans
       ∧ ∀ id, id ≠ s.cur → t.warp? id = s.warp? id) ∧
  (∀ (s : State) (id : Nat) (w : Warp) (y : PendingStore), s.warp? id = some w →
     w.stores.find? (fun x => x.id == y.id) = some y → y.bytes ≠ [] →
     (y.done = none → w.storeBehind y = false →
       ∃ t w', exec (.storeArrival id y.id) s = .next t ∧ t.warp? id = some w'
         ∧ (∀ i < y.bytes.length, Memory.read t.mem (y.pa + i) = y.bytes.getD i 0)
         ∧ (∀ a, a < y.pa ∨ y.pa + y.bytes.length ≤ a → Memory.read t.mem a = Memory.read s.mem a)
         ∧ KeepsRegisters w w' ∧ SameVectors w w' ∧ w'.phase = w.phase
         ∧ (∀ j u, s.warp? j = some u → ∃ u', t.warp? j = some u' ∧ u'.watches = u.watches.map fun x =>
             if (y.pa / 128 ≤ x.line ∧ x.line ≤ (y.pa + y.bytes.length - 1) / 128)
                 ∨ ((Tbl.find s.lineE x.line).isSome = true ∧ Tbl.find t.lineE x.line = none) then { x with fired := true } else x)
         ∧ w'.stores = w.stores.map (fun z => if z.id = y.id then { z with done := some (s.completionOf y.pa y.bytes.length) } else z)
         ∧ s.time ≤ s.completionOf y.pa y.bytes.length
         ∧ (∀ k, y.pa / 128 ≤ k → k ≤ (y.pa + y.bytes.length - 1) / 128 →
             s.leaseEnd k + 4 ≤ s.completionOf y.pa y.bytes.length)
         ∧ (s.completionOf y.pa y.bytes.length = s.time ∨ ∃ k, y.pa / 128 ≤ k ∧ k ≤ (y.pa + y.bytes.length - 1) / 128
             ∧ s.completionOf y.pa y.bytes.length = s.leaseEnd k + 4)) ∧
     (∀ c, y.done = some c → ∃ t w', exec (.storeAck id y.id) s = .next t ∧ t.warp? id = some w' ∧ SameMemory s t
         ∧ w'.stores = w.stores.filter (fun z => z.id ≠ y.id) ∧ w'.wmax = BitVec.ofNat 64 (max w.wmax.toNat c)
         ∧ KeepsRegisters w w' ∧ SameVectors w w' ∧ ∀ j, j ≠ id → t.warp? j = s.warp? j))

/-- R145, R146, R151: `lds` reads the scratchpad of the caravan into its registers at once, and an acquire moves HORIZON; `sts` writes each
thread's bytes there, the highest thread's where several write one byte, and no other byte of scratchpad or memory. Details that the spec
leaves to inference are read as assumption log 21 says. -/
def Obligations.Scratchpad : Prop :=
  ∀ (s : State) (w : Warp) (f : MForm) (c : Caravan), s.caravan? w.caravan = some c →
    let take := s.takes w f.pred f.pneg
    let n := szBytes f.sz
    let addr := s.scratchAddr w f.sbase f.vidx (f.off.signExtend 32)
    (Begins s w (.lds f) f.pred f.pneg → w.mayLoad = true → s.checkScratch w (threadsOf take) addr n false = .ok () →
      ∃ t w', exec (.lds f) s = .next t ∧ t.curWarp = some w' ∧ OnlyCurrentAndTrack s t w f.vd
        ∧ GroupWritten s w t w' (codesFrom f.vd (szRegs f.sz)) take
            (fun k th => loadedElement f.sz (Memory.readNat c.scratch (addr th) n) k)
        ∧ w'.horizon = (if f.qual.getLsbD 1 ∧ f.qual.extractLsb' 4 2 ≠ 0 then BitVec.ofNat 64 s.time else w.horizon)
        ∧ KeepsRegisters w w' ∧ SameUnits w w' ∧ MovedOn w w') ∧
    (Begins s w (.sts f) f.pred f.pneg → w.mayStore = true → s.checkScratch w (threadsOf take) addr n true = .ok () →
      (f.qual.getLsbD 2 = true → s.released w s.cur (f.qual.extractLsb' 4 2).toNat = true) →
      ∃ t w' c', exec (.sts f) s = .next t ∧ t.curWarp = some w' ∧ t.caravan? w.caravan = some c'
        ∧ t = { s with warps := t.warps, caravans := t.caravans } ∧ c' = { c with scratch := c'.scratch }
        ∧ (∀ a, Memory.read c'.scratch a =
            match (List.range 96).reverse.find? fun th => take.getLsbD th && decide (addr th ≤ a) && decide (a < addr th + n) with
            | some th => BitVec.ofNat 8 (s.storedValue w f.vd n th / 2 ^ (8 * (a - addr th)))
            | none => Memory.read c.scratch a)
        ∧ (∀ id, id ≠ s.cur → t.warp? id = s.warp? id) ∧ (∀ id, id ≠ w.caravan → t.caravan? id = s.caravan? id)
        ∧ KeepsRegisters w w' ∧ SameVectors w w' ∧ SameUnits w w' ∧ MovedOn w w')

/-- R146, R152: the atomics. Thread by thread in ascending order, the old value at the thread's address is read and OP of it and the thread's
operand is written; every thread's old value goes to its destination, and an acquire moves HORIZON. `atoms` acts on the scratchpad of the
caravan, `atom` at the homes in memory; nothing else of either changes. -/
def Obligations.Atomics : Prop :=
  ∀ (s : State) (w : Warp) (f : AForm) (c : Caravan), s.caravan? w.caravan = some c →
    let take := s.takes w f.pred f.pneg
    let n := szBytes f.sz
    let m := 2 ^ (8 * n)
    let sig (x : Nat) : Int := (BitVec.ofNat (8 * n) x).toInt
    let rows : List (Instr × Instr × Bool × (Nat → Nat → Nat → Nat)) :=
      [(.atomAdd f, .atomsAdd f, false, fun old x _ => (old + x) % m), (.atomSub f, .atomsSub f, false, fun old x _ => (old + m - x) % m),
       (.atomMin f, .atomsMin f, false, fun old x _ => if sig x < sig old then x else old),
       (.atomMax f, .atomsMax f, false, fun old x _ => if sig old < sig x then x else old),
       (.atomMinu f, .atomsMinu f, false, fun old x _ => min old x), (.atomMaxu f, .atomsMaxu f, false, fun old x _ => max old x),
       (.atomAnd f, .atomsAnd f, false, fun old x _ => old &&& x), (.atomOr f, .atomsOr f, false, fun old x _ => old ||| x),
       (.atomXor f, .atomsXor f, false, fun old x _ => old ^^^ x), (.atomXchg f, .atomsXchg f, false, fun _ x _ => x),
       (.atomCas f, .atomsCas f, true, fun old x y => if old = x then y else old),
       (.atomFaddF32 f, .atomsFaddF32 f, false, fun old x _ =>
          (Fmt.f32.result 0 0 ((Fmt.f32.decode old).add 0 (Fmt.f32.decode x)).1).1),
       (.atomFmaxF32 f, .atomsFmaxF32 f, false, fun old x _ =>
          (Fmt.f32.result 0 0 ((Fmt.f32.decode old).minMax true (Fmt.f32.decode x)).1).1)]
    ∀ p ∈ rows,
      let swap (th : Nat) : Nat := if p.2.2.1 then s.storedValue w (f.vd + BitVec.ofNat 8 (szRegs f.sz)) n th else 0
      let run (start : Memory) (addrs : List (Nat × Nat)) : Memory × (Nat → Nat) :=
        addrs.foldl (fun (acc : Memory × (Nat → Nat)) a =>
          let old := Memory.readNat acc.1 a.2 n
          (Memory.writeNat acc.1 a.2 n (p.2.2.2 old (s.storedValue w f.vd n a.1) (swap a.1)),
            fun th => if th = a.1 then old else acc.2 th)) (start, fun _ => 0)
      let done (t : State) (w' : Warp) (old : Nat → Nat) : Prop :=
        GroupWritten s w t w' (codesFrom f.vd (szRegs f.sz)) take (fun k th => loadedElement f.sz (old th) k)
          ∧ w'.horizon = (if f.qual.getLsbD 1 ∧ f.qual.extractLsb' 4 2 ≠ 0 then BitVec.ofNat 64 s.time else w.horizon)
          ∧ KeepsRegisters w w' ∧ MovedOn w w'
      (∀ addrs, Begins s w p.1 f.pred f.pneg → w.mayStore = true →
        s.checkMemory w (threadsOf take) (s.memAddr w f.sbase f.vidx (f.off.signExtend 64)) n true = .ok addrs →
        (f.qual.getLsbD 2 = true → s.released w s.cur (f.qual.extractLsb' 4 2).toNat = true) →
        (∀ a ∈ addrs, w.storing (a.pa / 128) = false) →
        let r := run s.mem (addrs.map fun a => (a.thread, a.pa))
        ∃ t w', exec p.1 s = .next t ∧ t.curWarp = some w' ∧ done t w' r.2 ∧ ∀ a, Memory.read t.mem a = Memory.read r.1 a) ∧
      (Begins s w p.2.1 f.pred f.pneg → w.mayStore = true →
        (let addr := s.scratchAddr w f.sbase f.vidx (f.off.signExtend 32)
         s.checkScratch w (threadsOf take) addr n true = .ok () →
         (f.qual.getLsbD 2 = true → s.released w s.cur (f.qual.extractLsb' 4 2).toNat = true) →
         let r := run c.scratch ((threadsOf take).map fun th => (th, addr th))
         ∃ t w' c', exec p.2.1 s = .next t ∧ t.curWarp = some w' ∧ done t w' r.2 ∧ SameMemory s t
           ∧ t.caravan? w.caravan = some c' ∧ ∀ a, Memory.read c'.scratch a = Memory.read r.1 a))

/-- R149, R156, R157, R338: a fence that waits for nothing completes: a release changes nothing, an acquire moves HORIZON to now (but at core
scope), and a path fence discards the constant and tile caches of the paths it names, of the core or of both cores of the cluster, and with
path 0 moves HORIZON. One that must wait leaves the state as it is. -/
def Obligations.Fences : Prop :=
  ∀ (s : State) (w : Warp) (scope : BitVec 2) (paths : BitVec 3), s.curWarp = some w →
    let acquired : Warp := if scope = 0 then w else { w with horizon := BitVec.ofNat 64 s.time }
    (s.released w s.cur scope.toNat = true →
      (∃ t, exec (.fenceRel scope) s = .next t ∧ Becomes s t w) ∧
      (∃ t, exec (.fenceFull scope) s = .next t ∧ Becomes s t acquired) ∧
      ∃ t w', exec (.fencePath scope paths) s = .next t ∧ t = { s with warps := t.warps, cores := t.cores } ∧ t.curWarp = some w'
        ∧ OnlyMoves (if paths.getLsbD 0 then { w with horizon := BitVec.ofNat 64 s.time } else w) w'
        ∧ ∀ k, t.core k =
            if k = w.core ∨ (scope ≠ 0 ∧ k / 2 = w.core / 2) then
              { s.core k with constCache := if paths.getLsbD 1 then [] else (s.core k).constCache,
                              tileCache := if paths.getLsbD 2 then [] else (s.core k).tileCache }
            else s.core k) ∧
    (w.mayLoad = true → ∃ t, exec (.fenceAcq scope) s = .next t ∧ Becomes s t acquired) ∧
    (s.released w s.cur scope.toNat = false →
      exec (.fenceRel scope) s = .next s ∧ exec (.fenceFull scope) s = .next s ∧ exec (.fencePath scope paths) s = .next s) ∧
    (w.mayLoad = false → exec (.fenceAcq scope) s = .next s)

/-- R154: `waitm` returns at once, with the watch set empty, where a watch has fired, the halt line is up, or nothing is armed and no limit is
given; otherwise the warp sleeps until a watch fires or a halt line rises, or until its limit, if SA gives one. R155: `pref` never traps and
changes no register and no byte of memory; it completes unless a line it would bring is one on which a store of the warp is still on its
way. Details that the spec leaves to inference are read as assumption log 21 says. -/
def Obligations.LineWaitsAndPrefetch : Prop :=
  (∀ (s : State) (w : Warp) (a : BitVec 6), s.curWarp = some w → (∀ l ∈ w.loads, l.monitor = false) →
     let wakes (x : Warp) : Prop := (∃ y ∈ x.watches, y.fired = true) ∨ s.halted x = true
     (wakes w ∨ (w.watches = [] ∧ w.sreg a = 0) →
       ∃ t, exec (.waitm a) s = .next t ∧ Becomes s t { w with watches := [] }) ∧
     (¬ wakes w → ¬ (w.watches = [] ∧ w.sreg a = 0) → ∃ t w', exec (.waitm a) s = .next t ∧ OnlyCurrent s t
       ∧ t.curWarp = some w'
       ∧ w' = { w with phase := .waiting (.waitm (if w.sreg a = 0 then none else some (s.time + (w.sreg a).toNat))),
                       active := w.active && !w.lastOfRun }) ∧
     (∀ id x limit, s.warp? id = some x → x.phase = .waiting (.waitm limit) →
       (wakes x → ∃ t w', exec (.waitmWake id) s = .next t ∧ t = { s with warps := t.warps } ∧ t.warp? id = some w'
         ∧ OnlyMoves { x with watches := [] } w') ∧
       (∀ n, limit = some n → n ≤ s.time → ∃ t w', exec (.waitmTimeout id) s = .next t ∧ t = { s with warps := t.warps }
         ∧ t.warp? id = some w' ∧ OnlyMoves { x with watches := [] } w'))) ∧
  (∀ (s : State) (w : Warp) (f : MForm), s.curWarp = some w → Ready s w (.pref f) → w.stores = [] →
     ∃ t w', exec (.pref f) s = .next t ∧ t.curWarp = some w' ∧ OnlyMoves { w with watches := w'.watches } w'
       ∧ w'.watches.map (fun x => x.line) = w.watches.map (fun x => x.line) ∧ SameMemory s t ∧ t.caravans = s.caravans
       ∧ ∀ id x, id ≠ s.cur → s.warp? id = some x → ∃ l, t.warp? id = some { x with watches := l })

/-! ### Batches, records, parties, shared registers and quotas -/

/-- R83, R209, R210, R338: `mfence` closes the warp's open set into the batch numbered one above the last and writes its number to SD; a batch
with nothing left is complete at once, and its flags reach FLAGS. `mwait` for a number up to which every batch is complete goes on with
HORIZON at now, the operations of those batches settled; otherwise the warp waits until it is so, unless a halt stops it there first. A number ahead of the last batch is taken
as the last. Details that the spec leaves to inference are read as assumption log 39 says. -/
def Obligations.Batches : Prop :=
  ∀ (s : State) (id : Nat) (w : Warp) (d a : BitVec 6), s.warp? id = some w → (∀ b ∈ w.batches, b.ops ≠ []) →
    let mine (k : Nat) : Prop := k = w.core ∨ k = otherCore w.core
    let n := w.batch + 1
    let close (k : Nat) : Core :=
      { s.core k with matrixQueue := (s.core k).matrixQueue.map fun o => if o.id ∈ w.openOps then { o with batch := some n } else o,
                      unsettled := (s.core k).unsettled.map fun u =>
                        if u.warp = id ∧ u.batch = none ∧ u.open_ = true then { u with batch := some n, open_ := false } else u }
    let closed : Warp :=
      { w with batch := n, openAll := [], openOps := [], openFlags := 0,
               inFlight := w.inFlight + ((s.core w.core).matrixQueue.filter fun o => o.id ∈ w.openOps ∧ o.kind.code ≠ 0).length }
    let x : Warp :=
      if w.openOps = [] ∧ w.batches = [] then Warp.progressOver { closed with flags := w.flags ||| w.openFlags } w.openAll
      else { closed with batches := w.batches ++ [⟨n, w.openAll, w.openOps, w.openFlags⟩] }
    let upTo (m b : Word) : Prop := (m - b).toNat < 2 ^ 31
    let keep (m : Word) (u : Unsettled) : Bool := u.warp != id || u.batch.all fun b => !decide (upTo m b)
    let number (m : Word) : Word := if upTo w.batch m then m else w.batch
    let settled (m : Word) (t : State) : Prop := (∃ w', t.warp? id = some w'
        ∧ OnlyMoves { w with horizon := BitVec.ofNat 64 s.time } w')
      ∧ t = { s with warps := t.warps, cores := t.cores } ∧ (∀ j, j ≠ id → t.warp? j = s.warp? j)
      ∧ ∀ k, (¬ mine k → t.core k = s.core k)
        ∧ (mine k → t.core k = { s.core k with unsettled := (s.core k).unsettled.filter (keep m) })
    (s.cur = id →
      ∃ t w', exec (.mfence d) s = .next t ∧ t = { s with warps := t.warps, cores := t.cores } ∧ t.warp? id = some w'
        ∧ WritesScalar x w' d n ∧ SameVectors x w' ∧ SameTemps x w' ∧ w'.flags = x.flags ∧ Keeps x w'
        ∧ (∀ j, j ≠ id → t.warp? j = s.warp? j) ∧ ∀ k, (¬ mine k → t.core k = s.core k) ∧ (mine k → t.core k = close k)) ∧
    (s.cur = id → let m := number (w.sreg a)
      ((∀ b ∈ w.batches, ¬ upTo m b.number) → ∃ t, exec (.mwait a) s = .next t ∧ settled m t) ∧
      (¬ (∀ b ∈ w.batches, ¬ upTo m b.number) → ∃ t, exec (.mwait a) s = .next t ∧ OnlyCurrent s t
        ∧ t.warp? id = some { w with phase := .waiting (.mwait m), active := w.active && !w.lastOfRun })) ∧
    ∀ m, w.phase = .waiting (.mwait m) → (∀ b ∈ w.batches, ¬ upTo m b.number) → s.stopping w = false →
      ∃ t, exec (.mwaitReturn id) s = .next t ∧ settled m t

/-- R232, R235, R236, R338, R350: `evpop` returns the oldest completion record of the warp in a pair, or zeros where it has none; `evwait` does
so once there is one, or at once where nothing of the warp that is in flight will bring one, and waits otherwise. A record returned carries
the number of records lost since the last, at most 255, and moves HORIZON to now. `join` goes on once no child is open, and moves HORIZON to
now. A warp that a halt stops goes on after none of these waits. Details that the spec leaves to inference are read as assumption log 39 says. -/
def Obligations.RecordsAndChildren : Prop :=
  ∀ (s : State) (id : Nat) (w : Warp) (d : BitVec 6) (f : EForm), s.warp? id = some w → d.getLsbD 0 = false →
    let now := BitVec.ofNat 64 s.time
    let word : DWord := match w.records with
      | [] => 0
      | r :: _ => BitVec.ofNat 64 (r.tag.toNat + r.engine.toNat * 2 ^ 32 + r.status.toNat * 2 ^ 40 + min 255 w.overrun * 2 ^ 56)
    let x : Warp := if w.records = [] then w
      else { w with records := w.records.tail, overrun := 0, lostOps := [], horizon := now }
    let popped (t : State) : Prop := t = { s with warps := t.warps, cores := t.cores } ∧ (∀ j, j ≠ id → t.warp? j = s.warp? j)
      ∧ (w.records = [] → ∀ k, t.core k = s.core k) ∧ (∀ k, t.core k = { s.core k with unsettled := (t.core k).unsettled })
      ∧ ∃ w', t.warp? id = some w' ∧ WritesPair x w' d word ∧ SameVectors x w' ∧ SameTemps x w' ∧ w'.flags = w.flags ∧ Keeps x w'
    let ready : Prop := w.records ≠ [] ∨ (w.inFlight = 0 ∧ w.recChildren = 0)
    let joined (t : State) : Prop := t = { s with warps := t.warps } ∧ (∀ j, j ≠ id → t.warp? j = s.warp? j)
      ∧ ∃ w', t.warp? id = some w' ∧ OnlyMoves { w with horizon := now } w'
    (s.cur = id →
      (∃ t, exec (.evpop d) s = .next t ∧ popped t) ∧
      (ready → ∃ t, exec (.evwait d) s = .next t ∧ popped t) ∧
      (¬ ready → ∃ t, exec (.evwait d) s = .next t ∧ OnlyCurrent s t
        ∧ t.warp? id = some { w with phase := .waiting (.evwait d), active := w.active && !w.lastOfRun }) ∧
      (Ready s w (.join f) → w.children = 0 → ∃ t, exec (.join f) s = .next t ∧ joined t) ∧
      (Ready s w (.join f) → w.children ≠ 0 → ∃ t, exec (.join f) s = .next t ∧ OnlyCurrent s t
        ∧ t.warp? id = some { w with phase := .waiting .join, active := w.active && !w.lastOfRun })) ∧
    (w.phase = .waiting (.evwait d) → ready → s.stopping w = false → ∃ t, exec (.evwaitReturn id) s = .next t ∧ popped t) ∧
    (w.phase = .waiting .join → w.children = 0 → s.stopping w = false → w.spilledRegs = false →
      (∀ c ∈ (s.core w.core).claims, c.kind ≠ .restore id) → ∃ t, exec (.joinReturn id) s = .next t ∧ joined t)

/-- R249, R250, R251, R252: `bar` and `bar.arrive` count an arrival at the phase of a party, which is over when its arrivals equal its members;
`bar.arrive` goes on, and `bar` and `bar.wait` go on when the phase they wait for is over and otherwise leave their slot until it is, the
rest of the run to follow. A slot the caravan does not use, a second arrival in a phase and a wait without an arrival are *party illegal*. The
warps of a cycle act on a party in the ascending order of their ordinals: one whose turn has passed waits for the next cycle. The run at
which a `bar` that ends its run waits is a DESIGN CHOICE (assumption log 54). -/
def Obligations.Parties : Prop :=
  (∀ (s : State) (w : Warp) (slot : BitVec 2), s.curWarp = some w → s.usesSlot w slot.toNat = false → HandlerFree w →
    ∀ i ∈ [Instr.bar slot, .barArrive slot, .barWait slot], ∃ t, exec i s = .next t
      ∧ Entered s w t 0x0F (Warp.runHere w) (BitVec.ofNat 32 w.idx) 0 0) ∧
  ∀ (s : State) (id : Nat) (w : Warp) (slot : BitVec 2) (p : Party), s.warp? id = some w → s.party? w slot.toNat = some p →
    let k := slot.toNat
    let mine := w.arrival.getD k none
    let turn : Bool := p.inTurn (s.cycleOf w.core) w.ordinal
    let more : Party := { p with arrived := p.arrived + 1, last := some (s.cycleOf w.core, w.ordinal) }
    let q : Party := if more.arrived ≠ 0 ∧ more.arrived = p.members then { p with arrived := 0, phase := p.phase + 1 } else more
    let arrives (t : State) : Prop := t = { s with warps := t.warps, clusters := t.clusters } ∧ t.party? w k = some q
      ∧ (∀ n, s.partyEntry w k ≠ some n → Tbl.find (t.cluster (w.core / 2)).parties n = Tbl.find (s.cluster (w.core / 2)).parties n)
      ∧ ∀ j, j ≠ id → t.warp? j = s.warp? j
    let moves (t : State) (a : Option Word) : Prop := ∃ w', t.warp? id = some w'
      ∧ OnlyMoves { w with arrival := listPut none w.arrival k a } w'
    let waits (t : State) (a : Word) : Prop := ∃ w', t.warp? id = some w' ∧ w'.phase = .waiting (.bar k a) ∧ w'.active = false
      ∧ w'.run = none ∧ w'.arrival.getD k none = some a ∧ KeepsRegisters w w' ∧ SameVectors w w'
      ∧ (w.lastOfRun = false → w'.next = Warp.runHere w ∧ w'.resume = some (w.idx + 1))
      ∧ (w.lastOfRun = true → w.run.isSome = true → w'.resume = none)
    (s.cur = id → turn = true → s.usesSlot w k = true →
      (mine ≠ some p.phase → s.released w id 0 = true →
        (∃ t, exec (.barArrive slot) s = .next t ∧ arrives t ∧ moves t (some p.phase)) ∧
        ∃ t, exec (.bar slot) s = .next t ∧ arrives t ∧ (q.phase ≠ p.phase → moves t none)
          ∧ (q.phase = p.phase → waits t p.phase)) ∧
      (∀ a, mine = some a → ∃ t, exec (.barWait slot) s = .next t ∧ OnlyCurrent s t ∧ (p.phase ≠ a → moves t none)
        ∧ (p.phase = a → w.loads = [] → waits t a))) ∧
    (s.cur = id → turn = false → s.usesSlot w k = true →
      ∀ i ∈ [Instr.bar slot, .barArrive slot, .barWait slot], exec i s = .next s) ∧
    (∀ a, w.phase = .waiting (.bar k a) → p.phase ≠ a →
      ∃ t, exec (.barRelease id) s = .next t ∧ t = { s with warps := t.warps } ∧ (∀ j, j ≠ id → t.warp? j = s.warp? j)
        ∧ t.warp? id = some { w with arrival := listPut none w.arrival k none, phase := .fetch }) ∧
    (s.cur = id → turn = true → HandlerFree w → s.usesSlot w k = true → ∀ i ∈ [Instr.bar slot, .barArrive slot, .barWait slot],
      (i = .barWait slot ∧ mine = none) ∨ (i ≠ .barWait slot ∧ mine = some p.phase) →
      ∃ t, exec i s = .next t ∧ Entered s w t 0x0F (Warp.runHere w) (BitVec.ofNat 32 w.idx) 0 0)

/-- R189, R190, R193, R194, R195, R258: in a flat caravan `crd` reads the visible value of a shared register, and `cwr`, `cadd` and `ccas` act
on its current value, SD taking the old one; a value made in one cycle is visible from the fourth after it on. The warps of a cycle operate
in the ascending order of their ordinals: one whose turn has passed waits for the next cycle. In another caravan these leave 0
in SD and set TINFO bit 0. `hrel` relays a track its pass has not written: the slot takes the predecessor's value, at once or when that is
present. `perf` and `vperf` put their context's request to the cluster, `vperf` the largest of its threads, at most 3; the
last stands, and of those that warps of the context make in one cycle the largest. Details that the spec
leaves to inference are read as assumption log 40 says. -/
def Obligations.SharedAndRequests : Prop :=
  ∀ (s : State) (w : Warp) (c : Caravan) (d a : BitVec 6) (index : BitVec 12) (level : BitVec 2) (f : VForm),
    s.curWarp = some w → s.caravan? w.caravan = some c →
    let n := index.toNat
    let old := c.shared.getD n 0
    let x := w.sreg a
    let cycle := s.cycleOf w.core
    let shown (k : Nat) (now : Int) : Word :=
      match (c.updates.filter fun u => u.index == k && decide (u.cycle + 4 ≤ now)).getLast? with
      | some u => u.value
      | none => c.visible.getD k 0
    let others (t : State) : Prop := ∀ id, id ≠ s.cur → t.warp? id = s.warp? id
    (n < 32 → c.record.stages = 1 →
      (∃ t, exec (.crd d index) s = .next t ∧ ScalarResult s w t d (shown n cycle)) ∧
      ∀ p ∈ [(Instr.cwr a index, (0 : BitVec 6), some x), (.cadd d a index, d, some (old + x)),
             (.ccas d a index, d, if old = w.sreg d then some x else none)],
        (c.sharedTurn cycle w.ordinal = false → exec p.1 s = .next s) ∧
        (c.sharedTurn cycle w.ordinal = true → ∃ t w', exec p.1 s = .next t ∧ t.curWarp = some w' ∧ others t
          ∧ t = { s with warps := t.warps, caravans := Tbl.put s.caravans w.caravan (match p.2.2 with
              | some v => { c with lastShared := some (cycle, w.ordinal), shared := listPut 0 c.shared n v,
                                   updates := c.updates ++ [⟨n, v, s.cur, cycle⟩] }
              | none => { c with lastShared := some (cycle, w.ordinal) }) }
          ∧ WritesScalar w w' p.2.1 old ∧ SameVectors w w' ∧ SameTemps w w' ∧ w'.flags = w.flags ∧ Keeps w w')) ∧
    (n < 32 → c.record.stages ≠ 1 → ∀ p ∈ [(Instr.crd d index, d), (.cwr a index, (0 : BitVec 6)), (.cadd d a index, d), (.ccas d a index, d)],
      ∃ t w', exec p.1 s = .next t ∧ OnlyCurrent s t ∧ t.curWarp = some w' ∧ (∀ r, w'.sreg r = if r = p.2 ∧ ¬ Fixed r then 0 else w.sreg r)
        ∧ w'.tinfo = w.tinfo ||| 1 ∧ SameVectors w w' ∧ SameTemps w w' ∧ w'.flags = w.flags ∧ Keeps w w') ∧
    (let now := s.cycleOf (c.core.getD 0)
     let settled : Caravan :=
       { c with visible := listPut 0 c.visible n (shown n now),
                updates := c.updates.filter fun u => !(u.index == n && decide (u.cycle + 4 ≤ now)) }
     exec (.sharedRegisterVisible w.caravan n) s = .next { s with caravans := Tbl.put s.caravans w.caravan settled }) ∧
    (∀ i pass, (i = Instr.hrel index ∧ pass = w.pass ∧ Ready s w i ∧ c.wroteTrack w.pass n = false)
        ∨ (i = .relayCopy w.caravan pass n ∧ (c.slot n pass).relayPending = true ∧ (c.slot n pass).tag = pass
          ∧ c.met n pass 1 = true) →
      ∃ t c', exec i s = .next t ∧ t.caravan? w.caravan = some c' ∧ others t
        ∧ t = { s with warps := t.warps, caravans := Tbl.put s.caravans w.caravan c' }
        ∧ (c'.slot n pass).tag = pass ∧ ((c'.slot n pass).relayPending = !(c.met n pass 1))
        ∧ (c.met n pass 1 = true → (c'.slot n pass).present = true ∧ (c'.slot n pass).value = c.passValue n pass 1)
        ∧ (∀ k j, k ≠ n ∨ j % 16 ≠ pass % 16 → c'.slot k j = c.slot k j)
        ∧ (i = .hrel index → (index.toNat < 16 → c'.wroteTrack w.pass n = true) ∧ ∃ w', t.curWarp = some w' ∧ OnlyMoves w w')
        ∧ (i ≠ .hrel index → t.warps = s.warps)) ∧
    (let cluster := s.cluster (w.core / 2)
     let before : Tbl (BitVec 2) := match Tbl.find cluster.asked w.ctx with
       | some (at_, l) => if at_ = cycle then l else []
       | none => []
     let asks (l : BitVec 2) : Tbl (BitVec 2) := Tbl.put before s.cur l
     let requests (t : State) (l : BitVec 2) : Prop := (∃ w', t.curWarp = some w' ∧ OnlyMoves w w') ∧ others t
       ∧ ∃ r : BitVec 2, (∀ p ∈ asks l, p.2.toNat ≤ r.toNat) ∧ (∃ p ∈ asks l, p.2 = r)
         ∧ t = { s with warps := t.warps, clusters := Tbl.put s.clusters (w.core / 2) { cluster with
             requests := Tbl.put cluster.requests w.ctx r, asked := Tbl.put cluster.asked w.ctx (cycle, asks l) } }
     (∃ t, exec (.perf level) s = .next t ∧ requests t level) ∧
     (Ready s w (.vperf f) → s.takes w f.pred f.pneg = 0 → ∃ t, exec (.vperf f) s = .next t ∧ Becomes s t w) ∧
     (Ready s w (.vperf f) → s.takes w f.pred f.pneg ≠ 0 → ∃ t l, exec (.vperf f) s = .next t ∧ requests t (BitVec.ofNat 2 l)
        ∧ (∀ th < 96, (s.takes w f.pred f.pneg).getLsbD th = true → min (s.opB w f th).toNat 3 ≤ l)
        ∧ ∃ th < 96, (s.takes w f.pred f.pneg).getLsbD th = true ∧ min (s.opB w f th).toNat 3 = l))

/-! ### Quotas, claims, and the life of a warp -/

/-- R173, R174, R175: `vgrow` to no more than the quota, and `vshrk` to no less, only complete. `vgrow` takes its registers from the free store
at once where its claim would be the oldest of the core and fits; otherwise it leaves its claim and its slot, and stands before itself.
`vshrk` gives registers back. A load of the warp that these would leave its registers without is waited for. R176: when every resident warp of a core is blocked in a `vgrow`, or one is and nothing
has issued for 4,096 cycles, the quota arbiter frees registers for the oldest of the blocked: it spills others, each to the vector area of
its frame with a claim for its return (which one that waits in `join` makes later, R350), and none where the store already holds enough. The
oldest is granted its quota, unless it lacks registers when all the others are spilled, no load of theirs being on its way. Details that the spec leaves to inference are read as assumption log 20 says. -/
def Obligations.QuotaChanges : Prop :=
  (∀ (s : State) (w : Warp) (count : BitVec 12), s.curWarp = some w → Ready s w (.vgrow count) → Ready s w (.vshrk count) →
     let n := count.toNat
     let k := s.core w.core
     let core (t : State) (c : Core) : Prop := t = { s with warps := t.warps, cores := t.cores }
       ∧ (∀ j, t.core j = if j = w.core then c else s.core j) ∧ ∀ id, id ≠ s.cur → t.warp? id = s.warp? id
     let served : Prop := (∀ x ∈ k.claims, older w.ordinal x.ordinal = true) ∧ n - w.quota ≤ k.free
     (n ≤ w.quota → ∃ t, exec (.vgrow count) s = .next t ∧ Becomes s t w) ∧
     (w.quota < n → served → ∃ t w', exec (.vgrow count) s = .next t ∧ core t { k with free := k.free - (n - w.quota) }
       ∧ t.curWarp = some w' ∧ OnlyMoves { w with quota := n } w') ∧
     (w.quota < n → ¬ served → w.loads = [] → ∃ t w', exec (.vgrow count) s = .next t
       ∧ core t { k with claims := k.claims ++ [⟨w.ordinal, n - w.quota, .grow s.cur n⟩] }
       ∧ t.curWarp = some w' ∧ w'.phase = .waiting (.vgrow n) ∧ w'.active = false
       ∧ (∀ r, w.run = some r → w.idx < r.len → w'.next = r.header ∧ w'.resume = some w.idx)
       ∧ KeepsRegisters w w' ∧ SameVectors w w') ∧
     (w.quota ≤ n → ∃ t, exec (.vshrk count) s = .next t ∧ Becomes s t w) ∧
     (n < w.quota → (∀ l ∈ w.loads, l.above n = false) → ∃ t w', exec (.vshrk count) s = .next t ∧ core t { k with free := k.free + (w.quota - n) }
       ∧ t.curWarp = some w' ∧ OnlyMoves { w with quota := n, vregs := w.vregs.take n } w')) ∧
  (∀ (s : State) (core a n : Nat) (w : Warp), (s.warps.map fun p => p.1).Nodup → s.warp? a = some w → w.core = core → core < 576 →
     w.phase = .waiting (.vgrow n) → w.spilledRegs = false →
     let here (id : Nat) (x : Warp) : Prop := s.warp? id = some x ∧ x.core = core ∧ x.phase ≠ .stopped
     let blocked (x : Warp) : Prop := ∃ m, x.phase = .waiting (.vgrow m)
     (∀ id x, here id x → id ≠ a → blocked x → older w.ordinal x.ordinal = true) →
     ((∀ id x, here id x → blocked x) ∨ 4096 ≤ s.cycleOf core - (s.core core).lastIssue) →
     ∃ t, exec (.quotaArbiter core) s = .next t
       ∧ (∀ id x, s.warp? id = some x → id ≠ a → ∃ l, t.warp? id = some { x with watches := l } ∨ (here id x ∧ x.spilledRegs = false
           ∧ t.warp? id = some { x with vregs := [], spilledRegs := true, watches := l }
           ∧ (x.phase = .waiting .join ∨ ⟨x.ordinal, x.quota, .restore id⟩ ∈ (t.core core).claims)))
       ∧ (n - w.quota ≤ (s.core core).free → ∀ id, id ≠ a → t.warp? id = s.warp? id)
       ∧ (∃ l, t.warp? a = some { w with quota := n, phase := .fetch, watches := l }
         ∨ (t.warp? a = some { w with watches := l } ∧ ∀ id x, here id x → id ≠ a → (∃ x', t.warp? id = some x' ∧ x'.spilledRegs = true)
             ∨ ∃ j y, here j y ∧ y.loads ≠ []))
       ∧ (∀ addr, (∀ id x, here id x → id ≠ a → addr < x.frame ∨ x.frame + 384 * x.quota ≤ addr) →
           Memory.read t.mem addr = Memory.read s.mem addr)
       ∧ ((∀ i x j y, here i x → here j y → i ≠ j →
             x.frame + 384 * x.quota ≤ y.frame ∨ y.frame + 384 * y.quota ≤ x.frame) →
           ∀ id x x', s.warp? id = some x → id ≠ a → x.spilledRegs = false → t.warp? id = some x' → x'.spilledRegs = true → ∀ v < x.quota, ∀ th < 96,
             Memory.readWord t.mem (x.frame + 384 * v + 4 * th) = lane (listGet [] x.vregs v) th))

/-- R51, R173, R175, R176, R178: the oldest claim of a core is served once it fits. A blocked `vgrow` has its quota and issues again; a spilled
warp has its registers back; and a pass of a caravan begins: its argument words, pass number, index and base in the scalars, every thread
active (or the threads that have a task), its task words or zero in the vector registers, predicates false, the stack empty, FLAGS, FPCTL
and the timer comparator zero. Details that the spec leaves to inference are read as assumption logs 5 and 14 say. -/
def Obligations.Claims : Prop :=
  ∀ (s : State) (core : Nat) (c : Claim) (rest : List Claim), (s.core core).claims = c :: rest →
    (∀ x ∈ rest, older c.ordinal x.ordinal = true) → c.size ≤ (s.core core).free → core < 576 →
    let taken : Core := { s.core core with free := (s.core core).free - c.size, claims := rest }
    let cores (t : State) : Prop := ∀ k, t.core k = if k = core then taken else s.core k
    (∀ id n w, c.kind = .grow id n → s.warp? id = some w →
      ∃ t, exec (.claimServe core) s = .next t ∧ t = { s with warps := t.warps, cores := t.cores } ∧ cores t
        ∧ t.warp? id = some { w with quota := n, phase := .fetch } ∧ ∀ j, j ≠ id → t.warp? j = s.warp? j) ∧
    (∀ id w, c.kind = .restore id → s.warp? id = some w → (∀ n, w.phase ≠ .waiting (.vgrow n)) →
      ∃ t w', exec (.claimServe core) s = .next t ∧ t = { s with warps := t.warps, cores := t.cores } ∧ cores t
        ∧ t.warp? id = some w' ∧ w' = { w with vregs := w'.vregs, spilledRegs := false }
        ∧ (∀ n < w.quota, ∀ th < 96, lane (listGet [] w'.vregs n) th = Memory.readWord s.mem (w.frame + 384 * n + 4 * th))
        ∧ ∀ j, j ≠ id → t.warp? j = s.warp? j) ∧
    (∀ id pass x frame ctx, c.kind = .launch id pass → s.caravan? id = some x → x.core = some core → s.freeFrame x.ctx = some frame →
      Tbl.find s.contexts x.ctx = some ctx → (s.warps.filter fun p => p.2.core == core).length < 256 →
      let n := x.taskWords.length
      ∃ t w, exec (.claimServe core) s = .next t ∧ cores t ∧ SameMemory s t ∧ t.nextId = s.nextId + 1 ∧ t.warp? s.nextId = some w
        ∧ (∀ j, j ≠ s.nextId → t.warp? j = s.warp? j)
        ∧ w.ctx = x.ctx ∧ w.core = core ∧ w.caravan = id ∧ w.pass = pass ∧ w.ordinal = c.ordinal ∧ w.quota = 8 * x.record.quota
        ∧ (∀ r : BitVec 6, 1 ≤ r.toNat → r.toNat ≤ 55 → w.sreg r = x.args.getD (r.toNat - 1) 0)
        ∧ w.sreg 56 = BitVec.ofNat 32 pass ∧ w.sreg 57 = BitVec.ofNat 32 w.widx ∧ w.spair 58 = BitVec.ofNat 64 x.record.dbase
        ∧ w.sreg 60 = 0 ∧ (∀ th < 96, w.mask.getLsbD th = (decide (n = 0) || decide (th < n)))
        ∧ (∀ v th, th < 96 → lane (listGet [] w.vregs v) th =
            match v, x.taskWords[th]? with
            | 0, some p => p.1
            | 1, some p => p.2
            | _, _ => 0)
        ∧ (∀ p < 7, w.predicate p = 0) ∧ w.stack = [] ∧ w.spilled = 0 ∧ w.flags = 0 ∧ w.fpctl = 0 ∧ w.timer = 0
        ∧ w.phase = .fetch ∧ w.next = x.record.entry)

/-- R20, R21, R23, R59, R101, R253, R257: at a warp's next offset the words of a whole run are fetched, and where they pass predecode the warp
stands ready at the run's boundary, its charge fixed. A bad header, and the first instruction that fails predecode, are traps of the run,
where nothing else is due at its boundary.
The scheduler issues the run of a warp that may run and whose charge the bucket holds: the warp is current, at the first instruction of its
run or at the one where it resumes, its temporaries zero, and the charge is taken. Details that the spec leaves to inference are read as
assumption log 10 says. -/
def Obligations.RunsBegin : Prop :=
  ∀ (s : State) (id : Nat) (x : Warp) (c : Caravan), s.warp? id = some x → s.caravan? x.caravan = some c →
    (x.phase = .fetch → x.debugHalted = false → s.mustStop x = false → x.resume = none →
      let words := fetchWords (s.codeWord x.core c) c.codeSize x.next
      let quiet (run : Run) : Prop := HandlerFree x ∧ s.cur = id ∧ s.boundary id x run = none
      (∀ ws, words = .words ws →
        let run0 := runOf x.next ws 0
        let run := { run0 with cost := chargeOf run0.raws (s.cluster (x.core / 2)).power.weights }
        (predecode run c.record.tracks s.featAccept = none → ∃ t, exec (.runFetch id) s = .next t
          ∧ t = { s with warps := t.warps } ∧ t.warp? id = some { x with run := some run, phase := .boundary }
          ∧ ∀ j, j ≠ id → t.warp? j = s.warp? j) ∧
        (∀ i cause, predecode run c.record.tracks s.featAccept = some (i, cause) → quiet run → ∃ t, exec (.runFetch id) s = .next t
          ∧ Entered s x t cause.code.toNat x.next (BitVec.ofNat 32 i) (if cause = .illegalOperand then 0x000F0000 else 0) 0)) ∧
      (words = .bad → quiet (s.headerRun x c) → ∃ t, exec (.runFetch id) s = .next t ∧ Entered s x t 0x02 x.next 0xFFFFFFFF 0 0)) ∧
    (∀ run sched, x.phase = .boundary → x.run = some run → x.active = true → s.eligible x = true → s.onSched x.core sched = [(id, x)] →
      sched < 4 → x.core < 576 → s.boundary id x run = none → (s.cluster (x.core / 2)).power.mayTest (4 * (x.core % 2) + sched) = true →
      s.bucketHolds (x.core / 2) x.ctx run = true →
      ∃ t w, exec (.runIssue x.core sched 0) s = .next t ∧ t.cur = id ∧ t.warp? id = some w ∧ SameMemory s t
        ∧ w.phase = .issuing ∧ w.run = some run ∧ w.idx = x.resume.getD 0 ∧ w.resume = none ∧ w.temps = []
        ∧ SameIdentity x w ∧ SameScalars x w ∧ SameVectors x w ∧ SameStack x w ∧ SameUnits x w ∧ w.flags = x.flags
        ∧ (∀ j, j ≠ id → t.warp? j = s.warp? j)
        ∧ Tbl.findD (t.cluster (x.core / 2)).power.levels x.ctx 0
            = Tbl.findD (s.cluster (x.core / 2)).power.levels x.ctx 0 - min (run.cost * 256) (s.bucketCap (x.core / 2) x.ctx))

/-- R64, R65, R66, R165, R356, R358: under a raised halt line a warp at a run boundary whose loads are done stops: its registers are
kept, the vector registers in the vector area of its frame, but those that the safe point it stands at marks as not live, which hold
zero; its temporaries and watches are gone; a stop record of 32 bytes names it. A warp in a masked handler defers, until 20
microseconds after the rise. Details that the spec leaves to inference are read as assumption logs 20, 31 and 46 say. -/
def Obligations.WarpStops : Prop :=
  ∀ (s : State) (id : Nat) (w : Warp), s.warp? id = some w → s.halted w = true →
    (let held (v th : Nat) : Word := lane (listGet [] (s.vregsOf w) v) th
     (w.phase = .fetch ∨ w.phase = .boundary) → w.resume = none → (w.handlerActive = true → w.trapMask = false) → w.loads = [] →
      ∃ t w' r, exec (.warpStop id) s = .next t ∧ t.warp? id = some w' ∧ w'.phase = .stopped ∧ w'.active = false
        ∧ (∀ a, a < w.frame ∨ w.frame + 384 * w.quota ≤ a → Memory.read t.mem a = Memory.read s.mem a)
        ∧ w'.run = none ∧ w'.next = w.next ∧ w'.watches = [] ∧ w'.temps = []
        ∧ (s.safePointOf w = none → SameScalars w w' ∧ w'.preds = w.preds
          ∧ ∀ v < w.quota, ∀ th < 96, lane (listGet [] (t.vregsOf w') v) th = held v th)
        ∧ (∀ p, s.safePointOf w = some p → (∀ r : BitVec 6, p.slive.getLsbD r.toNat = true → w'.sreg r = w.sreg r)
          ∧ (∀ r : BitVec 6, p.slive.getLsbD r.toNat = false → r.toNat < 56 ∨ r.toNat = 60 → w'.sreg r = 0)
          ∧ ∀ v < w.quota, ∀ th < 96, lane (listGet [] (t.vregsOf w') v) th = if p.vlive.getLsbD v then held v th else 0)
        ∧ SameStack w w' ∧ w'.flags = w.flags ∧ w'.fpctl = w.fpctl ∧ w'.tvec = w.tvec
        ∧ (Tbl.findD t.partitions (s.partitionOf w.ctx) Partition.initial).stops =
            (Tbl.findD s.partitions (s.partitionOf w.ctx) Partition.initial).stops ++ [r]
        ∧ r.length = 32 ∧ r.getD 0 1 = 0 ∧ bytesNat ((r.drop 4).take 4) = w.core % 2 ^ 32
        ∧ bytesNat ((r.drop 8).take 4) = w.caravan % 2 ^ 32 ∧ bytesNat ((r.drop 12).take 4) = w.pass % 2 ^ 32
        ∧ bytesNat (r.drop 24) = s.time % 2 ^ 64
        ∧ ∀ j x, j ≠ id → s.warp? j = some x → ∃ l, t.warp? j = some { x with watches := l }) ∧
    (∀ rise, (Tbl.findD s.partitions (s.partitionOf w.ctx) Partition.initial).halt = some rise → rise + 20000 ≤ s.time →
      w.handlerActive = true → w.trapMask = true → ∃ t, exec (.haltDeferTimeout id) s = .next t
        ∧ t = { s with warps := t.warps } ∧ t.warp? id = some { w with deferred := true, wasDeferred := true }
        ∧ ∀ j, j ≠ id → t.warp? j = s.warp? j)

/-- R105, R166, R167, R178, R181: a warp whose last threads exited, or that a cause ended, is gone once its loads, stores and operations are
done and its reports are posted: its pass has ended, its status slot holds the cause and where it ended, and its quota is back in the free
store. Once every pass of a
caravan has ended and every relay is filled, DONE is written, and the caravan, without children, is gone. R178, R181, R298, R299, R300: a
caravan is complete when every pass of it has ended, no relay is open and no copy into it is in flight: once the writes of its status area
before it are complete DONE is written, its registers are back, and it goes if it has no open child. PLACEMENT puts the caravan at a place of a die's waiting list whole on the core with the most
free registers among those it fits, and launches its first pass. That a copy from the peer core holds the whole completion back is a
DESIGN CHOICE (assumption log 54). -/
def Obligations.PassesAndCaravansEnd : Prop :=
  (∀ (s : State) (id : Nat) (w : Warp) (c : Caravan), s.warp? id = some w → s.caravan? w.caravan = some c →
     w.trace = none → s.drained id w = true → w.spilledRegs = false → w.step = none → w.watchHits = [none, none, none, none] →
     s.posting id = false → c.partyBase = [] →
     let mark (how : Ending) : Nat := (if how.inHandler then 2 ^ 8 else 0) + (if how.noHandler then 2 ^ 9 else 0)
       + (if how.fatalTret then 2 ^ 10 else 0) + w.lastOrd % 4096 * 2 ^ 16
     (∀ how header, (w.phase = .retiring header ∧ how = ⟨0, false, false, false⟩)
         ∨ (w.phase = .terminating how ∧ how.cause ≠ 0 ∧ how.cause ≠ 0xFF ∧ header = w.trun.toNat) →
       let i := if how.cause = 0 then Instr.retireComplete id else .terminateComplete id
       let ending : Caravan := { c.relayAll w.pass with
         ended := c.ended ++ [w.pass], terminated := if how.cause = 0 then c.terminated else c.terminated ++ [w.pass] }
       let written := s.writeStatus id w ending (how.cause.toNat + mark how) header
       written.2 = true → ∃ t, exec i s = .next t ∧ t.warp? id = none ∧ (∀ j, s.warp? j = none → t.warp? j = none)
         ∧ (∀ a, Memory.read t.mem a = Memory.read written.1.mem a)
         ∧ (∃ c', t.caravan? w.caravan = some c' ∧ c'.ended = ending.ended ∧ c'.terminated = ending.terminated
           ∧ c'.tracks = if w.departed then c.tracks else ending.tracks)
         ∧ (t.core w.core).free = (s.core w.core).free + w.quota)) ∧
  ((∀ (s : State) (id core pa : Nat) (c : Caravan), s.caravan? id = some c → c.core = some core → c.done = false →
     c.passes ≤ c.ended.length → (∀ t ∈ c.tracks, ∀ x ∈ t, x.relayPending = false) → s.copiedInto id core = false →
     c.settled ≤ s.time → s.partReach (.done id) core c.ctx (c.record.statAddr + 24) true = .go pa → c.openChildren = 0 → c.finished = false → c.parent = none →
     c.parentCaravan = none →
     ∃ t, exec (.caravanComplete id) s = .next t ∧ t.caravan? id = none ∧ (∀ j, j ≠ id → t.caravan? j = s.caravan? j)
       ∧ (∀ a, Memory.read t.mem a = if pa ≤ a ∧ a < pa + 4 then (natBytes 4 1).getD (a - pa) 0 else Memory.read s.mem a)
       ∧ (t.core core).free = (s.core core).free + 16 * c.record.tracks
       ∧ (∀ l, Tbl.find s.launches c.launch = some l → Tbl.find t.launches c.launch = some { l with counter := l.counter - 1 })) ∧
   ∀ (s : State) (die id core frame : Nat) (c : Caravan) (ctx : Context), (s.die die).waiting = [id] → s.caravan? id = some c →
     Tbl.find s.contexts c.ctx = some ctx → c.stage = .die die → c.record.parties = 0 → s.seedWaits c = false →
     (Tbl.findD s.partitions ctx.partition Partition.initial).halt = none → s.budgetAllows c die core = true →
     s.freeFrame c.ctx = some frame → ctx.frames.length + ctx.stopFrames.length + 1 ≤ ctx.nframes →
     core ∈ s.coresOf ctx.partition die → s.fits c core = true →
     (∀ k ∈ s.coresOf ctx.partition die, s.fits c k = true →
       (s.core k).free < (s.core core).free ∨ ((s.core k).free = (s.core core).free ∧ core ≤ k)) →
     ∃ t w c', exec (.placement die 0) s = .next t ∧ (t.die die).waiting = [] ∧ t.caravan? id = some c' ∧ c'.core = some core
       ∧ c'.stage = .placed ∧ t.warp? s.nextId = some w ∧ w.caravan = id ∧ w.pass = 0 ∧ w.core = core ∧ w.phase = .fetch
       ∧ (t.core core).free = (s.core core).free - (16 * c.record.tracks + 8 * c.record.quota) ∧ SameMemory s t
       ∧ ∀ j, j ≠ s.nextId → t.warp? j = s.warp? j)

/-! ### Engine operations: issue -/

/-- R227, R228, R231, R237, R238, R240, R334, R381, R382: an operation of the copy engine, the table loader or the fabric engine whose operands
pass their checks, which no lock stands against and for which there is room joins its unit's queue with its locks, its list of addresses
read, and the warp goes on. The first failing check traps. R265, R269, R271, R272, R276, R278, R383, R384: a request of the selection unit,
the attention engine or the fabric engine's collectives is read from its block in the scratchpad and, where its fields pass, queued with its
locks; `katt` makes the engine's tile slots of both cores unsettled, and a synchronous collective takes the next place in the order of its
convoy. Details that the spec leaves to inference are read as assumption logs 22, 24 and 33 say. -/
def Obligations.TransfersAndRequests : Prop :=
  (∀ (s : State) (w : Warp) (f : EForm) (slot : BitVec 3), s.curWarp = some w →
     let memA := (w.spair f.sa).toNat
     let memB := (w.spair f.sb).toNat
     let a := (w.sreg f.sa).toNat
     let b := (w.sreg f.sb).toNat
     let n := (w.sreg f.sc).toNat
     let k := (w.sreg (f.sc + 1)).toNat
     let top := s.allotment w
     let mem := w.memorySpace
     let scr := w.scratchSpace
     let copy : EngineUnit := .copy w.core
     let fits (m : Nat) : Prop := m < 2 ^ 55
     let list := listOf (s.operandMem w) a k
     let span := listSpan list n
     let moves : List (Instr × Nat × Nat × Prop × OpKind × List Span) :=
       [(.cpyMs f, memA, b, fits memA ∧ b + n ≤ top, .cpy 0 memA b n w.caravan, [⟨mem, memA, n, false⟩, ⟨scr, b, n, true⟩]),
        (.cpySm f, a, memB, fits memB ∧ a + n ≤ top, .cpy 1 a memB n w.caravan, [⟨scr, a, n, false⟩, ⟨mem, memB, n, true⟩]),
        (.cpyMm f, memA, memB, fits memA ∧ fits memB, .cpy 2 memA memB n w.caravan, [⟨mem, memA, n, false⟩, ⟨mem, memB, n, true⟩]),
        (.cpyPp f, a, b, a + n ≤ top ∧ b + n ≤ s.peerAllotment w k, .cpy 3 a b n k,
          [⟨scr, a, n, false⟩, ⟨.scratch (otherCore w.core) k, b, n, true⟩])]
     let trap (i : Instr) (cause : Nat) : Prop := ∃ t w', exec i s = .next t ∧ t.curWarp = some w' ∧ w'.tcause = BitVec.ofNat 32 cause
       ∧ w'.handlerActive = true ∧ w'.next = w.tvec.toNat
     (∀ p ∈ moves, Ready s w p.1 →
       (HandlerFree w → p.2.1 % 4 ≠ 0 ∨ p.2.2.1 % 4 ≠ 0 ∨ n % 4 ≠ 0 → trap p.1 0x09) ∧
       (p.2.1 % 4 = 0 → p.2.2.1 % 4 = 0 → n % 4 = 0 →
         (HandlerFree w → n = 0 ∨ 2 ^ 24 < n → trap p.1 0x0A) ∧
         (0 < n → n ≤ 2 ^ 24 →
           (HandlerFree w → ¬ p.2.2.2.1 → trap p.1 0x08) ∧
           (p.2.2.2.1 →
             (HandlerFree w → spanConflict (s.cluster (w.core / 2)).locks p.2.2.2.2.2 ≠ none → trap p.1 0x06) ∧
             (RoomFor s w copy 8 p.2.2.2.2.2 →
               ∃ t, exec p.1 s = .next t ∧ Queued s t w copy p.2.2.2.2.1 f.imm p.2.2.2.2.2))))) ∧
     (∀ p ∈ [(Instr.gath f, OpKind.gath list b n, false), (.scat f, .scat list b n, true)], Ready s w p.1 → a % 8 = 0 → b % 4 = 0 →
       (∃ e, 2 ≤ e ∧ e ≤ 12 ∧ n = 2 ^ e) → 1 ≤ k → k ≤ 4096 → (∀ x ∈ list, x % min n 128 = 0 ∧ fits x) → a + 8 * k ≤ top →
       b + n * k ≤ top → lockConflict (s.cluster (w.core / 2)).locks scr a (8 * k) false = false →
       let spans : List Span := [⟨mem, span.1, span.2, p.2.2⟩, ⟨scr, b, n * k, !p.2.2⟩]
       RoomFor s w copy 8 spans → ∃ t, exec p.1 s = .next t ∧ Queued s t w copy p.2.1 f.imm spans) ∧
     (∀ p ∈ [(Instr.prom f, true), (.dmot f, false)], Ready s w p.1 → memA % 65536 = 0 → fits memA → RoomFor s w copy 8 [] →
       ∃ t, exec p.1 s = .next t ∧ Queued s t w copy (.move memA p.2) f.imm []) ∧
     (Ready s w (.tblld slot f) → memA % 16 = 0 → fits memA → RoomFor s w (.table w.core) ((s.core w.core).tableQueue.length + 1)
         [⟨mem, memA, 4112, false⟩] →
       ∃ t, exec (.tblld slot f) s = .next t ∧ Queued s t w (.table w.core)
         (.tblld slot.toNat (if ((s.core w.core).table slot.toNat).cur then 0 else 1) memA) f.imm [⟨mem, memA, 4112, false⟩]) ∧
     (∀ e, s.peerEntry (s.partitionOf w.ctx) (k % 4096) = some e → e.valid = true → (e.secure = true → s.ctxSecure w.ctx = true) →
       memA % 4 = 0 → memB % 4 = 0 → n % 4 = 0 → 0 < n → n ≤ 2 ^ 24 → k < 2 ^ 13 → fits memA → fits memB →
       let ord : Bool := decide (4096 ≤ k)
       let unit : EngineUnit := .fabric (w.core / 2)
       (Ready s w (.fput f) → RoomFor s w unit 16 [⟨mem, memA, n, false⟩] → ∃ t, exec (.fput f) s = .next t
         ∧ Queued s t { w with puts := w.puts + 1 } unit (.fput memA memB n (k % 4096) ord) f.imm [⟨mem, memA, n, false⟩]) ∧
       (Ready s w (.fget f) → RoomFor s w unit 16 [⟨mem, memB, n, true⟩] → ∃ t, exec (.fget f) s = .next t
         ∧ Queued s t w unit (.fget memA memB n (k % 4096) ord) f.imm [⟨mem, memB, n, true⟩]))) ∧
  (∀ (s : State) (w : Warp) (f : EForm), s.curWarp = some w →
     let m := s.operandMem w
     let page := (w.spair f.sa).toNat
     let a := (w.sreg f.sa).toNat
     let b := (w.sreg f.sb).toNat
     let top := s.allotment w
     let fits (x : Nat) : Prop := x < 2 ^ 55
     let at_ (base off n : Nat) : Nat := Memory.readNat m (base + off) n
     let scr := w.scratchSpace
     let mem := w.memorySpace
     let sel : EngineUnit := .selection (w.core / 2)
     let att : EngineUnit := .attention (w.core / 2)
     let fab : EngineUnit := .fabric (w.core / 2)
     (Ready s w (.ksum f) → page % 65536 = 0 → b % 4 = 0 → fits page → b + 4 ≤ top → RoomFor s w sel 8 [⟨scr, b, 4, true⟩] →
       ∃ t, exec (.ksum f) s = .next t ∧ Queued s t w sel (.ksum page b) f.imm [⟨scr, b, 4, true⟩]) ∧
     (let r : KappReq := ⟨b, page, at_ b 0 4, at_ b 4 4, decide (at_ b 8 4 % 2 = 1), decide (at_ b 8 4 / 2 % 2 = 1), at_ b 0xC 1,
        at_ b 0xD 1, at_ b 0xE 1, at_ b 0x10 2, at_ b 0x14 4, at_ b 0x18 8, at_ b 0x20 8, at_ b 0x28 8⟩
      let span := appendSpan r.init r.n r.hdim r.kfmt r.vfmt r.src top
      let spans : List Span := [⟨scr, r.src, span, false⟩, ⟨scr, b, 64, true⟩]
      Ready s w (.kapp f) → page % 65536 = 0 → b % 64 = 0 → fits page → b + 64 ≤ top → at_ b 8 4 < 4 → at_ b 0xF 1 = 0 →
      at_ b 0x12 2 = 0 → r.n ≤ 256 → (r.init = false → at_ b 0xC 3 = 0 ∧ r.hdim = 0 ∧ at_ b 0x14 0x14 = 0) →
      (r.link = false → r.prev = 0) → (r.init = true → pageLimits r.kfmt r.vfmt r.sfmt r.hdim r.cap = true) → r.src % 16 = 0 →
      (span = 0 ∨ r.src + span ≤ top) → RoomFor s w sel 8 spans →
      ∃ t, exec (.kapp f) s = .next t ∧ Queued s t w sel (.kapp r) f.imm spans) ∧
     (let r : KselReq := ⟨a, at_ a 0 4, at_ a 4 2, at_ a 6 2, at_ a 8 8, at_ a 0x10 4, at_ a 0x14 1, decide (at_ a 0x15 1 = 1),
        BitVec.ofNat 32 (at_ a 0x18 4), at_ a 0x20 8⟩
      let spans : List Span := [⟨scr, r.qoff, 4 * r.nq * r.hdim, false⟩, ⟨scr, a, 64, true⟩, ⟨mem, r.waddr, 4096, true⟩]
      Ready s w (.ksel f) → a % 64 = 0 → a + 64 ≤ top → 1 ≤ r.nq → r.nq ≤ 96 → r.hdim % 16 = 0 → 16 ≤ r.hdim → r.hdim ≤ 256 →
      r.n ≤ 2 ^ 20 → r.mode ≤ 1 → at_ a 0x15 1 ≤ 1 → at_ a 0x16 2 = 0 → at_ a 0x1C 4 = 0 →
      (r.top = true → 1 ≤ r.limit.toNat ∧ r.limit.toNat ≤ 256) → r.qoff % 4 = 0 → r.waddr % 16 = 0 → r.waddr + 4096 ≤ 2 ^ 55 →
      r.qoff + 4 * r.nq * r.hdim ≤ top → RoomFor s w sel 8 spans →
      ∃ t, exec (.ksel f) s = .next t ∧ Queued s t w sel (.ksel r) f.imm spans) ∧
     (let nseq := at_ a 0x14 4
      let cuq := at_ a 0x18 4
      let seqd := at_ a 0x1C 4
      let r : KattReq := { requestAt m a with seqs := sequencesAt m cuq seqd nseq }
      let q := if r.qscratch then scr else mem
      let spans : List Span :=
        [⟨scr, cuq, 4 * (nseq + 1), false⟩, ⟨scr, seqd, 32 * nseq, false⟩, ⟨q, r.qbase, r.querySpan, false⟩, ⟨scr, a, 128, true⟩,
         ⟨mem, r.out, r.outSpan, true⟩, ⟨mem, r.rstat, r.nq, true⟩, ⟨mem, r.mlout, if r.partialOut then 8 * r.nq else 0, true⟩]
      Ready s w (.katt f) → a % 128 = 0 → a + 128 ≤ top → requestBad (Memory.readBytes m a 128) r nseq = false →
      keyFormat r.qfmt = true → (r.outfmt = 5 ∨ r.outfmt = 7) → r.qbase % 16 = 0 → r.qstride % 16 = 0 → r.ostride % 16 = 0 →
      cuq % 4 = 0 → seqd % 32 = 0 → (r.qscratch = true → r.qbase + r.querySpan ≤ top) → cuq + 4 * (nseq + 1) ≤ top →
      seqd + 32 * nseq ≤ top → sequencesBad m cuq seqd nseq r.nq = false → RoomFor s w att 4 spans →
      ∃ t, exec (.katt f) s = .next t ∧ Queued s t w att (.katt r) f.imm spans
        ∧ ∀ k, (t.core k).unsettled = (s.core k).unsettled ++ if k = w.core ∨ k = otherCore w.core then
            [r.eslot, r.eslot + 1, r.eslot + 2].map fun x => ⟨x, s.nextId, s.cur, true, none, false⟩ else []) ∧
     (∀ p ∈ [(Instr.fcollAllreduce f, 0), (.fcollReduce f, 1), (.fcollBcast f, 2), (.fcollMcast f, 3), (.fcollAllgather f, 4)],
       let key := convoyKey (s.partitionOf w.ctx) (at_ a 0 2)
       let seq := Tbl.findD s.fabric.issued key 0
       let r : CollReq := ⟨a, at_ a 0 2, p.2, at_ a 2 1, at_ a 4 4, at_ a 8 8, at_ a 0x10 8, at_ a 0x18 8,
         BitVec.ofNat 64 (at_ a 0x20 8), seq⟩
       let n := r.count * if r.oper = 6 then 520 else 4
       ∀ e, s.convoyEntry (s.partitionOf w.ctx) r.convoy = some e → e.ctx = w.ctx → Ready s w p.1 → a % 64 = 0 → a + 64 ≤ top →
         r.src % 4 = 0 → r.dst % 4 = 0 → r.note % 8 = 0 → r.convoy ≤ 63 → r.oper ≤ 6 → (2 ≤ r.fn → r.oper = 0) → at_ a 3 1 = 0 →
         1 ≤ r.count → r.count ≤ 2 ^ 20 → (r.fn ≠ 3 → r.note = 0) → at_ a 0x38 8 = 0 → fits r.src → fits r.dst → fits r.note →
         let spans : List Span :=
           [⟨scr, a, 64, true⟩, ⟨mem, r.src, n, false⟩, ⟨mem, r.dst, if p.2 = 4 then n * e.members else n, true⟩]
         RoomFor s w fab 16 spans → ∃ t, exec p.1 s = .next t ∧ Queued s t w fab (.fcoll r) f.imm spans
           ∧ Tbl.findD t.fabric.issued key 0 = if p.2 = 3 then seq else seq + 1))

/-- R199, R205, R209, R211, R212, R216, R218, R219, R220, R222: a matrix operation whose records, formats, tile and regions pass R216 joins the
queue of its array, or of both arrays for a pair tile, and the warp's open set; `wbld` reserves its region of the weight buffer, taking out
those it overlaps. An `acop` in which no thread takes part queues nothing. Details that the spec leaves to inference are read as assumption
log 23 says. -/
def Obligations.MatrixIssue : Prop :=
  ∀ (s : State) (w : Warp) (f : XForm) (g : EForm) (v : VForm) (d : Tile), s.curWarp = some w →
    let m := s.operandMem w
    let top := s.allotment w
    let scr := w.scratchSpace
    let record (r : BitVec 6) : Prop := (w.sreg r).toNat % 32 = 0 ∧ (w.sreg r).toNat + 32 ≤ top
    let shape (r : BitVec 6) : Shape := shapeAt m (w.sreg r).toNat
    let half (r : BitVec 6) (i : Nat) : FmtHalf := halfAt m ((w.sreg r).toNat + 16 * i)
    let goodHalf (r : BitVec 6) (i : Nat) : Prop := halfBad m ((w.sreg r).toNat + 16 * i) = false
    let aligned (x : Shape) : Prop := x.base % 4 = 0 ∧ x.stride % 4 = 0
    let within (a n : Nat) : Prop := n = 0 ∨ a + n ≤ top
    let free (spans : List Span) : Prop := spanConflict (s.cluster (w.core / 2)).locks spans = none
      ∧ s.lockRoom (w.core / 2) spans = true
    let a := shape f.sa
    let b := shape f.sb
    let pair := f.pair == 1
    let room : Prop := ∀ k ∈ d.cores w.core, s.held (.matrix k) < 8
    (∀ p ∈ [(Instr.mma f, false), (.mmas f, true)],
      let fa := half f.sf 0
      let fb := half f.sf 1
      let seed := w.sreg f.ss
      let scales := if fa.blk = 16 then a.vrows * blocksOf a.cols else 0
      let spans : List Span := [⟨scr, a.base, a.span (fmtBits fa.fmt), false⟩, ⟨scr, fa.scale, scales, false⟩]
      let size (leader : Bool) : Nat := regionBytes (localColumns pair leader b.cols) b.rows fb.fmt fb.blk p.2
      Ready s w p.1 → tileOf (w.spair f.sc) = some d → record f.sa → record f.sb → record f.sf → goodHalf f.sf 0 → goodHalf f.sf 1 →
      formatsBad fa fb = false → fb.scale = 0 → aligned a → aligned b →
      mmaShapesBad (shapeReserved m (w.sreg f.sa).toNat) (shapeReserved m (w.sreg f.sb).toNat) a b (fmtBits fa.fmt) (some d)
        (f.cmp == 1) pair (s.coupled w) = false →
      within a.base (a.span (fmtBits fa.fmt)) → within fa.scale scales → free spans →
      (s.core w.core).loading b.base (size true) = false →
      (pair = true → (s.core (otherCore w.core)).loading b.base (size false) = false) →
      s.regionsMatch w b fb p.2 pair seed = true → room →
      ∃ t, exec p.1 s = .next t ∧ QueuedMatrix s t w d (.mma d a b fa fb (f.zero == 1) pair p.2 seed) true spans) ∧
    (∀ space : BitVec 1, ∀ p ∈ [(Instr.acld space f, false), (.acst space f, true)],
      let h := half f.sf 0
      let z := fmtBits h.fmt
      let scale : Word := if f.sb = 0 then 0x3F800000 else w.sreg f.sb
      let spans : List Span := [⟨if space = 1 then scr else w.memorySpace, a.base, a.span z, p.2⟩]
      Ready s w p.1 → tileOf (w.spair f.sc) = some d → record f.sa → record f.sf → goodHalf f.sf 0 → h.fmt ∈ [1, 2, 5, 6, 7] →
      h.blk = 0 → aligned a → shapeReserved m (w.sreg f.sa).toNat = false → a.inRange z = true → a.space = space.toNat →
      a.layout ≤ 1 → d.rows = a.rows → d.cols = a.cols → d.cmp = (f.cmp == 1) → d.pairt = pair →
      (pair = true → s.coupled w = true) → (p.2 = true → s.unsettledOn w.core d true = false) →
      (space = 1 → within a.base (a.span z)) → free spans → room →
      ∃ t, exec p.1 s = .next t
        ∧ QueuedMatrix s t w d (if p.2 then .acst d a h scale else .acld d a h scale) (!p.2) spans) ∧
    (∀ p ∈ [(Instr.acopZero v, 0), (.acopMulrow v, 1), (.acopAddrow v, 2)], Ready s w p.1 →
      (s.takes w v.pred v.pneg = 0 → ∃ t, exec p.1 s = .next t ∧ Becomes s t w) ∧
      (s.takes w v.pred v.pneg ≠ 0 → tileOf (w.spair v.sb) = some d → room → s.lockRoom (w.core / 2) [] = true →
        ∃ t, exec p.1 s = .next t ∧ QueuedMatrix s t w d
          (.acop p.2 d (s.takes w v.pred v.pneg &&& d.rowMask) (lanesOf (if p.2 = 0 then fun _ => 0 else s.opB w v))) true [])) ∧
    (let x := shape g.sa
     let h := half g.sb 1
     let dst := (w.sreg g.sc).toNat
     let seed := w.sreg (g.sc + 1)
     let sparse := g.imm.getLsbD 16
     let follower := g.imm.getLsbD 17
     let target := if follower then otherCore w.core else w.core
     let size := regionBytes x.cols x.rows h.fmt h.blk sparse
     let scales := if h.blk = 16 then x.vcols * blocksOf x.rows else 0
     let kept := (s.core target).regions.filter fun r => !(r.entered && decide (r.offset < dst + size ∧ dst < r.offset + r.size))
     let space := if x.space = 1 then scr else w.memorySpace
     let spans : List Span := [⟨space, x.base, x.span (fmtBits h.fmt), false⟩, ⟨space, h.scale, scales, false⟩]
     Ready s w (.wbld g) → record g.sa → record g.sb → goodHalf g.sb 1 → h.fmt ≠ 7 → aligned x →
     shapeReserved m (w.sreg g.sa).toNat = false → x.inRange (fmtBits h.fmt) = true → x.space ≤ 1 → x.layout ≤ 1 → x.cols ≤ 128 →
     (follower = true → s.coupled w = true) → dst % 256 = 0 → dst + size ≤ 786432 → kept.length < 32 →
     (x.space = 1 → within x.base (x.span (fmtBits h.fmt)) ∧ within h.scale scales) →
     (x.space ≠ 1 → scales ≠ 0 → h.scale < 2 ^ 55) → RoomFor s w (.loader w.core) 4 spans →
     ∃ t, exec (.wbld g) s = .next t
       ∧ Queued s t w (.loader w.core) (.wbld x h dst seed sparse follower) (BitVec.ofNat 32 (g.imm.toNat % 65536)) spans
       ∧ (t.core target).regions = kept ++ [⟨dst, x.rows, x.cols, h.fmt, h.blk, sparse, seed, size, false, s.nextId⟩]
       ∧ ∀ k, k ≠ target → (t.core k).regions = (s.core k).regions)

/-- R211, R221, R222, R241: `acrd` reads a column of a tile into a vector register, rounding the pair of a CMP tile once, `acwr` writes one,
`acop` fold and maxrow give each row's sum and maximum, and `tblsw` makes the other copy of a table slot current once no load of it is
pending, keeping which copy was current as the cycle began. A slot with an operation that is not settled is a *range conflict*. Details that the spec leaves to inference are read as
assumption log 23 says. -/
def Obligations.Accumulators : Prop :=
  ∀ (s : State) (w : Warp) (f : VForm) (d : Tile) (slot : BitVec 3) (e : EForm), s.curWarp = some w →
    let take := s.takes w f.pred f.pneg
    let col := f.ppar.toNat
    let cells (r : Nat) : List Cell := (List.range d.cols).map fun c => s.cell w.core d r c
    (take ≠ 0 → tileOf (w.spair f.sb) = some d →
      (s.unsettledOn w.core d true = false →
        (Ready s w (.acrd f) → col < d.localCols w.core → ∃ t, exec (.acrd f) s = .next t ∧ VectorResult s w t f
          (fun r => if r < d.rows then
            (if d.cmp then f32Of ((f32Val (s.localCell w.core d r col).1).add 0 (f32Val (s.localCell w.core d r col).2)).1
             else lane ((s.core w.core).column d.slot col) r) else 0) fun _ => 0) ∧
        ∀ p ∈ [(Instr.acopFold f, foldRow), (.acopMaxrow f, maxRow)], Ready s w p.1 → ∃ t, exec p.1 s = .next t
          ∧ VectorResult s w t f (fun r => if r < d.rows then (p.2 (cells r) d.cmp).1 else 0)
              (fun r => if r < d.rows then (p.2 (cells r) d.cmp).2 else 0)) ∧
      (s.unsettledOn w.core d false = false → Ready s w (.acwr f) → col < d.localCols w.core → ∃ t w', exec (.acwr f) s = .next t
        ∧ t = { s with warps := t.warps, cores := t.cores } ∧ t.curWarp = some w' ∧ OnlyMoves w w'
        ∧ (∀ k, t.core k = { s.core k with tiles := (t.core k).tiles })
        ∧ ∀ k j c r, r < 96 → lane ((t.core k).column j c) r =
            if k = w.core ∧ c = col ∧ r < d.rows ∧ take.getLsbD r = true ∧ j = d.slot then s.opA w f r
            else if k = w.core ∧ c = col ∧ r < d.rows ∧ take.getLsbD r = true ∧ d.cmp = true ∧ j = d.slot + 1 then 0
            else lane ((s.core k).column j c) r) ∧
      (HandlerFree w → ∀ i ∈ [Instr.acrd f, .acwr f, .acopFold f, .acopMaxrow f], Ready s w i →
        (i = .acrd f ∨ i = .acwr f → col < d.localCols w.core) → s.unsettledOn w.core d (decide (i ≠ .acwr f)) = true →
        ∃ t, exec i s = .next t ∧ Entered s w t 0x06 (Warp.runHere w) (BitVec.ofNat 32 w.idx) 0 0)) ∧
    (Ready s w (.tblsw slot e) →
      ((∀ o ∈ (s.core w.core).tableQueue, ∀ copy va, o.kind = .tblld slot.toNat copy va → o.state = .finished) →
        ∃ t w', exec (.tblsw slot e) s = .next t ∧ t = { s with warps := t.warps, cores := t.cores } ∧ t.curWarp = some w'
          ∧ OnlyMoves w w' ∧ (∀ id, id ≠ s.cur → t.warp? id = s.warp? id) ∧ (∀ k, k ≠ w.core → t.core k = s.core k)
          ∧ t.core w.core = { s.core w.core with tables := (t.core w.core).tables }
          ∧ ∀ n, (t.core w.core).table n =
              let x := (s.core w.core).table n
              if n = slot.toNat then
                { x with cur := !x.cur, switched := some (s.cycleOf w.core, x.curIn (s.cycleOf w.core)) } else x))

/-! ### Engine operations: their work -/

/-- R84, R86 to R88: the integers of a block's positions are the nearest to their values under the block's exponent, the squarer array's
sum over the positions that are combined is the sum of their products, and a close adds it to a cell, or under CMP to its pair, with one
rounding. R199, R209, R212, R214, R217, R219, R220, R222: the next operation of an array's queue begins once it is at the head of every
array it needs and its warp's earlier stores are acknowledged. An `mma` or `mmas` closes its blocks one after another into every cell of
its tile, in integer-exact mode at most 4,096 of them at once; an `acld` writes a real position's element times its scale, rounded to
nearest, and zero at padding; an `acst` writes the values of the real positions in ascending order; an `acop` changes the cells of its
rows. Those but `acld` and `acst`, whose records are still to come, then leave their queue and their locks. The weight loader packs a
block of a `wbld` after another. Details that the spec leaves to inference are read as assumption logs 23, 48, 50 and 55 say. -/
def Obligations.ArrayRuns : Prop :=
  (∀ (a b : List Int) (kept : Nat → Bool),
     squareProduct a b kept = (((List.range 16).filter kept).map fun k => a.getD k 0 * b.getD k 0).sum) ∧
  (∀ (h : FmtHalf) (wd : Nat) (scale : Option Nat) (codes : List (Option Nat)), codes.length = 16 → (∀ x, some x ∈ codes → h.fmt = 0 → x < 256) →
     let g := cellOp h wd scale codes
     let sigma : Int := (scale.map fun b => (b : Int) - 127).getD 0
     let v (i : Nat) : FVal := match codes.getD i none with
       | some x => ((matrixFmt h.fmt).read (if h.ftz then BitVec.allOnes 5 else 0) x).1
       | none => .fin false 0 0
     let rounds (i : Nat) (top : Int) : Prop := ∀ n m e, v i = .fin n m e → ∃ k : Nat, g.c.getD i 0 = (if n then -(k : Int) else k)
       ∧ NearestInteger 0 n m (e + ((wd : Int) - 1) - top) k
     g.special = decide (scale = some 0xFF) ∧
     (h.fmt = 0 → g.e = (wd : Int) - 1 + sigma ∧ ∀ i < 16, g.specials.getD i false = false
       ∧ g.c.getD i 0 = (BitVec.ofNat 8 ((codes.getD i none).getD 0)).toInt) ∧
     (h.fmt ≠ 0 → (∀ i < 16, g.specials.getD i false = !isFin (v i)) ∧
       (let top := h.exp.toInt
        h.oneExp = true → g.e = top + sigma ∧ ∀ i < 16, (abs (ratOf (v i)) < (2 : ℚ) ^ (top + 1) → rounds i top)
          ∧ ((2 : ℚ) ^ (top + 1) ≤ abs (ratOf (v i)) → g.c.getD i 0 = if ratOf (v i) < 0 then -(2 ^ wd - 1 : Int) else 2 ^ wd - 1)) ∧
       (h.oneExp = false → (∀ i < 16, ratOf (v i) = 0 → g.c.getD i 0 = 0) ∧ ∀ top : Int,
         (∀ i < 16, abs (ratOf (v i)) < (2 : ℚ) ^ (top + 1)) → (∃ i < 16, (2 : ℚ) ^ top ≤ abs (ratOf (v i))) →
         g.e = top + sigma ∧ ∀ i < 16, rounds i top))) ∧
  (∀ (s : State) (core : Nat) (o : EngineOp),
     (s.headOp (.matrix core) = some o → s.arrayHeld core = false → s.atHeads o = true → s.mayWork o = true →
       (o.state = .queued → o.kind ≠ .hold → ∃ t, exec (.matrixQueueStart core) s = .next t ∧ t = { s with cores := t.cores }
         ∧ ∀ k, (t.core k).matrixQueue = if k ∈ o.arrays then
             (s.core k).matrixQueue.map fun x => if x.id = o.id then { o with state := .running } else x
           else (s.core k).matrixQueue) ∧
       (∀ fn d rows b w, o.kind = .acop fn d rows b → o.state = .running → d.pairt = false → d.cmp = false → d.cols ≤ 128 →
         s.warp? o.warp = some w → o.core / 2 = core / 2 →
         ∃ t w', exec (.matrixOpComplete core) s = .next t ∧ t.warp? o.warp = some w' ∧ SameMemory s t
           ∧ (∀ k j c r, r < 96 → lane ((t.core k).column j c) r =
               if k = o.core ∧ j = d.slot ∧ c < d.cols ∧ rows.getLsbD r = true then
                 (acopCell fn false (lane b r) (lane ((s.core k).column j c) r, 0)).1.1
               else lane ((s.core k).column j c) r)
           ∧ (∀ k, k / 2 = core / 2 → ∀ x ∈ (t.core k).matrixQueue, x.id ≠ o.id)
           ∧ (∀ l ∈ (t.cluster (core / 2)).locks, l.owner ≠ o.id)
           ∧ o.id ∉ w'.openOps ∧ KeepsRegisters { w with flags := w'.flags } w' ∧ SameVectors w w') ∧
       (let mem := s.scratchOf o.caravan
        let elsewhere (d : Tile) (t : State) : Prop := ∀ k x c r, r < 96 →
          (¬ ∃ j < d.cols, r < d.rows ∧ x ∈ d.slots ∧ k = d.coreOf o.core j ∧ c = j % 128) →
          lane ((t.core k).column x c) r = lane ((s.core k).column x c) r
        let fits (d : Tile) : Prop := d.rows ≤ 96 ∧ d.cols ≤ if d.pairt then 256 else 128
        let finished (t : State) : Prop := ∀ k ∈ o.arrays, ∀ x ∈ (t.core k).matrixQueue, x.id = o.id → x.state = .finished ∧ x.status = o.status
        (∀ d a b fa fb zero sparse seed, o.kind = .mma d a b fa fb zero d.pairt sparse seed → o.state = .running → fits d →
          o.core / 2 = core / 2 → o.progress ≤ blocksOf a.cols →
          let nb := blocksOf a.cols
          let wd := cellWidth fa.fmt
          let za := fmtBits fa.fmt
          let keep (j k x : Nat) : Bool := !sparse || isKept seed j (16 * k + x)
          let opA (i k : Nat) : Group := cellOp fa wd
            (if fa.blk = 16 ∧ i < a.vrows then some (Memory.readNat mem (fa.scale + i * nb + k) 1) else none)
            ((List.range 16).map fun x => if a.real i (16 * k + x) then
              some (a.code za i (16 * k + x) (Memory.readBytes mem (a.at_ za i (16 * k + x)) (elementBytes za))) else none)
          let size := blockBytes fb.fmt fb.blk sparse
          let packed (j k : Nat) : List Byte :=
            Memory.readBytes (s.core (d.coreOf o.core j)).weights (b.base + (j % 128 * blocksOf b.rows + k) * size) size
          let opB (j k : Nat) : Group := cellOp fb wd (if fb.blk = 16 then some ((packed j k).getD (size - 1) 0).toNat else none)
            ((List.range 16).map fun x => if x ∈ keptOf sparse seed j k then
              some (unpackCode fb.fmt (packed j k) ((keptOf sparse seed j k).idxOf x)) else none)
          let special (i j k : Nat) : Prop := (opA i k).special = true ∨ (opB j k).special = true
            ∨ ∃ x < 16, keep j k x = true ∧ ((opA i k).specials.getD x false = true ∨ (opB j k).specials.getD x false = true)
          let product (i j k : Nat) : Int :=
            (((List.range 16).filter (keep j k)).map fun x => (opA i k).c.getD x 0 * (opB j k).c.getD x 0).sum
          let exponent (i j k : Nat) : Int := (opA i k).e + (opB j k).e - 2 * ((wd : Int) - 1)
          let start (i j : Nat) : Cell := if zero = true ∧ o.progress = 0 then (0, 0) else s.cell o.core d i j
          ∃ t, exec (.matrixOpComplete core) s = .next t ∧ SameMemory s t ∧ elsewhere d t
            ∧ (∀ k, k / 2 = core / 2 → ∀ x ∈ (t.core k).matrixQueue, x.id ≠ o.id) ∧ (∀ l ∈ (t.cluster (core / 2)).locks, l.owner ≠ o.id)
            ∧ (exactMode fa fb = false → ∀ i < d.rows, ∀ j < d.cols, ∃ c : Nat → Cell, c o.progress = start i j
              ∧ c nb = t.cell o.core d i j ∧ ∀ k, o.progress ≤ k → k < nb →
                Closes d.cmp (c k) (c (k + 1)) (special i j k) (product i j k) (exponent i j k))
            ∧ (exactMode fa fb = true → o.progress = 0 → 0 < nb → nb ≤ 4096 → ∀ i < d.rows, ∀ j < d.cols,
              Closes d.cmp (start i j) (t.cell o.core d i j) (∃ k < nb, special i j k) ((List.range nb).map (product i j)).sum
                (exponent i j 0))) ∧
        (∀ d m h scale, o.kind = .acld d m h scale → o.state = .running → fits d → m.layout ≤ 1 → fmtBits h.fmt ∈ [8, 16, 32] →
          let z := fmtBits h.fmt
          let value (x : Nat) : Word :=
            BitVec.ofNat 32 (Fmt.f32.convert rne false 0 (((matrixFmt h.fmt).read h.flushBits x).1.mul (f32Val scale)).1).1
          let loaded (bytes : Nat → Nat → List Byte) : Prop := ∃ t, exec (.matrixOpComplete core) s = .next t ∧ SameMemory s t
            ∧ elsewhere d t ∧ finished t ∧ ∀ i < d.rows, ∀ j < d.cols, t.cell o.core d i j =
              if i < m.vrows ∧ j < m.vcols then (value (bytesNat (bytes i j)), 0) else (0, 0)
          (m.space = 1 → loaded fun i j => Memory.readBytes mem (m.at_ z i j) (z / 8)) ∧
          ∀ pa : Nat → Nat, m.space = 0 → (∀ l < m.lines, (m.base + l * m.stride) % 65536 + m.lineBytes z ≤ 65536
              ∧ ∃ leaf, s.meet o (m.base + l * m.stride) false false = .at_ (pa l) leaf) →
            loaded fun i j => Memory.readBytes s.mem (pa (if m.layout = 1 then j else i) + m.place i j * z / 8) (z / 8)) ∧
        ∀ d m h scale, o.kind = .acst d m h scale → o.state = .running → fmtBits h.fmt ∈ [8, 16, 32] →
          let z := fmtBits h.fmt
          let code (i j : Nat) : Nat :=
            let x := s.cell o.core d i j
            let y := if d.cmp then ((f32Val x.1).add 0 (f32Val x.2)).1 else f32Val x.1
            ((matrixFmt h.fmt).convert rne false 0 (y.mul (f32Val scale)).1).1
          let inOrder (m0 m1 : Memory) (at' : Nat → Nat → Nat) : Prop := ∃ f : Nat → Memory, f 0 = m0 ∧ f (m.vrows * m.vcols) = m1
            ∧ ∀ i < m.vrows, ∀ j < m.vcols,
              Wrote (f (i * m.vcols + j)) (f (i * m.vcols + j + 1)) (at' i j) (natBytes (z / 8) (code i j))
          let stored (t : State) : Prop := exec (.matrixOpComplete core) s = .next t ∧ finished t ∧ ∀ k, (t.core k).tiles = (s.core k).tiles
          (∀ c, m.space = 1 → s.caravan? o.caravan = some c → ∃ t c', stored t ∧ SameMemory s t ∧ t.caravan? o.caravan = some c'
            ∧ inOrder c.scratch c'.scratch (m.at_ z)) ∧
          ∀ pa : Nat → Nat → Nat, m.space = 0 →
            (∀ i < m.vrows, ∀ j < m.vcols, ∃ leaf, s.meet o (m.at_ z i j) true false = .at_ (pa i j) leaf) →
            ∃ t, stored t ∧ t.caravans = s.caravans ∧ inOrder s.mem t.mem pa)) ∧
     (∀ m h dst seed sparse follower, s.headOp (.loader core) = some o → o.kind = .wbld m h dst seed sparse follower → o.core = core →
       s.mayWork o = true → m.space = 1 → h.blk = 0 → s.regionRead (loadTarget core follower) o.id dst
         (regionBytes m.cols m.rows h.fmt h.blk sparse) = false → o.progress + 1 < m.cols * blocksOf m.rows →
       let j := o.progress / blocksOf m.rows
       let b := o.progress % blocksOf m.rows
       let z := fmtBits h.fmt
       let codes := (keptOf sparse seed (if follower then j + 128 else j) b).map fun k =>
         if m.real (16 * b + k) j then
           m.code z (16 * b + k) j (Memory.readBytes (s.scratchOf o.caravan) (m.at_ z (16 * b + k) j) (elementBytes z)) else 0
       ∃ t, exec (.weightLoaderRun core 1) s = .next t ∧ t = { s with cores := t.cores }
         ∧ (t.core (loadTarget core follower)).weights = Memory.writeBytes (s.core (loadTarget core follower)).weights
             (dst + o.progress * blockBytes h.fmt h.blk sparse) (packCodes h.fmt codes)
         ∧ t.queueOf (.loader core) = (s.queueOf (.loader core)).map fun x =>
             if x.id = o.id then { o with progress := o.progress + 1, state := .running } else x))

/-- R209, R230, R231, R232, R235, R237 to R240: the copy engine moves up to 256 bytes of a `cpy` from its source to its destination and no
others, and an element of a `gath` or a `scat` between its place in the scratchpad and the address its list gives; a table load writes its copy whole; and an operation whose writes are complete queues its record to its warp, the oldest record
kept, and releases its locks. Details that the spec leaves to inference are read as assumption log 22 says. -/
def Obligations.CopiesAndRecords : Prop :=
  ∀ (s : State) (core : Nat) (o : EngineOp),
    (∀ dir src dst n dest c, s.headOp (.copy core) = some o → o.kind = .cpy dir src dst n dest → o.core = core → s.mayWork o = true →
      s.caravan? o.caravan = some c → o.progress < n →
      let p := o.progress
      let m := cpyPiece dir src n p
      let after : EngineOp := { o with progress := p + m, state := if n ≤ p + m then .finished else .running }
      let stands (t : State) (x : EngineOp) : Prop := t.queueOf (.copy core) =
        (s.queueOf (.copy core)).map fun y => if y.id = o.id then x else y
      (∀ pa leaf, dir = 0 → dest = o.caravan → s.meet o (src + p) false false = .at_ pa leaf →
        ∃ t c', exec (.copyEngineRun core 1) s = .next t ∧ t.caravan? o.caravan = some c' ∧ SameMemory s t ∧ stands t after
          ∧ ∀ a, Memory.read c'.scratch a = if dst + p ≤ a ∧ a < dst + p + m then Memory.read s.mem (pa + (a - (dst + p)))
              else Memory.read c.scratch a) ∧
      (∀ pa leaf, dir = 1 → s.meet o (dst + p) true false = .at_ pa leaf → (dst + p) % 65536 + m ≤ 65536 →
        ∃ t, exec (.copyEngineRun core 1) s = .next t ∧ t.caravans = s.caravans
          ∧ stands t { after with settled := max o.settled (s.completionOf pa m) }
          ∧ ∀ a, Memory.read t.mem a = if pa ≤ a ∧ a < pa + m then Memory.read c.scratch (src + p + (a - pa))
              else Memory.read s.mem a) ∧
      (∀ c', dir = 3 → s.caravan? dest = some c' → ∃ t d, exec (.copyEngineRun core 1) s = .next t ∧ t.caravan? dest = some d
        ∧ SameMemory s t ∧ stands t after ∧ ∀ a, Memory.read d.scratch a =
          if dst + p ≤ a ∧ a < dst + p + m then Memory.read c.scratch (src + p + (a - (dst + p))) else Memory.read c'.scratch a) ∧
      (∀ pa pb leaf leaf', dir = 2 → s.meet o (src + p) false false = .at_ pa leaf → s.meet o (dst + p) true false = .at_ pb leaf' →
        (dst + p) % 65536 + m ≤ 65536 → ∃ t due, exec (.copyEngineRun core 1) s = .next t ∧ t.caravans = s.caravans
          ∧ stands t { after with settled := due } ∧ o.settled ≤ due ∧ s.time ≤ due
          ∧ Wrote s.mem t.mem pb (Memory.readBytes s.mem pa m))) ∧
    (∀ l off z, s.headOp (.copy core) = some o → o.core = core → s.mayWork o = true → o.progress < l.length →
      let at_ := l.getD o.progress 0
      let place := off + o.progress * z
      let after : EngineOp :=
        { o with progress := o.progress + 1, state := if l.length ≤ o.progress + 1 then .finished else .running }
      let stands (t : State) (x : EngineOp) : Prop := t.queueOf (.copy core) =
        (s.queueOf (.copy core)).map fun y => if y.id = o.id then x else y
      (∀ c pieces, o.kind = .gath l off z → s.caravan? o.caravan = some c → s.meetSpan o at_ z false false = .go pieces →
        ∃ t c', exec (.copyEngineRun core 1) s = .next t ∧ t.caravan? o.caravan = some c' ∧ SameMemory s t ∧ stands t after
          ∧ Wrote c.scratch c'.scratch place (pieces.flatMap fun p => Memory.readBytes s.mem p.1 p.2)) ∧
      (o.kind = .scat l off z →
        let bytes := Memory.readBytes (s.scratchOf o.caravan) place z
        (∀ pa, s.meetSpan o at_ z true false = .go [(pa, z)] → ∃ t, exec (.copyEngineRun core 1) s = .next t ∧ t.caravans = s.caravans
          ∧ stands t { after with settled := max o.settled (s.completionOf pa z) } ∧ Wrote s.mem t.mem pa bytes) ∧
        ∀ pa pb n k, s.meetSpan o at_ z true false = .go [(pa, n), (pb, k)] → ∃ t due m, exec (.copyEngineRun core 1) s = .next t
          ∧ t.caravans = s.caravans ∧ stands t { after with settled := due } ∧ max o.settled (s.completionOf pa n) ≤ due
          ∧ Wrote s.mem m pa (bytes.take n) ∧ Wrote m t.mem pb (bytes.drop n))) ∧
    (∀ slot copy va pieces, s.readyLoad core [] (s.core core).tableQueue = some o → o.kind = .tblld slot copy va → o.state ≠ .finished →
      o.core = core → s.meetSpan o va 4112 false false = .go pieces →
      let bytes := pieces.flatMap fun p => Memory.readBytes s.mem p.1 p.2
      ∃ t, exec (.tableCopyWrite core) s = .next t ∧ SameMemory s t
        ∧ (∀ a, Memory.read (((t.core core).table slot).copy (decide (copy = 1))) a = bytes.getD a 0)
        ∧ ((t.core core).table slot).copy (decide (copy ≠ 1)) = ((s.core core).table slot).copy (decide (copy ≠ 1))
        ∧ ((t.core core).table slot).cur = ((s.core core).table slot).cur
        ∧ (∀ n, n ≠ slot → (t.core core).table n = (s.core core).table n)
        ∧ t.queueOf (.table core) = (s.queueOf (.table core)).map fun x =>
            if x.id = o.id then { o with state := .finished, status := 0 } else x) ∧
    (∀ unit place w, clusterOfUnit unit < 288 → (s.queueOf unit)[place]? = some o → o.state = .finished → o.settled ≤ s.time → o.kind.code ≠ 0 →
      (o.kind.code = 5 ∨ o.kind.code = 6 → o.batch.isSome = true) → s.warp? o.warp = some w →
      w.records.length < 64 → s.recordsOn w.core < 256 →
      ∃ t w', exec (.completionRecordQueue unit place) s = .next t ∧ t.warp? o.warp = some w' ∧ SameMemory s t
        ∧ w'.records = w.records ++ [⟨o.recordTag, o.kind.code, o.status, o.id⟩] ∧ w'.inFlight = w.inFlight - 1
        ∧ SameIdentity w w' ∧ SameScalars w w' ∧ SameVectors w w' ∧ w'.phase = w.phase
        ∧ (∀ x ∈ t.queueOf unit, x.id ≠ o.id) ∧ (∀ l ∈ (t.cluster (clusterOfUnit unit)).locks, l.owner ≠ o.id)
        ∧ ∀ j, j ≠ o.warp → t.warp? j = s.warp? j)

/-- R271: the selection unit recomputes the summary of a page whose header is good, and leaves a bad one alone with RESULT 2. R270: it
appends keys and values to a page, brings its header and the link of its predecessor up to date, or writes nothing and says why. R273,
R274: it bounds the pages of a source one after another, and writes the records of those it selects: the first and the last, and those at
or above a threshold or the highest up to a count. R279 to R282, R284: the attention engine walks the source of a tile page by page, puts
a hold into both arrays' queues, waits until it is at the head of both, takes the tile's rows through one key block after another, writes
their results and gives the arrays back; where a page is unusable every row of the sequence gets NaN and a status. A request whose tiles
are done ends, its LOSTVA written and its tile slots +0. R285: the prefetcher fills a page one to four places ahead. R332, R335: a page
that is already in the tier a move asks for is not moved; another is copied to the frame its ring gives, its leaf entry names that frame,
its warps' stores on their way follow it, and the old frame goes back to the other ring, at once or when that has room. Details that the
spec leaves to inference are read as assumption logs 12, 24, 25 and 49 say. -/
def Obligations.PageEngines : Prop :=
  ∀ (s : State) (cluster : Nat) (o : EngineOp) (c : Caravan), s.caravan? o.caravan = some c →
    (∀ page at_ pa leaf, s.headOp (.selection cluster) = some o → o.kind = .ksum page at_ → s.mayWork o = true → at_ + 4 < 2 ^ 32 →
      s.meet o page true true = .at_ pa leaf →
      let result (t : State) (v : Nat) : Prop := ∃ c', t.caravan? o.caravan = some c' ∧ (∀ a, Memory.read c'.scratch a =
          if at_ ≤ a ∧ a < at_ + 4 then (natBytes 4 v).getD (a - at_) 0 else Memory.read c.scratch a)
        ∧ ∀ x ∈ t.queueOf (.selection cluster), x.id = o.id → x.state = .finished ∧ x.status = 0
      (headerOf (Memory.readBytes s.mem pa 4096) = none →
        ∃ t, exec (.selectionUnitRun cluster) s = .next t ∧ result t 2 ∧ SameMemory s t) ∧
      (∀ h, headerOf (Memory.readBytes s.mem pa 4096) = some h →
        let new := h.cleared.takeKeys (Memory.readBytes s.mem (pa + 0x1000) (h.count * h.hdim * keyBytes h.kfmt))
        let tag := s.pageTag (leafSecure leaf) page (new.bytes 0 ++ Memory.readBytes s.mem (pa + 0x1000) 0xF000)
        ∃ t, exec (.selectionUnitRun cluster) s = .next t ∧ result t 0 ∧ ∀ a, Memory.read t.mem a =
          if pa ≤ a ∧ a < pa + (new.bytes 0).length then (new.bytes tag.toNat).getD (a - pa) 0 else Memory.read s.mem a)) ∧
    (∀ r, s.headOp (.selection cluster) = some o → o.kind = .kapp r → s.mayWork o = true →
      let ends (t : State) (result appended count : Nat) (status : BitVec 8) : Prop := ∃ c', t.caravan? o.caravan = some c'
        ∧ Wrote c.scratch c'.scratch (r.block + 0x30) (natBytes 4 result ++ natBytes 4 appended ++ natBytes 4 count ++ natBytes 4 0)
        ∧ ∀ x ∈ t.queueOf (.selection cluster), x.id = o.id → x.state = .finished ∧ x.status = status
      ∀ pa leaf, s.meet o r.page true true = .at_ pa leaf →
        let count := Memory.readNat s.mem (pa + 0xC) 4
        let nothing (result : Nat) (status : BitVec 8) : Prop := ∃ t, exec (.selectionUnitRun cluster) s = .next t
          ∧ ends t result 0 count status ∧ SameMemory s t
        let fresh : KeyHeader :=
          { kfmt := r.kfmt, vfmt := r.vfmt, svalid := true, hdim := r.hdim, count := 0, cap := r.cap, pos0 := r.pos0, seqid := r.seqid,
            next := 0, min := (List.range 256).map fun k => if k < r.hdim then 0x7F80 else 0,
            max := (List.range 256).map fun k => if k < r.hdim then 0xFF80 else 0 }
        let header := if r.init then some fresh else headerOf (Memory.readBytes s.mem pa 4096)
        (header = none → nothing 2 0) ∧
        ∀ h, header = some h →
          let kn := r.n * h.hdim * keyBytes h.kfmt
          let vn := r.n * h.hdim * keyBytes h.vfmt
          let data := Memory.readBytes c.scratch r.src (kn + vn)
          let inside : Prop := r.init = true ∨ r.src + r.n * h.hdim * (keyBytes h.kfmt + keyBytes h.vfmt) ≤ c.record.scratch
          (h.cap < h.count + r.n → nothing 1 0) ∧
          (h.count + r.n ≤ h.cap → ¬ inside → nothing 4 3) ∧
          (h.count + r.n ≤ h.cap → inside →
            let tagged (m : Memory) (pa va : Nat) (leaf : DWord) (x : KeyHeader) : List Byte :=
              x.bytes (s.pageTag (leafSecure leaf) va (x.bytes 0 ++ Memory.readBytes m (pa + 0x1000) 0xF000)).toNat
            let appends (t : State) (m : Memory) : Prop := exec (.selectionUnitRun cluster) s = .next t
              ∧ ends t 0 r.n (h.count + r.n) 0 ∧ ∃ m1 m2,
                Wrote s.mem m1 (pa + 0x1000 + h.count * h.hdim * keyBytes h.kfmt) (data.take kn)
                ∧ Wrote m1 m2 (pa + valueOffset h.kfmt h.hdim h.cap + h.count * h.hdim * keyBytes h.vfmt) (data.drop kn)
                ∧ Wrote m2 m pa (tagged m2 pa r.page leaf { h.takeKeys (data.take kn) with count := h.count + r.n })
            (r.link = false → ∃ t, appends t t.mem) ∧
            (r.link = true → r.prev % 65536 ≠ 0 → nothing 3 0) ∧
            ∀ qa ql, r.link = true → r.prev % 65536 = 0 → s.meet o r.prev true true = .at_ qa ql →
              let before := headerOf (Memory.readBytes s.mem qa 4096)
              ((∀ q, before = some q → q.next ≠ 0) → nothing 3 0) ∧
              (∀ q, before = some q → q.next = 0 → ∃ t m, appends t m ∧ ∀ p, headerOf (Memory.readBytes m qa 4096) = some p →
                Wrote m t.mem qa (tagged m qa r.prev ql { p with next := r.page })))) ∧
    (∀ r, s.headOp (.selection cluster) = some o → o.kind = .ksel r → s.mayWork o = true →
      let stands (t : State) (x : EngineOp) : Prop := t.queueOf (.selection cluster) =
        (s.queueOf (.selection cluster)).map fun y => if y.id = o.id then x else y
      let over_ : Prop := r.addr = 0 ∨ r.n ≤ o.progress ∨ (r.mode = 0 ∧ o.cursor = 0)
      let bytes (l : List (Nat × Nat)) : List Byte := l.flatMap fun p => Memory.readBytes s.mem p.1 p.2
      (∀ va pieces, ¬ over_ → (r.mode = 0 → va = o.cursor) →
        (r.mode ≠ 0 → ∃ l, s.meetSpan o (r.addr + 8 * o.progress) 8 false false = .go l ∧ va = bytesNat (bytes l)) →
        s.meetSpan o va 4096 false false = .go pieces →
        let now (x : EngineOp) : Prop := ∃ t, exec (.selectionUnitRun cluster) s = .next t ∧ SameMemory s t ∧ t.caravans = s.caravans
          ∧ stands t { x with state := .running, progress := o.progress + 1 }
        (headerOf (bytes pieces) = none → now { o with
          cursor := if r.mode = 0 then 0 else o.cursor, result := if o.result = 0 then 2 else o.result
          lost := if o.result = 0 then va else o.lost }) ∧
        (∀ h, headerOf (bytes pieces) = some h → now { o with
          cursor := if r.mode = 0 then h.next else o.cursor
          data := if h.count = 0 then o.data
            else o.data ++ natBytes 8 va ++ natBytes 4 (pageBound c.scratch r h) ++ natBytes 4 o.progress })) ∧
      (∀ pieces, over_ →
        let l := candidatesOf o.data
        let chosen := selectPages r l
        let records := chosen.flatMap fun x => natBytes 8 x.va ++ natBytes 4 x.bound ++ natBytes 4 x.index
        let result := if o.result ≠ 0 then o.result
          else if r.mode = 0 ∧ r.addr ≠ 0 ∧ r.n ≠ 0 ∧ r.n ≤ o.progress ∧ o.cursor ≠ 0 then 1 else 0
        s.meetSpan o r.waddr records.length true false = .go pieces → pieces.length ≤ 1 →
        ∃ t c', exec (.selectionUnitRun cluster) s = .next t ∧ t.caravan? o.caravan = some c'
          ∧ Wrote s.mem t.mem ((pieces.headD (0, 0)).1) records
          ∧ Wrote c.scratch c'.scratch (r.block + 0x28) (natBytes 4 chosen.length ++ natBytes 4 (rejectedMax l chosen)
              ++ natBytes 4 l.length ++ natBytes 4 result ++ natBytes 8 o.lost)
          ∧ ∀ x ∈ t.queueOf (.selection cluster), x.id = o.id → x.state = .finished ∧ x.status = o.status)) ∧
    (∀ (h : KeyHeader) (q : Nat → FVal) (n : Nat) (m : Memory) (r : KselReq) (l : List Candidate),
      let up (v : FVal) : FVal := Fmt.f32.decode (Fmt.f32.result 2 0 v).1
      let term (k : Nat) : FVal := largerOf (up ((q k).mul (Fmt.bf16.decode (h.min.getD k 0))).1) (up ((q k).mul (Fmt.bf16.decode (h.max.getD k 0))).1)
      let query (i k : Nat) : FVal := Fmt.f32.decode (Memory.readNat m (r.qoff + 4 * (i * r.hdim + k)) 4)
      let chosen := selectPages r l
      boundOf h 1 q = term 0 ∧ (1 ≤ n → boundOf h (n + 1) q = up ((boundOf h n q).add 2 (term n)).1) ∧
      (h.svalid = false → pageBound m r h = 0x7F800000) ∧
      (h.svalid = true → r.nq = 1 → pageBound m r h =
        if (boundOf h r.hdim (query 0)).isNaN then 0x7F800000 else Fmt.f32.exact (boundOf h r.hdim (query 0))) ∧
      chosen.Sublist l ∧ (∀ x, l.head? = some x ∨ l.getLast? = some x → x ∈ chosen) ∧
      ((l.map fun x => x.index).Nodup → chosen.length ≤ 256
        ∧ (r.top = true → 2 ≤ r.limit.toNat → r.limit.toNat ≤ 256 → chosen.length = min l.length r.limit.toNat)
        ∧ (r.top = false → l.length ≤ 256 → ∀ x ∈ l, l.head? ≠ some x → l.getLast? ≠ some x → (x ∈ chosen ↔
            (f32Val r.limit).less (Fmt.f32.decode x.bound) = true ∨ (f32Val r.limit).equal (Fmt.f32.decode x.bound) = true)))) ∧
    (∀ x y, s.headOp (.matrix (2 * cluster)) = some x → s.headOp (.matrix (2 * cluster + 1)) = some y → x.kind = .hold → y.kind = .hold →
      x.state = .queued → y.state = .queued → cluster < 288 → exec (.hold cluster) s = .next
        (s.updCluster cluster fun k => { k with holding := true })) ∧
    (∀ r, s.headOp (.attention cluster) = some o → o.kind = .katt r → s.mayWork o = true → r.tiles.length ≤ o.progress →
      ∃ t c', exec (.attentionEngineRun cluster) s = .next t ∧ t.caravan? o.caravan = some c' ∧ SameMemory s t
        ∧ (∀ a, Memory.read c'.scratch a = if r.block + 0x48 ≤ a ∧ a < r.block + 0x50 then (natBytes 8 o.lost).getD (a - (r.block + 0x48)) 0
            else Memory.read c.scratch a)
        ∧ (∀ k j col th, lane ((t.core k).column j col) th =
            if (k = o.core ∨ k = otherCore o.core) ∧ r.eslot ≤ j ∧ j ≤ r.eslot + 2 then 0 else lane ((s.core k).column j col) th)
        ∧ ∀ x ∈ t.queueOf (.attention cluster), x.id = o.id → x.state = .finished ∧ x.status = o.status) ∧
    (∀ r tile, s.headOp (.attention cluster) = some o → o.kind = .katt r → s.mayWork o = true → r.tiles[o.progress]? = some tile →
      let k := s.cluster cluster
      let q := tile.seq
      let stands (t : State) (x : EngineOp) : Prop := t.queueOf (.attention cluster) =
        (s.queueOf (.attention cluster)).map fun y => if y.id = o.id then x else y
      let bytes (l : List (Nat × Nat)) : List Byte := l.flatMap fun p => Memory.readBytes s.mem p.1 p.2
      let run (t : State) : Prop := exec (.attentionEngineRun cluster) s = .next t ∧ t.caravans = s.caravans
      let free (t : State) : Prop := (t.cluster cluster).holding = false ∧ (t.cluster cluster).holdPlaced = false
        ∧ ∀ j ∈ [2 * cluster, 2 * cluster + 1], t.queueOf (.matrix j) = (s.queueOf (.matrix j)).filter fun x => x.kind != .hold
      let written (m : Memory) (n first : Nat) (row : Nat → List Nat × Word × Word × Nat) : Prop :=
        let codes (i : Nat) : List Byte := (row i).1.flatMap fun x => natBytes (outBytes r.outfmt) x
        ∀ pa pb pc : Nat → Nat, (∀ i < n, s.meetSpan o (r.out + (first + i) * r.ostride) (codes i).length true false = .go [(pa i, (codes i).length)]
            ∧ s.meetSpan o (r.rstat + (first + i)) 1 true false = .go [(pb i, 1)]
            ∧ (r.partialOut = true → s.meetSpan o (r.mlout + 8 * (first + i)) 8 true false = .go [(pc i, 8)])) →
          ∃ f : Nat → Memory, f 0 = s.mem ∧ f (3 * n) = m ∧ ∀ i < n,
            Wrote (f (3 * i)) (f (3 * i + 1)) (pa i) (codes i) ∧ Wrote (f (3 * i + 1)) (f (3 * i + 2)) (pb i) (natBytes 1 (row i).2.2.2)
            ∧ (if r.partialOut then Wrote (f (3 * i + 2)) (f (3 * i + 3)) (pc i) (natBytes 4 (row i).2.1.toNat ++ natBytes 4 (row i).2.2.1.toNat)
               else f (3 * i + 3) = f (3 * i + 2))
      let reachable (n first : Nat) (row : Nat → List Nat × Word × Word × Nat) : Prop := ∀ i < n, ∃ pa pb pc,
        let codes := (row i).1.flatMap fun x => natBytes (outBytes r.outfmt) x
        s.meetSpan o (r.out + (first + i) * r.ostride) codes.length true false = .go [(pa, codes.length)]
        ∧ s.meetSpan o (r.rstat + (first + i)) 1 true false = .go [(pb, 1)]
        ∧ (r.partialOut = true → s.meetSpan o (r.mlout + 8 * (first + i)) 8 true false = .go [(pc, 8)])
      let lostRow (status : Nat) : List Nat × Word × Word × Nat :=
        (List.replicate r.hdim (matrixFmt r.outfmt).nanCode, canonicalNaN, canonicalNaN, status)
      let fails (va status : Nat) (code : BitVec 8) : Prop :=
        reachable (q.rowTo - q.rowFrom) q.rowFrom (fun _ => lostRow status) → ∃ t x, run t ∧ free t ∧ stands t x
          ∧ written t.mem (q.rowTo - q.rowFrom) q.rowFrom (fun _ => lostRow status)
          ∧ x = { o with
              settled := x.settled, blocks := 0, rows := [], source := [], walk := none, status := worse o.status code, result := 1
              lost := if o.result = 0 then va else o.lost
              progress := (r.tiles.zipIdx.filter fun y => decide (y.1.index ≤ tile.index)).length }
      let none_ := AttnRow.mk false 0xFF800000 (0, 0) (List.replicate r.hdim (0, 0))
      (k.holding = false → k.holdPlaced = true → exec (.attentionEngineRun cluster) s = .next s) ∧
      (k.holding = false → k.holdPlaced = false →
        let w := o.walk.getD ⟨[], none, none, 0, 0, q.addr⟩
        (∀ va pieces, w.done q = false → (q.mode = 0 → va = w.next) →
          (q.mode ≠ 0 → ∃ l, s.meetSpan o (q.addr + (if q.mode = 1 then 8 else 16) * w.passed) 8 false false = .go l ∧ va = bytesNat (bytes l)) →
          s.meetSpan o va 4096 false false = .go pieces →
          let now (x : Walk) : Prop := ∃ t, run t ∧ SameMemory s t
            ∧ stands t { o with state := .running, walk := some { x with passed := w.passed + 1 } }
          let header := headerOf (bytes pieces)
          let fits (h : KeyHeader) : Prop := h.count = 0 ∨ (h.hdim = r.hdim ∧ ∀ f, w.formats = some f → f = (h.kfmt, h.vfmt))
          ((∀ h, header = some h → ¬ fits h) →
            now { w with failed := some (w.failed.getD (va, 3)), next := if q.mode = 0 then 0 else w.next }) ∧
          (∀ h, header = some h → fits h → now { w with
            next := h.next, formats := if h.count = 0 then w.formats else some (h.kfmt, h.vfmt)
            pages := if h.count = 0 then w.pages
              else w.pages ++ [⟨va, h.count, h.pos0, valueOffset h.kfmt h.hdim h.cap, h.kfmt, h.vfmt⟩] })) ∧
        (∀ va status, w.done q = true → w.failed = some (va, status) → fails va status w.status) ∧
        (w.done q = true → w.failed = none → ∃ t hold, run t ∧ SameMemory s t ∧ (t.cluster cluster).holdPlaced = true
          ∧ hold.kind = .hold ∧ hold.state = .queued
          ∧ (∀ j ∈ [2 * cluster, 2 * cluster + 1], t.queueOf (.matrix j) = s.queueOf (.matrix j) ++ [hold])
          ∧ stands t { o with
              state := .running, blocks := 0, source := w.pages, walk := none, rows := List.replicate (tile.last - tile.first) none_ })) ∧
      (k.holding = true →
        (∀ va status w, o.walk = some w → w.failed = some (va, status) → fails va status w.status) ∧
        (∀ b qb kp vp, o.walk = none → (keyBlocks o.source)[o.blocks]? = some b →
          let zk := keyBytes b.page.kfmt
          let zv := keyBytes b.page.vfmt
          let n := r.hdim * keyBytes r.qfmt
          (∀ i < tile.last - tile.first, let a := r.qbase + (tile.first + i) * r.qstride
            (r.qscratch = true → qb i = Memory.readBytes c.scratch a n)
            ∧ (r.qscratch = false → ∃ l, s.meetSpan o a n false false = .go l ∧ qb i = bytes l)) →
          s.meetSpan o (b.page.va + 0x1000 + b.first * r.hdim * zk) (b.count * r.hdim * zk) false false = .go kp →
          s.meetSpan o (b.page.va + b.page.voff + b.first * r.hdim * zv) (b.count * r.hdim * zv) false false = .go vp →
          let out := blockRows r tile o b ((List.range (tile.last - tile.first)).map qb) (bytes kp) (bytes vp)
          ∃ t, run t ∧ SameMemory s t ∧ stands t { o with rows := out.1, flags := o.flags ||| out.2, blocks := o.blocks + 1 }) ∧
        (o.walk = none → (keyBlocks o.source)[o.blocks]? = none →
          let row (i : Nat) := (o.rows.getD i none_).result r.outfmt r.partialOut
          reachable (tile.last - tile.first) tile.first row → ∃ t x, run t ∧ free t ∧ stands t x
            ∧ written t.mem (tile.last - tile.first) tile.first row
            ∧ x = { o with settled := x.settled, progress := o.progress + 1, blocks := 0, rows := [], source := [] }))) ∧
    (∀ (r : KattReq) (tile : TileRows) (b : KeyBlock) (queries : List (List Byte)) (kb vb : List Byte) (row : AttnRow) (x y : Nat),
      let sees (i k : Nat) : Bool := r.visible (tile.seq.qpos + (tile.first + i) - tile.seq.rowFrom) (b.page.pos0 + b.first + k)
      let f := matrixFmt r.outfmt
      let sum (v : Cell) : FVal := ((f32Val v.1).add 0 (f32Val v.2)).1
      (r.visible x y = true ↔ r.mask = 0 ∨ (r.mask = 1 ∧ y ≤ x) ∨ (r.mask = 2 ∧ x < y + r.mparam ∧ y ≤ x)
        ∨ (3 ≤ r.mask ∧ (y < r.mparam ∨ y ≤ x))) ∧
      ((∀ i < tile.last - tile.first, ∀ k < b.count, sees i k = false) → blockRows r tile o b queries kb vb = (o.rows, 0)) ∧
      (∀ i < tile.last - tile.first, ∀ z, (∀ a, o.rows[i]? = some a → (f32Val a.m).isNaN = true → a.seen = true) →
        (blockRows r tile o b queries kb vb).1 ≠ o.rows → (blockRows r tile o b queries kb vb).1[i]? = some z →
        (z.seen = true ↔ (∃ a, o.rows[i]? = some a ∧ a.seen = true) ∨ ∃ k < b.count, sees i k = true)) ∧
      (row.seen = false → row.result r.outfmt r.partialOut = (row.o.map fun _ => 0, 0xFF800000, 0, 1)) ∧
      (row.seen = true → row.result r.outfmt r.partialOut = (row.o.map fun v => if r.partialOut then (f.convert rne false 0 (sum v)).1
        else quotient f (sum v) (sum row.l), row.m, f32Of (sum row.l), 0))) ∧
    (∀ ahead p u e, s.headOp (.attention cluster) = some o → 1 ≤ ahead → ahead ≤ 4 → s.mayWork o = true →
      o.source[(match (keyBlocks o.source)[o.blocks]? with | some b => b.place | none => o.source.length) + ahead]? = some p →
      s.peek o.core o.ctx p.va = (u, some e) → leafPoison e.leaf = false → protectDetail (s.ctxSecure o.ctx) false e.leaf = none →
      leafTier e.leaf = false → s.owed = [] →
      ∃ t, exec (.chainPrefetch cluster ahead) s = .next t
        ∧ t = { s with cores := t.cores, clusters := t.clusters, dies := t.dies, lineE := t.lineE, evx := t.evx, warps := t.warps }
        ∧ (∀ id x, s.warp? id = some x → ∃ y, t.warp? id = some y ∧ y = { x with watches := y.watches })
        ∧ (∀ l, s.leaseEnd l ≤ t.leaseEnd l)
        ∧ ∀ i < 512, (Tbl.find t.lineE (leafPa e.leaf (p.va / 65536 * 65536) / 128 + i)).isSome = true) ∧
    (∀ unit va up ring frame rest, s.headOp unit = some o → o.kind = .move va up → s.mayWork o = true → s.owed = [] →
      o.progress = 1 → o.pages = (ring, frame) :: rest →
      (ringRoom s.mem ring = true → ∃ t, exec (.pageMove unit) s = .next t
        ∧ TwoWords s t (ringTail s.mem ring) (natBytes 8 frame) (ring + 24) (natBytes 8 (Memory.readNat s.mem (ring + 24) 8 + 1))
        ∧ ∀ x ∈ t.queueOf unit, x.id = o.id → x.state = .finished ∧ x.status = o.status) ∧
      (ringRoom s.mem ring = false → ∃ t, exec (.pageMove unit) s = .next t ∧ SameMemory s t
        ∧ ∀ x ∈ t.queueOf unit, x.id = o.id → x.state = .running ∧ x.progress = 1 ∧ x.pages = [(ring, frame)])) ∧
    (∀ unit va up e, s.headOp unit = some o → o.kind = .move va up → s.mayWork o = true → va < 2 ^ 55 → s.owed = [] →
      o.progress ≠ 1 → s.moving o.ctx va = false → o.pages.contains (o.ctx, va / 65536) = false → s.walking (.engine o.id) = false → s.translated o.core o.ctx va false = some e →
      (leafSecure e.leaf = true → s.ctxSecure o.ctx = true) → leafSize e.leaf = 0 → leafPoison e.leaf = false →
      let ended (t : State) : Prop := ∀ x ∈ t.queueOf unit, x.id = o.id → x.state = .finished ∧ x.status = 0
      (leafTier e.leaf = (!up) → ∃ t, exec (.pageMove unit) s = .next t ∧ SameMemory s t ∧ ended t ∧ t.warps = s.warps) ∧
      (∀ k f, leafTier e.leaf = up → Tbl.find s.contexts o.ctx = some k → Memory.wf s.mem = true →
        ringFrame s.mem (k.ringOf up) = some f →
        (up = true → s.tagAgrees e.leaf (va / 65536 * 65536) (leafBase e.leaf) (Memory.readBytes s.mem (leafBase e.leaf) 65536) = true) →
        let taken := (s.ringTake (k.ringOf up)).mem
        let entry := natBytes 8 (movedLeaf (Memory.readDWord s.mem e.leafAt) f up).toNat
        let back := k.ringOf (!up)
        ∃ t m, exec (.pageMove unit) s = .next t
          ∧ (ringRoom m back = true → ended t ∧ t.mem = (State.ringReturn { s with mem := m } back (leafBase e.leaf)).mem)
          ∧ (ringRoom m back = false → t.mem = m ∧ ∀ x ∈ t.queueOf unit, x.id = o.id →
              x.state = .running ∧ x.progress = 1 ∧ x.status = 0 ∧ x.pages = [(back, leafBase e.leaf)])
          ∧ (∀ a, Memory.read m a =
              if e.leafAt ≤ a ∧ a < e.leafAt + 8 then entry.getD (a - e.leafAt) 0
              else if f ≤ a ∧ a < f + 65536 then Memory.read taken (leafBase e.leaf + (a - f)) else Memory.read taken a)
          ∧ ∀ id x, s.warp? id = some x → ∃ y, t.warp? id = some y ∧ y.stores = (x.moved (leafBase e.leaf) f).stores ∧ KeepsRegisters x y))

/-! ### Debug, trace, sampler and system instructions -/

/-- R303 to R310, R314 to R316: a `dbg` acts on the context its own context is attached to, or on the warp of that context that the pair SA
names, and answers a status and a value in the pair SC; every other register of the issuing warp keeps what it holds. Status 1: not
attached; 2: no such warp; 3: not debug-halted; 4: no entry free; 5: no such register; 6: thread not active; 7: already halted; 8: a range
beyond the allotment; 9: no such entry; 10: the line is held by another; 11: no depth for a step; 12: inside a run. Details that the spec
leaves to inference are read as assumption log 26 says. -/
def Obligations.Debugger : Prop :=
  ∀ (s : State) (w : Warp) (me : Context) (f : EForm), s.curWarp = some w → Tbl.find s.contexts w.ctx = some me →
    (s.warps.map fun p => p.1).Nodup →
    let answered (u t : State) (status value : Word) : Prop := ∃ x, u.curWarp = some x ∧ PairResult u x t f.sc (value ++ status)
    let onWarp (i : EForm → Instr) : Prop := i ∈ [Instr.dbgStep, .dbgWatch, .dbgUnwatch, .dbgRdreg, .dbgWrreg]
      ∨ (i ∈ [Instr.dbgHalt, .dbgResume] ∧ f.imm.getLsbD 0 = false)
    let entry : Nat × Nat := ((w.spair f.sa).toNat, (f.imm.extractLsb' 0 12).toNat)
    (∀ i ∈ [Instr.dbgSetbrk, .dbgClrbrk, .dbgHalt, .dbgResume, .dbgStep, .dbgWatch, .dbgUnwatch, .dbgRdreg, .dbgWrreg],
      Ready s w (i f) → me.target = none → ∃ t, exec (i f) s = .next t ∧ answered s t 1 0) ∧
    (∀ n c, me.target = some n → Tbl.find s.contexts n = some c →
      let breaks (l : List (Nat × Nat)) : State := { s with contexts := Tbl.put s.contexts n { c with breakpoints := l } }
      let part := Tbl.findD s.partitions (s.partitionOf n) Partition.initial
      let foreign : Prop := ∃ h ∈ part.holders, h ≠ .fault ∧ h ≠ .debug w.ctx
      let halted : Partition := { part with
        halt := some (part.halt.getD s.time), stops := if part.halt = none then [] else part.stops,
        holders := part.holders ++ [.debug w.ctx], haltReport := some w.ctx }
      (Ready s w (.dbgSetbrk f) →
        (entry ∈ c.breakpoints → ∃ t, exec (.dbgSetbrk f) s = .next t ∧ answered s t 0 0) ∧
        (entry ∉ c.breakpoints → 16 ≤ c.breakpoints.length → ∃ t, exec (.dbgSetbrk f) s = .next t ∧ answered s t 4 0) ∧
        (entry ∉ c.breakpoints → c.breakpoints.length < 16 → ∃ t, exec (.dbgSetbrk f) s = .next t ∧ answered
          (breaks (c.breakpoints ++ [entry])) t 0 0)) ∧
      (Ready s w (.dbgClrbrk f) →
        (entry ∉ c.breakpoints → ∃ t, exec (.dbgClrbrk f) s = .next t ∧ answered s t 9 0) ∧
        (entry ∈ c.breakpoints → ∃ t, exec (.dbgClrbrk f) s = .next t ∧ answered
          (breaks (c.breakpoints.filter fun x => x != entry)) t 0 0)) ∧
      (Ready s w (.dbgHalt f) → f.imm.getLsbD 0 = true →
        (foreign → ∃ t, exec (.dbgHalt f) s = .next t ∧ answered s t 10 0) ∧
        (¬ foreign → .debug w.ctx ∈ part.holders → ∃ t, exec (.dbgHalt f) s = .next t ∧ answered s t 7 0) ∧
        (¬ foreign → .debug w.ctx ∉ part.holders → ∃ u t, exec (.dbgHalt f) s = .next t ∧ answered u t 0 0
          ∧ u = { s with partitions := u.partitions, warps := u.warps }
          ∧ (∀ id x, s.warp? id = some x → ∃ b, u.warp? id = some { x with wasDeferred := b })
          ∧ ∀ k, Tbl.findD u.partitions k Partition.initial =
            if k = s.partitionOf n then halted else Tbl.findD s.partitions k Partition.initial)) ∧
      (Ready s w (.dbgResume f) → f.imm.getLsbD 0 = true →
        (foreign → ∃ t, exec (.dbgResume f) s = .next t ∧ answered s t 10 0) ∧
        (¬ foreign → part.holders = [] → ∃ t, exec (.dbgResume f) s = .next t ∧ answered s t 0 0) ∧
        (¬ foreign → part.holders ≠ [] → ∃ u t, exec (.dbgResume f) s = .next t ∧ answered u t 0 0 ∧ u.mem = s.mem
          ∧ u = { s with partitions := u.partitions, warps := u.warps, cores := u.cores, clusters := u.clusters }
          ∧ (∀ k, Tbl.findD u.partitions k Partition.initial = if k = s.partitionOf n
              then { part with halt := none, holders := [], haltReport := none } else Tbl.findD s.partitions k Partition.initial)
          ∧ (∀ id x k, s.warp? id = some x → x.phase = .stopped → x.core < 576 → Tbl.find s.contexts x.ctx = some k →
              k.partition = s.partitionOf n → x.stopWait = none → ∃ y, u.warp? id = some y ∧ y.phase = .fetch
                ∧ (∀ r : BitVec 6, r ≠ 57 → y.sreg r = x.sreg r) ∧ y.preds = x.preds ∧ SameStack x y
                ∧ ∀ v < x.quota, ∀ th < 96, lane (listGet [] (u.vregsOf y) v) th = lane (listGet [] (s.vregsOf x) v) th)
          ∧ ∀ id x, s.warp? id = some x → (∀ k, Tbl.find s.contexts x.ctx = some k → k.partition ≠ s.partitionOf n) →
              u.warp? id = some x)) ∧
      let found := s.warps.find? fun p => p.2.ctx == n && p.2.caravan == (w.spair f.sa).toNat % 2 ^ 32
        && p.2.pass == (w.spair f.sa).toNat / 2 ^ 32
      (found = none → ∀ i, onWarp i → Ready s w (i f) → ∃ t, exec (i f) s = .next t ∧ answered s t 2 0) ∧
      ∀ id x, found = some (id, x) →
        let runs (i : EForm → Instr) (status value : Word) : Prop := ∃ t, exec (i f) s = .next t ∧ answered s t status value
        let effect (i : EForm → Instr) (u : State) : Prop := ∃ t, exec (i f) s = .next t ∧ answered u t 0 0
        let e := (f.imm.extractLsb' 0 2).toNat
        let held : Prop := ∃ q, (s.core x.core).watchpoints.getD e none = some q ∧ q.caravan ≠ x.caravan
        let start := (w.sreg f.sb).toNat
        let len := (w.sreg (f.sb + 1)).toNat
        let watching (u : State) (v : Option Watchpoint) : Prop := u = { s with cores := u.cores, warps := u.warps }
          ∧ (∀ k, u.core k = if k = x.core then
              { s.core k with watchpoints := listPut none (s.core k).watchpoints e v } else s.core k)
          ∧ ∀ j y, s.warp? j = some y → u.warp? j =
              some (if y.caravan = x.caravan then { y with watchHits := listPut none y.watchHits e none } else y)
        let stopped : Prop := x.debugHalted = true ∧ s.posting id = false
        let reads : Prop := stopped ∨ (∃ how, x.phase = .faultStopped how) ∧ s.posting id = false
        let bits (lo size : Nat) : Nat := f.imm.toNat / 2 ^ lo % 2 ^ size
        let v := w.sreg f.sb
        (Ready s w (.dbgHalt f) → f.imm.getLsbD 0 = false →
          (x.debugHalted = true ∨ x.haltPending = true → runs .dbgHalt 7 0) ∧
          (x.debugHalted = false → x.haltPending = false → effect .dbgHalt (s.setWarp id { x with haltPending := true }))) ∧
        (Ready s w (.dbgResume f) → f.imm.getLsbD 0 = false →
          (¬ stopped → runs .dbgResume 3 0) ∧
          (stopped → effect .dbgResume
            (s.setWarp id { x with debugHalted := false, skipBreak := x.resume.isNone }))) ∧
        (Ready s w (.dbgStep f) →
          let k := bits 0 7
          let whole := f.imm.getLsbD 7
          let one := BitVec.ofNat 96 (2 ^ k)
          (¬ stopped → runs .dbgStep 3 0) ∧
          (stopped → whole = true → effect .dbgStep (s.setWarp id
            { x with debugHalted := false, skipBreak := true, step := some ⟨true, 0⟩, stepRuns := 0, stepState := x.stepState &&& 0xFE })) ∧
          (stopped → whole = false → x.resume ≠ none → runs .dbgStep 12 0) ∧
          (stopped → whole = false → x.resume = none → x.mask.getLsbD k = false → runs .dbgStep 6 0) ∧
          (stopped → whole = false → x.resume = none → x.mask.getLsbD k = true → 1024 ≤ x.depth → runs .dbgStep 11 0) ∧
          (stopped → whole = false → x.resume = none → x.mask.getLsbD k = true → x.depth < 1024 →
            ∃ u y, effect .dbgStep u ∧ u = { s with warps := u.warps, mem := u.mem, tagv := u.tagv, lineE := u.lineE, evx := u.evx } ∧ SameOutsideSpill s u x
              ∧ u.warp? id = some y ∧ (∀ j z, j ≠ id → s.warp? j = some z → ∃ l, u.warp? j = some { z with watches := l })
              ∧ fullStack u y = ⟨.pending, BitVec.ofNat 24 x.next, x.mask &&& ~~~one⟩ :: fullStack s x ∧ y.mask = one
              ∧ y = { x with scalars := y.scalars, stack := y.stack, spilled := y.spilled, debugHalted := false, skipBreak := true,
                             step := some ⟨false, k⟩, stepRuns := 0, stepState := BitVec.ofNat 32 (1 + 2 * k),
                             watches := y.watches }
              ∧ SameButMask x y)) ∧
        (Ready s w (.dbgWatch f) →
          (held → runs .dbgWatch 4 0) ∧
          (¬ held → len = 0 ∨ s.allotment x < start + len → runs .dbgWatch 8 0) ∧
          (¬ held → len ≠ 0 → start + len ≤ s.allotment x → ∃ u, effect .dbgWatch u
            ∧ watching u (some ⟨x.caravan, start, len, f.imm.getLsbD 2, f.imm.getLsbD 3⟩))) ∧
        (Ready s w (.dbgUnwatch f) →
          (held → runs .dbgUnwatch 4 0) ∧ (¬ held → ∃ u, effect .dbgUnwatch u ∧ watching u none)) ∧
        (Ready s w (.dbgRdreg f) →
          (¬ reads → runs .dbgRdreg 3 0) ∧
          (reads →
            let value : Option Word := match bits 0 3 with
              | 0 => some (x.sreg (f.imm.extractLsb' 4 6))
              | 1 => if bits 4 7 < x.quota then some (lane (listGet [] (s.vregsOf x) (bits 4 7)) (bits 16 7)) else none
              | 2 => some ((x.predicate (bits 4 3)).extractLsb' (32 * bits 16 2) 32)
              | 3 => some (s.readSpecial x (bits 4 12))
              | 4 => ((fullStack s x)[bits 4 10]?).map fun k =>
                  BitVec.ofNat 32 (bytesNat (((entryBytes k).drop (4 * bits 16 2)).take 4))
              | 5 => if bits 4 4 < s.tracksOf x then (s.caravan? x.caravan).map fun k => slotWord (k.slot (bits 4 4) (bits 8 4))
                  (bits 16 7) (bits 23 2) else none
              | _ => none
            match value with
            | some v => runs .dbgRdreg 0 v
            | none => runs .dbgRdreg 5 0)) ∧
        (Ready s w (.dbgWrreg f) →
          (¬ reads → runs .dbgWrreg 3 0) ∧
          (reads → 4 ≤ bits 0 3 ∨ (bits 0 3 = 1 ∧ x.quota ≤ bits 4 7) → runs .dbgWrreg 5 0) ∧
          (reads → bits 0 3 = 1 → bits 4 7 < x.quota → x.inFrame = true → effect .dbgWrreg
            (s.homeWrite (x.frame + 384 * bits 4 7 + 4 * bits 16 7) (natBytes 4 v.toNat))) ∧
          (reads → bits 0 3 < 4 → (bits 0 3 = 1 → bits 4 7 < x.quota ∧ x.inFrame = false) → ∃ y, effect .dbgWrreg (s.setWarp id y)
            ∧ match bits 0 3 with
              | 0 => WritesScalar x y (f.imm.extractLsb' 4 6) v ∧ y = { x with scalars := y.scalars, tinfo := y.tinfo }
              | 1 => y = { x with vregs := y.vregs } ∧ ∀ n th, th < 96 → lane (listGet [] y.vregs n) th =
                  if n = bits 4 7 ∧ th = bits 16 7 then v else lane (listGet [] x.vregs n) th
              | 2 => y = { x with preds := y.preds } ∧ ∀ n th, n < 7 → th < 96 → (y.predicate n).getLsbD th =
                  if n = bits 4 3 ∧ th / 32 = bits 16 2 then v.getLsbD (th % 32) else (x.predicate n).getLsbD th
              | _ => y = { x.writeSpecial (bits 4 12) v with redirected := x.redirected || bits 4 12 == 5 })))

/-- R317, R319, R320: `trc.on`, `trc.off` and `trc.anchor` act on the warp itself, or on the warps of the caravan and the pass, or every pass,
that SB names, and answer 0 in SC; a warp already traced keeps its ring, and one that stands between two runs emits nothing after
`trc.off`. Where nothing is named they answer 2, and `trc.on` answers 8 for a
control block that is no good one. `trc.mark` adds a MARK record of a traced warp. R321 to R324: `samp.cfg` takes the configuration of a
block for its context where the sampler of the cluster is free or its own and does not run; `samp.start` starts it, its counters at 0 and
each scheduler one STEP on; `samp.stop` gives it back. A row is written when it is due, and a tagged record oldest first, once its
instruction has written back. Details that the
spec leaves to inference are read as assumption logs 27 and 28 say. -/
def Obligations.TraceAndSampler : Prop :=
  (∀ (s : State) (w : Warp) (f : EForm), s.curWarp = some w → (s.warps.map fun p => p.1).Nodup →
     let self : Prop := f.imm.getLsbD 0 = true
     let cv := (w.spair f.sb).toNat % 2 ^ 32
     let pass := (w.spair f.sb).toNat / 2 ^ 32
     let may (ctx : Nat) : Prop := ctx = w.ctx ∨ ∃ k, Tbl.find s.contexts w.ctx = some k ∧ k.target = some ctx
     let named (id : Nat) (x : Warp) : Prop := if f.imm.getLsbD 0 = true then id = s.cur
       else may x.ctx ∧ x.caravan = cv ∧ (pass = 2 ^ 32 - 1 ∨ x.pass = pass)
     let future (k : Caravan) : Prop := ¬ self ∧ pass = 2 ^ 32 - 1 ∧ s.caravan? cv = some k ∧ may k.ctx
     let nothing : Prop := ¬ self ∧ (∀ id x, s.warp? id = some x → ¬ named id x) ∧ ∀ k, ¬ future k
     let answered (u t : State) (status : Word) : Prop := ∃ x, u.curWarp = some x ∧ PairResult u x t f.sc ((0 : Word) ++ status)
     let sets (i : Instr) (g : Warp → Warp) (h : Option (Caravan → Caravan)) : Prop := ∃ t u, exec i s = .next t ∧ answered u t 0
       ∧ u = { s with warps := u.warps, caravans := u.caravans }
       ∧ (∀ id x, s.warp? id = some x → (named id x → u.warp? id = some (g x)) ∧ (¬ named id x → u.warp? id = some x))
       ∧ ∀ id k, s.caravan? id = some k → (∀ e, h = some e → id = cv → future k → u.caravan? id = some (e k))
           ∧ (h = none ∨ id ≠ cv ∨ ¬ future k → u.caravan? id = some k)
     let fresh (ring : TraceRing) (waiting : List (TraceRing × List Byte)) : TraceState := ⟨ring, 0, true, false, false, false, waiting⟩
     let on (ring : TraceRing) (x : Warp) : Warp := match x.trace with
       | none => { x with trace := some (fresh ring []) }
       | some tr => if tr.off then { x with trace := some (fresh ring tr.waiting) } else x
     let off (x : Warp) : Warp := match x.trace with
       | none => x
       | some tr =>
         if x.run = none ∨ x.phase = .boundary then
           { x with trace := some { tr with off := true, started := false, anchorSafe := false, anchorNext := false } }
         else { x with trace := some { tr with off := true } }
     let anchor (x : Warp) : Warp := match x.trace with
       | none => x
       | some tr => if tr.off then x else { x with trace := some { tr with anchorSafe := true } }
     (∀ i ∈ [Instr.trcOn f, .trcOff f, .trcAnchor f], Ready s w i → nothing → ∃ t, exec i s = .next t ∧ answered s t 2) ∧
     (¬ nothing → Ready s w (.trcOff f) → sets (.trcOff f) off (some fun k => { k with traceRing := none })) ∧
     (¬ nothing → Ready s w (.trcAnchor f) → sets (.trcAnchor f) anchor none) ∧
     (∀ b, ¬ nothing → Ready s w (.trcOn f) → s.readSpan w.core w.ctx (w.spair f.sa).toNat 64 = .ok b →
       let field (off n : Nat) : Nat := bytesNat ((b.drop off).take n)
       let ring : TraceRing := ⟨w.ctx, (w.spair f.sa).toNat, field 0 8, field 8 4⟩
       let good : Prop := field 0 8 % 64 = 0 ∧ (∃ k, 6 ≤ k ∧ k ≤ 24 ∧ field 8 4 = 2 ^ k) ∧ field 12 4 = 0 ∧ field 24 40 = 0
       (good → sets (.trcOn f) (on ring) (some fun k => { k with traceRing := some (k.traceRing.getD ring) })) ∧
       (¬ good → ∃ t, exec (.trcOn f) s = .next t ∧ answered s t 8)) ∧
     (Ready s w (.trcMark f) →
       let payload := natBytes 4 f.imm.toNat ++ natBytes 4 (w.sreg f.sb).toNat
       let marked : Option TraceState := w.trace.map fun tr =>
         if tr.started then
           { tr with wrec := min 65535 (tr.wrec + 1), waiting := tr.waiting ++ [(tr.ring, w.traceBytes s.time 6 (min 65535 (tr.wrec + 1)) payload)] }
         else tr
       ∃ t, exec (.trcMark f) s = .next t ∧ Becomes s t w
         ∧ ∀ w', t.curWarp = some w' → w'.trace = if w.lastOfRun then marked.map TraceState.atBoundary else marked)) ∧
  (∀ (s : State) (w : Warp) (f : EForm), s.curWarp = some w →
     let cluster := w.core / 2
     let p := (s.cluster cluster).sampler
     let answered (u t : State) (status : Word) : Prop := ∃ x, u.curWarp = some x ∧ PairResult u x t f.sc ((0 : Word) ++ status)
     let becomes (i : Instr) (q : Sampler) : Prop := ∃ t, exec i s = .next t
       ∧ answered (s.updCluster cluster fun k => { k with sampler := q }) t 0
     let b := Memory.readBytes (s.operandMem w) (w.sreg f.sa).toNat 64
     let x (off n : Nat) : Nat := bytesNat ((b.drop off).take n)
     let power (lo hi v : Nat) : Prop := ∃ k, lo ≤ k ∧ k ≤ hi ∧ v = 2 ^ k
     let codes := (List.range (x 4 1)).map fun i => x (0x28 + i) 1
     let good : Prop := 1024 ≤ x 0 4 ∧ x 0 4 ≤ 2 ^ 20 ∧ x 4 1 ≤ 16 ∧ x 5 1 < 2 ∧ x 6 2 = 0 ∧ x 8 8 % 64 = 0 ∧ power 4 20 (x 0x10 4)
       ∧ (x 5 1 = 1 → power 8 20 (x 0x14 4) ∧ x 0x18 8 % 64 = 0 ∧ power 4 20 (x 0x20 4)) ∧ x 0x24 4 < 2 ^ 20
       ∧ (∀ c ∈ codes, c < 20) ∧ x 0x38 8 = 0
     let configured : Sampler :=
       { Sampler.initial with owner := some w.ctx, interval := x 0 4, nctr := x 4 1, tagged := decide (x 5 1 = 1), ring := x 8 8,
                              rsize := x 0x10 4, period := x 0x14 4, tring := x 0x18 8, tsize := x 0x20 4, seed := x 0x24 4, ctr := codes }
     let seed (g : Nat) : Nat := if Nat.xor p.seed g = 0 then 1 else Nat.xor p.seed g
     let stepped (l : Nat) : Nat := 2 * l % 2 ^ 20 + (l / 2 ^ 19 + l / 2 ^ 16) % 2
     let ls := (List.range 8).map fun g => stepped (seed g)
     let started : Sampler :=
       { p with running := true, counts := [], start := s.time, startCycle := (s.cluster cluster).power.cycle, highTicks := 0,
                railSince := s.time, row := 0, tagRow := 0, pending := [], lfsr := ls,
                countdown := ls.map fun l => max 1 p.period / 2 + l % max 1 p.period }
     (Ready s w (.sampCfg f) → (w.sreg f.sa).toNat + 64 ≤ s.allotment w → good →
       ((∃ o, p.owner = some o ∧ o ≠ w.ctx) → ∃ t, exec (.sampCfg f) s = .next t ∧ answered s t 1) ∧
       (p.owner = none ∨ p.owner = some w.ctx → p.running = true → ∃ t, exec (.sampCfg f) s = .next t ∧ answered s t 3) ∧
       (p.owner = none ∨ p.owner = some w.ctx → p.running = false → becomes (.sampCfg f) configured)) ∧
     (Ready s w (.sampCfg f) → HandlerFree w →
       (s.allotment w < (w.sreg f.sa).toNat + 64 → ∃ t, exec (.sampCfg f) s = .next t
         ∧ Entered s w t 0x08 (Warp.runHere w) (BitVec.ofNat 32 w.idx) 0x000FFF00 (memoryInfo 0 1 5)) ∧
       ((w.sreg f.sa).toNat + 64 ≤ s.allotment w → ¬ good → ∃ t, exec (.sampCfg f) s = .next t
         ∧ Entered s w t 0x0A (Warp.runHere w) (BitVec.ofNat 32 w.idx) 0 0)) ∧
     (Ready s w (.sampStart f) →
       (p.owner ≠ some w.ctx → ∃ t, exec (.sampStart f) s = .next t ∧ answered s t 2) ∧
       (p.owner = some w.ctx → becomes (.sampStart f) started)) ∧
     (Ready s w (.sampStop f) →
       (p.owner = none → ∃ t, exec (.sampStop f) s = .next t ∧ answered s t 2) ∧
       (p.owner = some w.ctx → becomes (.sampStop f) Sampler.initial) ∧
       ((∃ o, p.owner = some o ∧ o ≠ w.ctx) → ∃ t, exec (.sampStop f) s = .next t ∧ answered s t 1)) ∧
     (∀ ctx pa n bytes, p.owner = some ctx → 1 ≤ p.rsize → 1 ≤ p.tsize →
       let writes (i : Instr) (at_ : Nat) (q : State → Sampler → Prop) : Prop := at_ % 65536 + n ≤ 65536 → bytes.length = n →
         s.partReach (.sampler cluster) (2 * cluster) ctx at_ true = .go pa → ∃ t, exec i s = .next t ∧ q t (t.cluster cluster).sampler
           ∧ (∀ a, Memory.read t.mem a = if pa ≤ a ∧ a < pa + n then bytes.getD (a - pa) 0 else Memory.read s.mem a)
           ∧ ∀ id y, s.warp? id = some y → ∃ z, t.warp? id = some z ∧ z = { y with watches := z.watches }
       (∀ timed, p.running = true → p.start + p.row * p.interval ≤ s.time →
         (let counter (i : Nat) : Nat := match p.ctr[i]? with
            | none => 0
            | some c =>
              if c ∈ [1, 2, 5, 6, 7, 8, 9, 10, 14, 15, 17, 18, 19] then p.counts.getD c 0
              else if c = 0 then (s.cluster cluster).power.cycle - p.startCycle
              else if c = 16 then p.highTicks + if (s.cluster cluster).power.high then s.time - p.railSince else 0
              else timed.getD i 0
          n = 160 → bytes = natBytes 8 (p.row + 1) ++ natBytes 8 s.time ++ natBytes 4 cluster ++ natBytes 4 p.nctr
            ++ ((List.range 16).flatMap fun i => natBytes 8 (counter i)) ++ natBytes 8 0 →
          writes (.sampleRow cluster timed) (p.ring + 160 * (p.row % p.rsize)) fun _ q => q = { p with row := p.row + 1 })) ∧
       (∀ level cycles r rest, p.pending = r :: rest → r.head.length = 34 → s.writtenBack r = true → n = 64 → bytes = natBytes 8 (p.tagRow + 1) ++ r.head
           ++ natBytes 1 (r.level.getD (if level % 2 = 1 then 3 else if r.lpddr then 5 else 4)) ++ natBytes 1 r.flags
           ++ ((List.range 6).flatMap fun i => natBytes 2 (min 65535 (cycles.getD i 0))) ++ natBytes 8 0 →
         writes (.taggedRecord cluster level cycles) (p.tring + 64 * (p.tagRow % p.tsize)) fun _ q =>
           q = { p with pending := rest, tagRow := p.tagRow + 1, counts := q.counts })))

/-- R301, R302, R312, R388: `sys.tlbinv` takes the translations of its context in a range of pages, or all of them, out of every TLB of the
part, and nothing else of its warp changes but that watches on those pages fire; a range that is not one of whole pages is *misaligned* or a
*shape mismatch*. `sys.feat` reads a half of FEAT_OFFER or FEAT_ACCEPT. A mailbox report claims its slot, and is written once the ring has
room. -/
def Obligations.SystemInstructions : Prop :=
  (∀ (s : State) (w : Warp) (f : EForm), s.curWarp = some w → Ready s w (.sysTlbinv f) →
    let va := (w.spair f.sa).toNat
    let n := (w.sreg f.sb).toNat
    let gone (lo len : Nat) : Prop := ∃ t w', exec (.sysTlbinv f) s = .next t ∧ t.curWarp = some w'
      ∧ OnlyMoves { w with watches := w'.watches } w' ∧ SameMemory s t ∧ t.caravans = s.caravans ∧ t.contexts = s.contexts
      ∧ (let stays (e : TlbEntry) : Bool := e.ctx != w.ctx || decide (lo + len ≤ e.va) || decide (e.va + e.size ≤ lo)
         (∀ k, (t.core k).tlb = (s.core k).tlb.filter stays ∧ (t.cluster k).tlb = (s.cluster k).tlb.filter stays
           ∧ (t.die k).tlb = (s.die k).tlb.filter stays))
      ∧ ∀ id x, id ≠ s.cur → s.warp? id = some x → ∃ y, t.warp? id = some y ∧ y = { x with watches := y.watches }
    (f.imm.getLsbD 0 = true → gone 0 (2 ^ 64)) ∧
    (f.imm.getLsbD 0 = false → va % 65536 = 0 → 1 ≤ n → n ≤ 2 ^ 24 → gone va (n * 65536)) ∧
    (f.imm.getLsbD 0 = false → HandlerFree w → va % 65536 ≠ 0 ∨ n = 0 ∨ 2 ^ 24 < n → ∃ t, exec (.sysTlbinv f) s = .next t
      ∧ Entered s w t (if va % 65536 ≠ 0 then 0x09 else 0x0A) (Warp.runHere w) (BitVec.ofNat 32 w.idx) 0 0)) ∧
  (∀ (s : State) (w : Warp) (f : EForm), s.curWarp = some w → Ready s w (.sysFeat f) →
    ∀ p ∈ [((0 : Word), s.featOffer.extractLsb' 0 64), (1, s.featOffer.extractLsb' 64 64), (2, s.featAccept.extractLsb' 0 64),
        (3, s.featAccept.extractLsb' 64 64)],
      f.imm = p.1 → ∃ t, exec (.sysFeat f) s = .next t ∧ PairResult s w t f.sa p.2) ∧
  ∀ (s : State) (n pa : Nat) (c : Context) (r : Report) (rest : List Report), Tbl.find s.contexts n = some c → c.reports = r :: rest →
    s.partReach (.post n) 0 n c.mbase true = .go pa →
    let left (t : State) (l : List Report) : Prop := Tbl.find t.contexts n = some { c with reports := l } ∧ t.caravans = s.caravans
    let written (t : State) (at_ : Nat) (bytes : List Byte) : Prop := ∀ a, Memory.read t.mem a =
      if at_ ≤ a ∧ a < at_ + bytes.length then bytes.getD (a - at_) 0 else Memory.read s.mem a
    (r.slot = none →
      let i := Memory.readNat s.mem pa 8
      ∃ t, exec (.mailboxPost n) s = .next t ∧ left t ({ r with slot := some i } :: rest) ∧ written t pa (natBytes 8 (i + 1))) ∧
    ∀ i, r.slot = some i →
      (c.msize ≤ i - Memory.readNat s.mem (pa + 8) 8 → exec (.mailboxPost n) s = .next s) ∧
      (i - Memory.readNat s.mem (pa + 8) 8 < c.msize → ∀ q, s.partReach (.post n) 0 n (c.mbase + 64 + 64 * (i % c.msize)) true = .go q →
        ∃ t, exec (.mailboxPost n) s = .next t ∧ left t rest ∧ written t q (natBytes 8 (i + 1) ++ r.bytes))

/-! ### Children and tasks -/

/-- R180, R181, R348, R349: `spawn` puts a caravan of the launch record at SA into the pending pool of its own launch: its blocks are
read, the launch's counter counts it, and the parent has one more open child, whose record will come where IMM asks for one. A record
that would be refused is a *shape mismatch*. R351 to R353: `qpush` pushes a task for each of its threads in ascending order, on the die
while there is room behind an empty ring, and else in the ring in memory, in an entry that holds no task; a thread whose task finds no
room, or no queue of its context, has failed, which VD shows and FLAGS bit 10 keeps. `qpop` takes tasks from the head for its threads
while the head task is of its own launch, the values of those in the ring as memory holds them, and is an acquire. Each task counts in
its launch. Details that the spec leaves to inference are read as assumption logs 29, 30, 39 and 49 say. -/
def Obligations.SpawnAndTaskQueues : Prop :=
  (∀ (s : State) (w : Warp) (parent : Caravan) (f : EForm), s.curWarp = some w → s.caravan? w.caravan = some parent →
     s.caravans.length < 2 ^ 32 → Ready s w (.spawn f) →
     let k := s.caravanNumber
     let a := (w.sreg f.sa).toNat
     let b := Memory.readBytes parent.scratch a 128
     let r := recordOf b
     let o? := s.objects.find? fun o => o.ctx == w.ctx && o.objId == r.objId
     a % 128 = 0 → a + 128 ≤ s.allotment w →
     (∀ o args init, o? = some o → (∀ x ∈ recordChecks b o?, x.2 = false) →
       (s.caravans.filter fun p => p.2.stage == .pool).length < 16384 → s.released w s.cur 2 = true →
       s.partGet (.child s.cur) w.ctx r.argAddr (4 * r.argN) = .got args →
       s.partGet (.child s.cur) w.ctx r.initAddr (2688 * ((List.range 16).filter fun k => r.initMask.getLsbD k).length) = .got init →
       let tag : Option Word := if f.imm.getLsbD 31 then some (f.imm &&& 0x7FFFFFFF) else none
       ∃ t w' c, exec (.spawn f) s = .next t ∧ t.curWarp = some w'
         ∧ OnlyMoves { w with children := w.children + 1, recChildren := if tag.isSome then w.recChildren + 1 else w.recChildren } w'
         ∧ k < 2 ^ 32 ∧ s.caravan? k = none
         ∧ t = { s with nextCaravan := (k + 1) % 2 ^ 32, warps := t.warps, caravans := t.caravans, launches := t.launches }
         ∧ (∀ id, id ≠ s.cur → t.warp? id = s.warp? id) ∧ t.caravan? k = some c
         ∧ t.caravan? w.caravan = some { parent with openChildren := parent.openChildren + 1 }
         ∧ (∀ id, id ≠ k → id ≠ w.caravan → t.caravan? id = s.caravan? id)
         ∧ (∀ l, Tbl.find s.launches parent.launch = some l → Tbl.find t.launches parent.launch = some { l with counter := l.counter + 1 })
         ∧ c.ctx = w.ctx ∧ c.launch = parent.launch ∧ c.queue = parent.queue ∧ c.dies = parent.dies ∧ c.record = r
         ∧ c.parent = some (s.cur, tag) ∧ c.parentCaravan = some w.caravan ∧ c.home = some (w.core / 144) ∧ c.stage = .pool ∧ c.core = none
         ∧ c.codeBase = o.base ∧ c.codeSize = o.size ∧ c.nextPass = 0 ∧ c.ended = [] ∧ c.done = false
         ∧ (∀ i < r.argN, c.args.getD i 0 = BitVec.ofNat 32 (bytesNat ((args.drop (4 * i)).take 4))) ∧ c.args.length = r.argN
         ∧ ∀ k < 16, r.initMask.getLsbD k = true → ∀ d < 7, ∀ th < 96,
             lane ((c.initial.getD k []).getD d []) th = BitVec.ofNat 32 (bytesNat ((init.drop
               (2688 * ((List.range k).filter fun j => r.initMask.getLsbD j).length + 384 * d + 4 * th)).take 4))) ∧
     (HandlerFree w → (∃ x ∈ recordChecks b o?, x.2 = true) → ∃ t, exec (.spawn f) s = .next t
       ∧ Entered s w t 0x0A (Warp.runHere w) (BitVec.ofNat 32 w.idx) 0 0)) ∧
  (∀ (s : State) (w : Warp) (c : Caravan) (f : VForm), s.curWarp = some w → s.caravan? w.caravan = some c →
     isNever f.pred f.pneg = false →
     let q := (w.sreg f.sb).toNat
     let p := f.vd.toNat % 8
     let take := s.takes w f.pred f.pneg
     let ts := (List.range 96).filter fun th => take.getLsbD th
     let same (t : State) : Prop :=
       t = { s with warps := t.warps, taskQueues := t.taskQueues, launches := t.launches, mem := t.mem, tagv := t.tagv, lineE := t.lineE, evx := t.evx }
       ∧ (∀ k, k ≠ q → Tbl.find t.taskQueues k = Tbl.find s.taskQueues k)
       ∧ ∀ k, k ≠ c.launch → Tbl.find t.launches k = Tbl.find s.launches k
     let counted (t : State) (n : Int) : Prop := ∀ l, Tbl.find s.launches c.launch = some l →
       Tbl.find t.launches c.launch = some { l with counter := l.counter + n }
     let shows (w' : Warp) (ok : Nat → Prop) : Prop := ∀ n th, n < 7 → th < 96 → ((w'.predicate n).getLsbD th = true ↔
       if n = p ∧ take.getLsbD th = true then ok th else (w.predicate n).getLsbD th = true)
     let pushed (w' : Warp) (full : Bool) : Prop := SameScalars w w' ∧ w'.vregs = w.vregs ∧ SameTemps w w' ∧ w'.tinfo = w.tinfo
       ∧ w'.flags = (if full then w.flags ||| 0x400 else w.flags)
       ∧ Keeps { w with watches := w'.watches } w'
     (take = 0 → ∀ i ∈ [Instr.qpush f, .qpop f], Ready s w i → ∃ t w', exec i s = .next t ∧ OnlyCurrent s t ∧ t.curWarp = some w'
       ∧ pushed w' false ∧ shows w' (fun _ => False)) ∧
     (Ready s w (.qpush f) → s.released w s.cur 2 = true →
       let task (th : Nat) : Task := ⟨s.source w (f.va + 1) 0 th ++ s.source w f.va 0 th, c.launch, s.time⟩
       (∀ k, Tbl.find s.taskQueues q = some k → q < 4096 → k.ctx = w.ctx → k.ringTasks = [] → k.onDie.length + ts.length ≤ 256 →
         ∃ t w', exec (.qpush f) s = .next t ∧ same t ∧ SameMemory s t ∧ counted t ts.length ∧ t.curWarp = some w' ∧ pushed w' false
           ∧ shows w' (fun _ => True) ∧ (ts ≠ [] → Tbl.find t.taskQueues q = some { k with onDie := k.onDie ++ ts.map task })) ∧
       (∀ k th pa, Tbl.find s.taskQueues q = some k → q < 4096 → k.ctx = w.ctx → 256 ≤ k.onDie.length ∨ k.ringTasks ≠ [] → ts = [th] →
         let i := k.nextEntry
         let at_ := k.ring + 8 * (i % k.rsize)
         k.ringTasks.length < k.rsize → at_ % 65536 ≤ 65528 → s.partReach (.ring q) w.core w.ctx at_ true = .go pa →
         ∃ t w', exec (.qpush f) s = .next t ∧ same t ∧ counted t 1 ∧ t.curWarp = some w' ∧ pushed w' false ∧ shows w' (fun _ => True)
           ∧ Tbl.find t.taskQueues q = some { k with ringTasks := k.ringTasks ++ [(i % k.rsize, c.launch, s.time)], ringNext := i + 1 }
           ∧ (∀ x ∈ k.ringTasks, x.1 ≠ i % k.rsize)
           ∧ ∀ a, Memory.read t.mem a = if pa ≤ a ∧ a < pa + 8 then (natBytes 8 (task th).value.toNat).getD (a - pa) 0
               else Memory.read s.mem a) ∧
       ((∀ k, Tbl.find s.taskQueues q = some k → 4096 ≤ q ∨ k.ctx ≠ w.ctx ∨ ((256 ≤ k.onDie.length ∨ k.ringTasks ≠ [])
           ∧ k.rsize ≤ k.ringTasks.length)) →
         ∃ t w', exec (.qpush f) s = .next t ∧ OnlyCurrent s t ∧ t.curWarp = some w' ∧ pushed w' (decide (ts ≠ []))
           ∧ shows w' (fun _ => False))) ∧
     (Ready s w (.qpop f) →
       let ends (t : State) (got : List Task) : Prop := ∃ w', exec (.qpop f) s = .next t ∧ same t ∧ SameMemory s t ∧ t.curWarp = some w'
         ∧ SameScalars w w' ∧ w'.flags = w.flags ∧ w'.tinfo = w.tinfo ∧ Keeps { w with horizon := if take = 0 then w.horizon else BitVec.ofNat 64 s.time } w'
         ∧ shows w' (fun th => ts.idxOf th < got.length)
         ∧ GroupWritten s w t w' [f.va, f.va + 1] (maskOf fun th => take.getLsbD th && decide (ts.idxOf th < got.length))
             fun j th => match got[ts.idxOf th]? with
               | some x => if j = 0 then x.value.extractLsb' 0 32 else x.value.extractLsb' 32 32
               | none => 0
       ((∀ k, Tbl.find s.taskQueues q = some k → 4096 ≤ q ∨ k.ctx ≠ w.ctx) → ∃ t, ends t [] ∧ t.taskQueues = s.taskQueues) ∧
       (∀ k (value : Nat → List Byte), Tbl.find s.taskQueues q = some k → q < 4096 → k.ctx = w.ctx → k.saved = [] →
         (∀ x ∈ k.ringTasks, s.partGet (.ring q) k.ctx (k.ring + 8 * x.1) 8 = .got (value x.1)) →
         let read (x : Nat × Nat × Nat) : Task := ⟨BitVec.ofNat 64 (bytesNat (value x.1)), x.2.1, x.2.2⟩
         let all := k.onDie ++ k.ringTasks.map read
         let got := (all.takeWhile fun x => decide (x.launch = c.launch)).take ts.length
         ∃ t k', ends t got ∧ counted t (-(got.length : Int)) ∧ Tbl.find t.taskQueues q = some k'
           ∧ k'.onDie ++ k'.ringTasks.map read = all.drop got.length
           ∧ k' = { k with onDie := k'.onDie, ringTasks := k'.ringTasks, flush := k.flush - got.length })))

/-- R343, R351, R354: TQBIND binds a task queue with its template, and refuses one that a task's caravan may not have; TQFLUSH and
TQUNBIND act on a queue that is bound, TQUNBIND on one that holds nothing; TQFLUSH has what the queue holds dispatched at once, and
completes when it has gone. The dispatcher makes a caravan of one pass of up to 96 tasks of one launch at a queue's head once 96 are
there, another launch's wait behind them, the oldest has waited 2 microseconds, or a flush asks. Details that the spec leaves to
inference are read as assumption logs 30 and 49 say. -/
def Obligations.Dispatcher : Prop :=
  (∀ (s : State) (q : Nat) (p : Packet), LanePacket s q p .tqbind →
    let field (off n : Nat) : Nat := bytesNat ((p.bytes.drop off).take n)
    let k := field 0x10 2
    let ctx := field 0x12 2
    let good : Prop := k < 4096 ∧ ctx < 64 ∧ (∃ e, 8 ≤ e ∧ e ≤ 24 ∧ field 0x14 4 = 2 ^ e) ∧ field 0x18 8 % 64 = 0
      ∧ ∀ x ∈ p.bytes.drop 0x28, x = 0
    (¬ good → PacketEnds s s q p (.tqbind q) 4 0) ∧
    (good → s.loaded ctx = false ∨ (∃ t, Tbl.find s.taskQueues k = some t ∧ (t.onDie ≠ [] ∨ t.ringTasks ≠ [] ∨ t.saved ≠ [])) →
      PacketEnds s s q p (.tqbind q) 5 0) ∧
    (∀ b, good → s.loaded ctx = true → (∀ t, Tbl.find s.taskQueues k = some t → t.onDie = [] ∧ t.ringTasks = [] ∧ t.saved = []) →
      s.partGet (.packet q p.index) ctx (field 0x20 8) 128 = .got b →
      let r := recordOf b
      let failing := ((recordChecks b (s.objects.find? fun o => o.ctx == ctx && o.objId == r.objId)
        ++ ([(0x00, r.trip != 1), (0x04, r.stages != 1), (0x05, r.depth != 1), (0x06, r.tracks != 0), (0x2C, r.parties != 0)] : List (Nat × Bool))).filter
          fun x => x.2).map fun x => x.1
      (failing = [] → PacketEnds s { s with taskQueues := Tbl.put s.taskQueues k ⟨ctx, field 0x18 8, field 0x14 4, r, [], [], 0, 0, []⟩ } q p
        (.tqbind q) 0 0) ∧
      (∀ off ∈ failing, (∀ x ∈ failing, off ≤ x) → PacketEnds s s q p (.tqbind q) 1 off))) ∧
  (∀ (s : State) (q : Nat) (p : Packet) (i : Instr), (i = .tqflush q ∧ LanePacket s q p .tqflush) ∨ (i = .tqunbind q ∧ LanePacket s q p .tqunbind) →
    let k := bytesNat ((p.bytes.drop 0x10).take 4)
    (4096 ≤ k → PacketEnds s s q p i 4 0) ∧
    (k < 4096 → Tbl.find s.taskQueues k = none → PacketEnds s s q p i 5 0) ∧
    ∀ t, k < 4096 → Tbl.find s.taskQueues k = some t →
      let held := t.onDie.length + t.ringTasks.length + t.saved.length
      let empty : Bool := held == 0
      let u : State := { s with taskQueues := Tbl.put s.taskQueues k { t with flush := held } }
      (i = .tqflush q → empty = true → PacketEnds s u q p i 0 0) ∧
      (i = .tqflush q → empty = false → PacketWorks s u q p i fun v =>
        let x := v.dispatch k
        if (Tbl.find x.taskQueues k).all fun y => y.flush == 0 then x.endPacket q p 0 0 0 else x) ∧
      (i = .tqunbind q → empty = true → PacketEnds s { s with taskQueues := Tbl.erase s.taskQueues k } q p i 0 0) ∧
      (i = .tqunbind q → empty = false → PacketEnds s s q p i 5 0)) ∧
  ∀ (s : State) (n : Nat) (q : TaskQueue) (head : Task) (rest : List Task) (o : CodeObject) (args init : List Byte)
    (value : Nat → List Byte), 256 ≤ q.onDie.length ∨ q.ringTasks = [] →
    (∀ x ∈ q.ringTasks, s.partGet (.ring n) q.ctx (q.ring + 8 * x.1) 8 = .got (value x.1)) → Tbl.find s.taskQueues n = some q → q.onDie = head :: rest → s.loaded q.ctx = true →
    (s.objects.find? fun o => o.ctx == q.ctx && o.objId == q.template.objId) = some o →
    (Tbl.findD s.partitions (s.partitionOf q.ctx) Partition.initial).halt = none →
    (s.caravans.filter fun p => p.2.stage == .pool).length < 16384 →
    s.partGet (.ring n) q.ctx q.template.argAddr (4 * q.template.argN) = .got args →
    s.partGet (.ring n) q.ctx q.template.initAddr (2688 * ((List.range 16).filter fun k => q.template.initMask.getLsbD k).length) = .got init →
    let run := (q.onDie.takeWhile fun x => decide (x.launch = head.launch)).take 96
    let due : Prop := run.length = 96 ∨ run.length < q.onDie.length ∨ head.time + 2000 ≤ s.time ∨ 0 < q.flush
    let read (x : Nat × Nat × Nat) : Task := ⟨BitVec.ofNat 64 (bytesNat (value x.1)), x.2.1, x.2.2⟩
    let k := s.caravanNumber
    (¬ due → exec (.dispatch n) s = .next s) ∧
    (due → ∃ t c q', exec (.dispatch n) s = .next t ∧ t.caravan? k = some c ∧ SameMemory s t
      ∧ t = { s with nextCaravan := (k + 1) % 2 ^ 32, caravans := t.caravans, launches := t.launches, taskQueues := t.taskQueues }
      ∧ (∀ id, id ≠ k → t.caravan? id = s.caravan? id)
      ∧ c.ctx = q.ctx ∧ c.launch = head.launch ∧ c.record = q.template ∧ c.stage = .pool ∧ c.parent = none ∧ c.codeBase = o.base
      ∧ c.taskWords = run.map (fun x => (x.value.extractLsb' 0 32, x.value.extractLsb' 32 32))
      ∧ Tbl.find t.taskQueues n = some q' ∧ q'.onDie ++ q'.ringTasks.map read = (q.onDie ++ q.ringTasks.map read).drop run.length
      ∧ q' = { q with onDie := q'.onDie, ringTasks := q'.ringTasks, flush := q.flush - run.length }
      ∧ ∀ l, Tbl.find s.launches head.launch = some l →
          Tbl.find t.launches head.launch = some { l with counter := l.counter + 1 - run.length })

/-! ### Walks, power and security -/

/-- R289 to R293, R295, R297: a miss that no TLB can serve is walked through three levels, and the core, its cluster and its die take the leaf
with its whole page; a walk that ends at an entry that is absent or malformed, or at a leaf that the access may not use, opens an entry of
the die's fault queue for its page with its reason, on which the requester waits. -/
def Obligations.TableWalks : Prop :=
  ∀ (s : State) (core ctx : Nat) (va : BitVec 64) (r : WalkRequest) (c : Context),
    let die := core / 144
    let d := s.die die
    (d.requests.filter fun q => q.ctx == ctx && q.va / 65536 == va.toNat / 65536) = [r] → r.core / 144 = die → Tbl.find s.contexts ctx = some c →
    (∀ l ∈ [(s.core r.core).tlb, (s.cluster (r.core / 2)).tlb, d.tlb], ∀ e ∈ l,
      ¬ (e.ctx = ctx ∧ e.va ≤ r.va ∧ r.va < e.va + e.size)) →
    let word (a : Nat) : DWord := Memory.readDWord s.mem a
    let table (e : DWord) : Bool := e.extractLsb' 1 15 == 0 && e.extractLsb' 52 12 == 0
    let base (e : DWord) : Nat := (e.extractLsb' 16 36).toNat * 65536
    let e2 := word (c.root + 8 * (r.va / 2 ^ 42 % 8192))
    let e1 := word (base e2 + 8 * (r.va / 2 ^ 29 % 8192))
    let at_ := base e1 + 8 * (r.va / 2 ^ 16 % 8192)
    let leaf := word at_
    let size := (leaf.extractLsb' 7 2).toNat
    let page := if size = 0 then 2 ^ 16 else if size = 1 then 2 ^ 21 else 2 ^ 27
    let formed : Bool := leaf.extractLsb' 10 6 == 0 && leaf.extractLsb' 52 12 == 0 && size != 3 && base leaf % page == 0
      && (leaf.extractLsb' 4 2 != 2 || size == 0)
    let reason : Option Nat :=
      if e2.getLsbD 0 = false then some 0 else if table e2 = false then some 1
      else if e1.getLsbD 0 = false then some 0 else if table e1 = false then some 1
      else if leaf.getLsbD 0 = false then some 0 else if formed = false then some 1
      else if leaf.getLsbD 6 = true ∧ (s.featOffer.getLsbD 0 && s.featAccept.getLsbD 0) = false then some 2
      else if r.kind = .fetch ∧ leaf.getLsbD 2 = false then some 3 else none
    (reason = none → ∃ t, exec (.tableWalk core ctx va) s = .next t ∧ t = { s with cores := t.cores, clusters := t.clusters, dies := t.dies }
      ∧ (let e : TlbEntry := ⟨ctx, r.va / page * page, page, leaf, at_⟩
         e ∈ (t.core r.core).tlb ∧ e ∈ (t.cluster (r.core / 2)).tlb ∧ e ∈ (t.die die).tlb)
      ∧ (t.die die).requests = d.requests.filter (fun q => q != r) ∧ (t.die die).faults = d.faults) ∧
    (∀ n, reason = some n → (∀ f ∈ d.faults, ¬ (f.ctx = ctx ∧ f.reason = n ∧ f.va ≤ r.va ∧ r.va < f.va + f.size)) → d.faults.length < 4096 →
      let span := if n = 2 ∨ n = 3 then page else 2 ^ 16
      ∃ t, exec (.tableWalk core ctx va) s = .next t
        ∧ (t.die die).faults = d.faults ++ [⟨d.seq, ctx, r.va / span * span, span, n, [r]⟩] ∧ (t.die die).seq = (d.seq + 1) % 2 ^ 32
        ∧ r ∉ (t.die die).requests ∧ t.contexts = s.contexts ∧ t.caravans = s.caravans
        ∧ ∀ id w, r.who = .warp id → s.warp? id = some w → w.phase = .issuing ∨ w.phase = .fetch → ∃ w', t.warp? id = some w'
          ∧ w' = { w with phase := .waiting (.translation d.seq), watches := w'.watches })

/-- R299, R357, R358: a context's tokens on a die gain its share once in each microsecond. Under a halt line an engine stops one unfinished
operation of its queue, which keeps its place, and a stop record of 32 bytes names it, one from each array of a pair; its warp's PROGRESS will read how far it has come.
R254, R256, R259, R260, R372: the refill rate moves toward TARGET by at most 16 in a microsecond; a rail switches where the requests of
contexts with headroom ask for the other one and a microsecond has passed; a write to the power block sets its field, within its range, and
a write to CAP clamps every level; and once in 100 microseconds the headroom of each context follows its power. Details that the spec leaves
to inference are read as assumption log 32 says. -/
def Obligations.TokensAndPower : Prop :=
  ((∀ (s : State) (die ctx : Nat) (c : Context), Tbl.find s.contexts ctx = some c →
     let d := s.die die
     let last := Tbl.findD d.lastToken ctx 0
     (4 ≤ die ∨ s.time < last + 1000 → exec (.tokenRefill die ctx) s = .next s) ∧
     (die < 4 → last + 1000 ≤ s.time → ∃ t, exec (.tokenRefill die ctx) s = .next t ∧ t = { s with dies := t.dies }
       ∧ (∀ k, k ≠ die → t.die k = s.die k) ∧ t.die die = { d with balance := (t.die die).balance, lastToken := (t.die die).lastToken }
       ∧ Tbl.findD (t.die die).balance ctx 0 = Tbl.findD d.balance ctx 0 + c.btok ∧ Tbl.findD (t.die die).lastToken ctx 0 = last + 1000
       ∧ ∀ k, k ≠ ctx → Tbl.findD (t.die die).balance k 0 = Tbl.findD d.balance k 0)) ∧
   ∀ (s : State) (u : EngineUnit) (o : EngineOp) (w : Warp), (∀ core, u = .matrix core → o.state = .queued ∧ core ∈ o.arrays) →
     (s.queueOf u).find? (fun x => x.state != .finished && !x.stopped && x.kind.stops x.state) = some o →
     (∀ x ∈ s.queueOf u, x.id = o.id → x = o) → s.warp? o.warp = some w →
     (Tbl.findD s.partitions (s.partitionOf o.ctx) Partition.initial).halt.isSome = true →
     let code : Nat := match u with
       | .copy _ => 2 | .table _ => 2 | .selection _ => 3 | .attention _ => 4 | .fabric _ => 5 | .loader _ => 6 | .matrix _ => 1
     let cores : List Nat := match u with
       | .copy k => [k] | .loader k => [k] | .table k => [k] | .matrix _ => o.arrays | _ => [o.core]
     let p := o.stopProgress
     let part (x : State) : Partition := Tbl.findD x.partitions (s.partitionOf o.ctx) Partition.initial
     ∃ t, exec (.engineStop u 0) s = .next t ∧ SameMemory s t
       ∧ t.queueOf u = (s.queueOf u).map (fun x => if x.id = o.id then { o with stopped := true } else x)
       ∧ (∀ core k, u = .matrix core → k ∈ o.arrays → ∀ x ∈ t.queueOf (.matrix k), x.id = o.id → x.stopped = true)
       ∧ (part t).stops = (part s).stops ++ cores.map (fun core => natBytes 1 code ++ natBytes 3 0 ++ natBytes 4 core ++ natBytes 4 o.caravan ++ natBytes 4 o.pass
           ++ natBytes 4 p ++ natBytes 4 0 ++ natBytes 8 s.time)
       ∧ t.warp? o.warp = some { w with stoppedOp := some (o.id, BitVec.ofNat 32 p) } ∧ ∀ id, id ≠ o.warp → t.warp? id = s.warp? id) ∧
  (∀ (s : State) (cluster : Nat),
     let p := (s.cluster cluster).power
     let becomes (i : Instr) (q : Power) : Prop := ∃ t, exec i s = .next t ∧ t = { s with clusters := t.clusters }
       ∧ ∀ k, t.cluster k = if k = cluster then { s.cluster cluster with power := q, sampler := (t.cluster cluster).sampler } else s.cluster k
     let sampler (i : Instr) (x : Sampler) : Prop := ∃ t, exec i s = .next t ∧ (t.cluster cluster).sampler = x
     (s.security.started = false ∨ 288 ≤ cluster → exec (.rateUpdate cluster) s = .next s
       ∧ (∀ rail, exec (.railSwitch cluster rail) s = .next s) ∧ (∀ v, exec (.capWrite cluster v) s = .next s)
       ∧ ∀ off v, exec (.powerBlockWrite cluster off v) s = .next s) ∧
     (s.security.started = true → cluster < 288 → (p.lastRate + 1000 ≤ s.time → becomes (.rateUpdate cluster) { p with
       lastRate := p.lastRate + 1000
       rate := if p.rate < p.target then min p.target (p.rate + 16) else max p.target (p.rate - 16) } ∧ sampler (.rateUpdate cluster) (s.cluster cluster).sampler) ∧
     (s.time < p.lastRate + 1000 → exec (.rateUpdate cluster) s = .next s) ∧
     (∀ rail, rail < 2 →
       let wants : Prop := ∃ c ∈ s.contextsOn cluster, 2 ≤ s.cappedRequest cluster c ∧ s.hasHeadroom c = true
       let due : Prop := p.high ≠ decide (rail = 1) ∧ (rail = 1 ↔ wants) ∧ ∀ at_, p.lastRail = some at_ → at_ + 1000 ≤ s.time
       (due → becomes (.railSwitch cluster rail) { p with high := decide (rail = 1), lastRail := some s.time } ∧ sampler (.railSwitch cluster rail)
         { (s.cluster cluster).sampler with
           railSince := s.time
           highTicks := (s.cluster cluster).sampler.highTicks + if p.high then s.time - (s.cluster cluster).sampler.railSince else 0 }) ∧
       (¬ due → exec (.railSwitch cluster rail) s = .next s)) ∧
     (∀ v : Word, let cap := v.toNat % 2 ^ 20
       (cap = 0 → exec (.capWrite cluster v) s = .next s) ∧
       (cap ≠ 0 → ∃ t, exec (.capWrite cluster v) s = .next t ∧ t = { s with clusters := t.clusters }
         ∧ (∀ k, k ≠ cluster → t.cluster k = s.cluster k)
         ∧ t.cluster cluster = { s.cluster cluster with power := { p with cap := cap, levels := (t.cluster cluster).power.levels } }
         ∧ ∀ ctx, Tbl.find (t.cluster cluster).power.levels ctx =
             (Tbl.find p.levels ctx).map fun l => min l (t.bucketCap cluster ctx))) ∧
     (∀ (off : Nat) (v : Word), ∃ q, becomes (.powerBlockWrite cluster off v) q
       ∧ sampler (.powerBlockWrite cluster off v) (s.cluster cluster).sampler ∧
       (off < 0x20 → off % 4 = 0 → q = { p with weights := q.weights } ∧ ∀ k, q.weights.getD k 0 =
         if k = off / 2 then v.toNat % 65536 else if k = off / 2 + 1 then v.toNat / 65536 else p.weights.getD k 0) ∧
       (off = 0x24 → q = { p with target := min 1024 (v.toNat % 2048) }) ∧
       (off = 0x2C → q = { p with mres := v.toNat % 2 ^ 20 }) ∧
       (¬ (off < 0x20 ∧ off % 4 = 0) → off ≠ 0x24 → off ≠ 0x2C → q = p))) ∧
     ∀ (total : Nat) (loads : List (Nat × Nat)), s.security.started = true →
       (s.time < s.lastHeadroom + 100000 → exec (.headroomUpdate total loads) s = .next s) ∧
       (s.lastHeadroom + 100000 ≤ s.time → ∃ t, exec (.headroomUpdate total loads) s = .next t
         ∧ t = { s with contexts := t.contexts, lastHeadroom := s.lastHeadroom + 100000 }
         ∧ ∀ n c, Tbl.find s.contexts n = some c → ∃ c', Tbl.find t.contexts n = some c'
           ∧ c' = { c with headroom := c'.headroom, tdpHeld := c'.tdpHeld }
           ∧ (let load := ((loads.find? fun l => l.1 == n).map fun l => l.2).getD 0
              let budgets := (s.contexts.map fun x => x.2.budget).sum
              let share : Prop := 2800 < total ∧ 2800 * c.budget < load * budgets
              (share → c'.headroom = false ∧ c'.tdpHeld = true) ∧
              (¬ share → c.budget < load → c'.headroom = false ∧ c'.tdpHeld = c.tdpHeld) ∧
              (¬ share → load * 100 < c.budget * 95 → c.tdpHeld = false ∨ total * 100 < 2800 * 95 →
                c'.headroom = true ∧ c'.tdpHeld = false) ∧
              (¬ share → load ≤ c.budget → c.budget * 95 ≤ load * 100 ∨ (c.tdpHeld = true ∧ 2800 * 95 ≤ total * 100) → c' = c))))

/-- R3, R9, R363 to R368, R370: power-on starts the part where all its memory trains and an image verifies, slot 0 before slot 1, with
a new page key, the alarm at 0, the attestation window clear and reported, and the features of the part offered. Otherwise it leaves
the part in recovery, the third time in a row that no image verifies at alarm level 3. A restart does so again and keeps only memory
and what the fuses hold. A supply fault of a microsecond or more and a clock glitch raise the alarm to 2, a tamper to 3, which erases
the keys: each is logged, and a rise to 2 or more raises the halt line of every secure partition. A quote is signed below level 3; and
the first write to FEAT_ACCEPT after start counts, masked by what is offered, and is measured. Details that the spec leaves to
inference are read as assumption logs 4, 9 and 52 say. -/
def Obligations.SecurityRules : Prop :=
  ∀ (s : State) (input : PowerOnInput),
    let x := s.security
    let signed (slot : FirmwareSlot) : Bool := Config.verifies (sha3 slot.image) slot.signature
    let image : Option (List Byte) := if signed input.slot0 then some input.slot0.image
      else if signed input.slot1 then some input.slot1.image else none
    let window := Config.attestationPage * 4096
    let key := Config.bootKey (x.boots + 1)
    let after (recovery started : Bool) (failures : Nat) (log : List (BitVec 256)) : Security :=
      ⟨true, recovery, started, 0, [], 0, key, true, x.boots + 1, failures, log, false, window⟩
    let u : State :=
      { State.reset with mem := Memory.writeBytes s.mem window (List.replicate 36 0), tagv := s.tagv, agenda := s.agenda, rr := s.rr,
                         cur := s.cur, nextId := s.nextId }
    let failed : Security := after true false (x.failedStarts + 1) []
    let starts (i : Instr) : Prop :=
      (∀ m, input.trained = 0xFF → image = some m →
        exec i s = .next { u with featOffer := input.offer &&& 0x7F, security := after false true 0 [sha3 m] })
      ∧ (input.trained ≠ 0xFF → exec i s = .next { u with security := after true false x.failedStarts [] })
      ∧ (input.trained = 0xFF → image = none → x.failedStarts < 2 → exec i s = .next { u with security := failed })
      ∧ (input.trained = 0xFF → image = none → 2 ≤ x.failedStarts → exec i s = .next { u with security :=
          { failed with alarm := 3, log := [⟨.failedStarts, 0, x.failedStarts + 1⟩], logCount := 1, pageKey := 0, keysPresent := false } })
    let raised (t : State) (source : AlarmSource) (level : Nat) : Prop :=
      t = { s with security := t.security, partitions := t.partitions }
      ∧ t.security = { x with alarm := max x.alarm level, log := (x.log ++ [AlarmEntry.mk source s.time 0]).drop (x.log.length + 1 - 256),
                              logCount := x.logCount + 1, keysPresent := x.keysPresent && decide (level < 3),
                              pageKey := if level < 3 then x.pageKey else 0 }
      ∧ ∀ k q, Tbl.find s.partitions k = some q →
        if x.alarm < 2 ∧ q.secure = true then ∃ q', Tbl.find t.partitions k = some q' ∧ q'.halt = some (q.halt.getD s.time)
          ∧ HaltHolder.alarm ∈ q'.holders ∧ q'.clusters = q.clusters
        else Tbl.find t.partitions k = some q
    (x.powered = false → starts (.powerOn input)) ∧
    (x.powered = true → exec (.powerOn input) s = .next s) ∧
    (x.powered = true → starts (.restart input)) ∧
    ((s.partitions.map fun k => k.1).Nodup → x.powered = true →
      (∀ n, 1000 ≤ n → ∃ t, exec (.supplyVoltageFault n) s = .next t ∧ raised t .voltage 2) ∧
      (∃ t, exec .clockGlitch s = .next t ∧ raised t .clock 2) ∧ ∃ t, exec .tamper s = .next t ∧ raised t .tamper 3) ∧
    (∀ n, n < 1000 → exec (.supplyVoltageFault n) s = .next s) ∧
    (∀ nonce : BitVec 256, x.started = true →
      let n := natBytes 32 nonce.toNat
      let quote := natBytes 4 0xA7E57A11 ++ natBytes 4 x.measurements.length
        ++ natBytes 32 (sha3 (x.measurements.flatMap fun m => natBytes 32 m.toNat)).toNat ++ n ++ natBytes 16 s.featOffer.toNat
        ++ natBytes 16 s.featAccept.toNat ++ natBytes 1 x.alarm ++ natBytes 3 0 ++ natBytes 4 x.logCount ++ natBytes 144 0
      ∃ t, exec (.quoteRequest nonce) s = .next t ∧ t.security = x ∧ ∀ k, Memory.read t.mem k =
        if window ≤ k ∧ k < window + 32 then n.getD (k - window) 0
        else if window + 0x20 ≤ k ∧ k < window + 0x24 then (natBytes 4 (if 3 ≤ x.alarm then 2 else 0)).getD (k - (window + 0x20)) 0
        else if x.alarm < 3 ∧ window + 0x100 ≤ k ∧ k < window + 0x200 then quote.getD (k - (window + 0x100)) 0
        else if x.alarm < 3 ∧ window + 0x200 ≤ k ∧ k < window + 0x200 + 2420 then
          (natBytes 2420 (Config.signature quote)).getD (k - (window + 0x200)) 0
        else Memory.read s.mem k) ∧
    ∀ mask : BitVec 128,
      (x.started = false ∨ x.acceptWritten = true → exec (.featAcceptWrite mask) s = .next s) ∧
      (let log := x.measurements ++ [sha3 (natBytes 16 (mask &&& s.featOffer).toNat)]
       let taken : State :=
         { s with featAccept := mask &&& s.featOffer, security := { x with acceptWritten := true, measurements := log } }
       x.started = true → x.acceptWritten = false → exec (.featAcceptWrite mask) s = .next taken)

/-! ### The front end -/

/-- R340 to R342, R344 to R346, R375: a doorbell has its queue's TAIL read and an empty lane take the next packet; one with reserved
bits, or for a queue that is not bound to the context, is dropped and counted. NOP does nothing; a bad packet completes with status 4.
COPY moves its bytes while later packets begin, and completes when they are at their homes; SIGNAL stores its value once the COPYs and
SIGNALs of its queue before it are acknowledged. LAUNCH puts the seed caravan of a new launch into the pending pool, and completes with
status 1 and the offset of the field that refuses its record; once the launch's counter is back at zero it completes with status 0, or
2 and the number of passes terminated. The arbiter gives the next queue with a ready caravan its quantum, and with a deficit above zero
hands its first to a die. Details that the spec leaves to inference are read as assumption logs 29 and 51 say. -/
def Obligations.FrontEnd : Prop :=
  (∀ (s : State) (ctx : Nat) (message : BitVec 64),
    let q := message.toNat % 64
    let h := s.hostQueue q
    let good : Prop := message.toNat < 64 ∧ h.bound = true ∧ h.ctx = ctx ∧ s.security.started = true
    let open_ : Prop := s.ctxSecure ctx = true → s.security.keysPresent = true
    (¬ good → exec (.doorbell ctx message) s = .next
      { s with fabric := { s.fabric with doorbellsDropped := s.fabric.doorbellsDropped + 1 } }) ∧
    (good → ¬ open_ → exec (.doorbell ctx message) s = .next s) ∧
    (∀ b, good → open_ → h.headDue = false → s.partGet (.head q) ctx (h.control + 24) 8 = .got b →
      let known : HostQueue := { h with tail := bytesNat b, readTail := false }
      (h.lane ≠ none ∨ bytesNat b ≤ h.head → exec (.doorbell ctx message) s = .next (s.setHostQueue q known)) ∧
      (∀ block bytes, h.lane = none → h.head < bytesNat b → s.partGet (.packet q h.head) ctx h.control 16 = .got block →
        s.partGet (.packet q h.head) ctx (bytesNat (block.take 8) + 64 * (h.head % max 1 (bytesNat ((block.drop 8).take 4)))) 64 = .got bytes →
        exec (.doorbell ctx message) s = .next
          (s.setHostQueue q { known with lane := some ⟨h.head, true, bytes⟩, stalled := false })))) ∧
  (∀ (s : State) (q : Nat) (p : Packet),
    let ctx := (s.hostQueue q).ctx
    let field (off n : Nat) : Nat := bytesNat ((p.bytes.drop off).take n)
    (LanePacket s q p .nop → PacketEnds s s q p (.nop q) (if p.bad then 4 else 0) 0) ∧
    (LanePacket s q p .copy →
      let src := field 0x10 8
      let dst := field 0x18 8
      let n := field 0x20 8
      (n % 4 ≠ 0 ∨ n < 4 ∨ 2 ^ 32 < n → PacketEnds s s q p (.copy q) 4 0) ∧
      (n % 4 = 0 → 4 ≤ n → n ≤ 2 ^ 32 → PacketWorks s s q p (.copy q) (runCopy q ⟨p, none, 0⟩) ∧
        ∀ (v : State) (a b : Nat), src % 65536 + n ≤ 65536 → dst % 65536 + n ≤ 65536 →
          v.partReach (.packet q p.index) 0 (v.hostQueue q).ctx src false = .go a →
          v.partReach (.packet q p.index) 0 (v.hostQueue q).ctx dst true = .go b →
          runCopy q ⟨p, none, 0⟩ v =
            (v.homeWrite b (Memory.readBytes v.mem a n)).endPacket q p 0 0 (max v.time (v.completionOf b n)))) ∧
    (LanePacket s q p .signal →
      let va := field 0x10 8
      (va % 8 ≠ 0 → PacketEnds s s q p (.signal q) 4 0) ∧
      (va % 8 = 0 → PacketWorks s s q p (.signal q) (runSignal q ⟨p, none, 0⟩) ∧
        ∀ (v : State),
          let writing (x : OpenPacket) : Prop := (x.packet.kind = .copy ∨ x.packet.kind = .signal) ∧ (x.result = none ∨ v.time < x.due)
          let earlier := (v.hostQueue q).inFlight.takeWhile fun x => decide (x.packet ≠ p)
          ((∃ x ∈ earlier, writing x) → runSignal q ⟨p, none, 0⟩ v = v) ∧
          ∀ a, (∀ x ∈ earlier, ¬ writing x) → v.partReach (.packet q p.index) 0 (v.hostQueue q).ctx va true = .go a →
            runSignal q ⟨p, none, 0⟩ v = (v.homeWrite a (natBytes 8 (field 0x18 8))).endPacket q p 0 0 (max v.time (v.completionOf a 8)))) ∧
    (∀ (v : State) (status detail due : Nat) (h : HostQueue), v.hostQueue q = h → h.inFlight = [⟨p, none, 0⟩] →
      let left (t : State) (l : List OpenPacket) : Prop := t.hostQueue q = { h with inFlight := l }
      (v.time < due → left (v.endPacket q p status detail due) [⟨p, some (status, detail), due⟩]
        ∧ v.endPacket q p status detail due = { v with queues := (v.endPacket q p status detail due).queues }) ∧
      (due ≤ v.time → p.notify = false → left (v.endPacket q p status detail due) []
        ∧ v.endPacket q p status detail due = { v with queues := (v.endPacket q p status detail due).queues }) ∧
      ∀ pa, due ≤ v.time → p.notify = true → p.doneVa % 8 = 0 → h.bound = true → v.loaded h.ctx = true →
        v.partReach (.word q p.index) 0 h.ctx p.doneVa true = .go pa → ∃ t, v.endPacket q p status detail due = t
          ∧ left t [] ∧ ∀ k, Memory.read t.mem k =
            if pa ≤ k ∧ k < pa + 8 then (natBytes 4 status ++ natBytes 4 detail).getD (k - pa) 0 else Memory.read v.mem k) ∧
    (LanePacket s q p .launch → ∀ b, (s.caravans.filter fun x => x.2.stage == .pool).length < 16384 →
      s.partGet (.packet q p.index) ctx (field 0x10 8) 128 = .got b →
      let r := recordOf b
      let k := s.caravanNumber
      let o? := s.objects.find? fun o => o.ctx == ctx && o.objId == r.objId
      let checks := recordChecks b o?
      (∀ x, checks.find? (fun x => x.2) = some x → PacketEnds s s q p (.launch q) 1 x.1) ∧
      (∀ o args init, (∀ x ∈ checks, x.2 = false) → o? = some o →
        s.partGet (.packet q p.index) ctx r.argAddr (4 * r.argN) = .got args →
        s.partGet (.packet q p.index) ctx r.initAddr (2688 * ((List.range 16).filter fun k => r.initMask.getLsbD k).length) = .got init →
        ∃ u c, u = { s with
            nextId := s.nextId + 1, nextCaravan := (k + 1) % 2 ^ 32, launches := u.launches, caravans := Tbl.put s.caravans k c }
          ∧ u.launches = Tbl.put s.launches s.nextId ⟨q, p.index, ctx, BitVec.ofNat 4 (field 0x18 1), 1, 0, false⟩
          ∧ c.ctx = ctx ∧ c.launch = s.nextId ∧ c.queue = some q ∧ c.dies = BitVec.ofNat 4 (field 0x18 1) ∧ c.record = r
          ∧ c.stage = .pool ∧ c.core = none ∧ c.parent = none ∧ c.codeBase = o.base ∧ c.codeSize = o.size ∧ c.nextPass = 0
          ∧ c.done = false ∧ (∀ i < r.argN, c.args.getD i 0 = BitVec.ofNat 32 (bytesNat ((args.drop (4 * i)).take 4)))
          ∧ PacketOpens s u q p (.launch q) none 0))) ∧
  (∀ (s : State) (launch : Nat) (l : LaunchState) (p : Packet) (due pa : Nat), Tbl.find s.launches launch = some l →
    let h := s.hostQueue l.queue
    (l.counter ≠ 0 ∨ l.aborted = true → exec (.launchComplete launch) s = .next s) ∧
    (l.counter = 0 → l.aborted = false → h.inFlight = [⟨p, none, due⟩] → p.ring = true → p.index = l.packet → p.notify = true →
      p.doneVa % 8 = 0 → h.bound = true → s.loaded h.ctx = true →
      s.partReach (.word l.queue p.index) 0 h.ctx p.doneVa true = .go pa →
      let word := natBytes 4 (if l.terminated = 0 then 0 else 2) ++ natBytes 4 (min l.terminated (2 ^ 32 - 1))
      ∃ t, exec (.launchComplete launch) s = .next t ∧ Tbl.find t.launches launch = none
        ∧ (∀ k, k ≠ launch → Tbl.find t.launches k = Tbl.find s.launches k) ∧ t.hostQueue l.queue = { h with inFlight := [] }
        ∧ ∀ k, Memory.read t.mem k = if pa ≤ k ∧ k < pa + 8 then word.getD (k - pa) 0 else Memory.read s.mem k)) ∧
  ∀ (s : State) (die k id : Nat) (c : Caravan), k < 64 → s.firstReady ((s.arbiter + k) % 64) = some (id, c) →
    (∀ j < k, s.firstReady ((s.arbiter + j) % 64) = none) →
    let q := (s.arbiter + k) % 64
    let h := s.hostQueue q
    let quantum : Int := h.weight * 8192
    let deficit := min (h.deficit + quantum) (4 * quantum)
    let visited (t : State) : Prop := t.hostQueue q = { h with deficit := deficit } ∧ t.arbiter = (q + 1) % 64
      ∧ t = { s with queues := t.queues, arbiter := t.arbiter, caravans := t.caravans, dies := t.dies }
      ∧ ∀ j, j ≠ q → t.hostQueue j = s.hostQueue j
    (deficit ≤ 0 → ∃ t, exec (.arbiterVisit die) s = .next t ∧ visited t ∧ t.caravans = s.caravans ∧ t.dies = s.dies) ∧
    (0 < deficit → c.home = none → s.dieAllowed c die = true → ∃ t, exec (.arbiterVisit die) s = .next t ∧ visited t
      ∧ (∀ j, t.caravan? j = if j = id then some { c with stage := .die die } else s.caravan? j)
      ∧ ∀ j, t.die j = if j = die then { s.die die with waiting := (s.die die).waiting ++ [id] } else s.die j)

/-- R297, R303, R343, R355, R362, R370: CTXLOAD loads a context from its record, of the world of its partition, or enlarges the save area of a stopped one; CTXFREE frees one without
caravans; QBIND binds a queue afresh; PARTITION gives clusters to a partition; RESOLVE answers a fault entry, whose waiters walk again or
fail; ATTACH attaches a debug context to a target or detaches it. Fields out of range are status 4, and what the state of the part does not
allow is status 5. Details that the spec leaves to inference are read as assumption log 30 says. -/
def Obligations.Configuration : Prop :=
  ∀ (s : State) (q : Nat) (p : Packet),
    let field (off n : Nat) : Nat := bytesNat ((p.bytes.drop off).take n)
    let n := field 0x10 4
    let part (k : Nat) : Partition := Tbl.findD s.partitions k Partition.initial
    (LanePacket s q p .ctxload →
      (63 < n → PacketEnds s s q p (.ctxload q) 4 0) ∧
      ∀ b, n ≤ 63 → s.queueGet q p (s.hostQueue q) (field 0x18 8) 128 = .got b →
        let c := contextOf b (Memory.readNat s.mem (bytesNat ((b.drop 0x20).take 8)) 8)
        let x (off n : Nat) : Nat := bytesNat ((b.drop off).take n)
        (recordBad b = true → PacketEnds s s q p (.ctxload q) 4 0) ∧
        (recordBad b = false → Tbl.find s.partitions c.partition = none → PacketEnds s s q p (.ctxload q) 5 0) ∧
        (∀ k, recordBad b = false → Tbl.find s.partitions c.partition = some k →
          (k.secure ≠ c.secure → PacketEnds s s.worldViolation q p (.ctxload q) 5 0) ∧
          (k.secure = c.secure → s.refusesContext c.secure = true → PacketEnds s s q p (.ctxload q) 5 0) ∧
          (∀ old, k.secure = c.secure → s.refusesContext c.secure = false → Tbl.find s.contexts n = some old →
            let enlarges : Prop := k.halt ≠ none ∧ s.allStopped c.partition = true ∧ old.partition = c.partition ∧ old.save = c.save
            (enlarges → PacketEnds s (s.setContext n { old with nframes := c.nframes }) q p (.ctxload q) 0 0) ∧
            (¬ enlarges → PacketEnds s s q p (.ctxload q) 5 0)) ∧
          (k.secure = c.secure → s.refusesContext c.secure = false → Tbl.find s.contexts n = none →
            PacketEnds s ((s.freshContext n).setContext n c) q p (.ctxload q) 0 0
            ∧ c.partition = x 0 1 ∧ c.secure = decide (x 1 1 % 2 = 1) ∧ c.lease = x 4 4 ∧ c.root = x 8 8 ∧ c.weight = x 0x14 2
            ∧ c.btok = x 0x18 4 ∧ c.budget = x 0x1C 4 ∧ c.save = x 0x20 8 ∧ c.frames = [] ∧ c.target = none ∧ c.headroom = true))) ∧
    (LanePacket s q p .ctxfree →
      let detached (c : Context) : Context := { c with target := if c.target = some n then none else c.target }
      (63 < n → PacketEnds s s q p (.ctxfree q) 4 0) ∧
      (n ≤ 63 → s.loaded n = false ∨ (∃ x ∈ s.caravans, x.2.ctx = n) → PacketEnds s s q p (.ctxfree q) 5 0) ∧
      (n ≤ 63 → s.loaded n = true → (∀ x ∈ s.caravans, x.2.ctx ≠ n) → ∃ u, PacketEnds s u q p (.ctxfree q) 0 0
        ∧ u.queues = s.queues ∧ Tbl.find u.contexts n = none ∧ (∀ k, k ≠ n → Tbl.find u.contexts k = (Tbl.find s.contexts k).map detached)
        ∧ u.objects = s.objects.filter (fun o => o.ctx != n) ∧ u.mem = s.mem ∧ u.warps = s.warps ∧ u.caravans = s.caravans
        ∧ ∀ k, ∀ e ∈ (u.core k).tlb ++ (u.cluster k).tlb ++ (u.die k).tlb, e.ctx ≠ n)) ∧
    (LanePacket s q p .qbind →
      let bad : Prop := 63 < n ∨ 63 < field 0x14 4 ∨ field 0x18 8 % 64 ≠ 0 ∨ field 0x20 4 < 1 ∨ 255 < field 0x20 4
      (bad → PacketEnds s s q p (.qbind q) 4 0) ∧
      (¬ bad → s.loaded (field 0x14 4) = false → PacketEnds s s q p (.qbind q) 5 0) ∧
      (¬ bad → s.loaded (field 0x14 4) = true → PacketEnds s (s.setHostQueue n
        ⟨true, field 0x14 4, field 0x18 8, field 0x20 4, 0, 0, 0, false, false, false, none, (s.hostQueue n).inFlight⟩) q p (.qbind q) 0 0)) ∧
    (LanePacket s q p .partition →
      let world := field 0x14 4
      (15 < n ∨ 1 < world → PacketEnds s s q p (.partition q) 4 0) ∧
      ∀ b, n ≤ 15 → world ≤ 1 → s.queueGet q p (s.hostQueue q) (field 0x18 8) 36 = .got b →
        let l := (List.range 288).filter fun k => (b.getD (k / 8) 0).getLsbD (k % 8)
        let same : Prop := (part n).clusters = l ∧ (part n).secure = decide (world = 1) ∧ ∃ c ∈ s.contexts, c.2.partition = n
        let takesSecure : Prop := world = 0 ∧ ∃ c ∈ s.contexts, c.2.secure = true ∧ ∃ k ∈ (part c.2.partition).clusters, k ∈ l
        let held : Prop := ∃ c ∈ s.contexts, c.2.partition = n ∨ (c.2.partition ≠ n
          ∧ ∃ y ∈ s.partitions, y.1 = c.2.partition ∧ ∃ k ∈ y.2.clusters, k ∈ l)
        b.length = 36 →
        (same → PacketEnds s s q p (.partition q) 0 0) ∧
        (¬ same → takesSecure → PacketEnds s s.worldViolation q p (.partition q) 5 0) ∧
        (¬ same → ¬ takesSecure → held → PacketEnds s s q p (.partition q) 5 0) ∧
        (¬ same → ¬ takesSecure → ¬ held → ∃ u, PacketEnds s u q p (.partition q) 0 0 ∧ u = { s with partitions := u.partitions }
          ∧ Tbl.find u.partitions n = some { part n with clusters := l, secure := decide (world = 1) }
          ∧ ∀ k y, k ≠ n → Tbl.find s.partitions k = some y → Tbl.find u.partitions k =
              some { y with clusters := y.clusters.filter fun j => !l.contains j })) ∧
    (LanePacket s q p .resolve →
      let outcome := field 0x18 4
      let seq := field 0x14 4
      (3 < n ∨ 1 < outcome → PacketEnds s s q p (.resolve q) 4 0) ∧
      (n ≤ 3 → outcome ≤ 1 → (∀ f ∈ (s.die n).faults, f.seq ≠ seq) → PacketEnds s s q p (.resolve q) 0 0) ∧
      ∀ f r, n ≤ 3 → outcome ≤ 1 → (s.die n).faults.find? (fun f => f.seq == seq) = some f → f.waiters = [r] → ∃ u,
        PacketEnds s u q p (.resolve q) 0 0 ∧ u.queues = s.queues ∧ (u.die n).faults = (s.die n).faults.filter (fun g => g.seq != seq)
        ∧ (outcome = 0 → (u.die n).requests = (s.die n).requests ++ [r])
        ∧ (∀ what, outcome = 1 → r.who = .part what → u.dropped = s.dropped ++ [(what, r.ctx, r.va / 65536)])
        ∧ (∀ op k, outcome = 1 → r.who = .engine op → (u.core k).copyQueue = (s.core k).copyQueue.map fun o =>
            if o.id = op then { o with pages := o.pages ++ [(r.ctx, r.va / 65536)] } else o)
        ∧ ∀ id w, r.who = .warp id → s.warp? id = some w → w.phase = .waiting (.translation seq) →
          (outcome = 0 → u.warp? id = some { w with phase := if w.run.isSome then .issuing else .fetch }) ∧
          let x : Warp := { w with phase := .fetch }
          (outcome = 1 → w.run = none → s.mustStop x = true → (s.caravan? w.caravan).isSome = true → u.warp? id = some x) ∧
          (outcome = 1 → NoHaltOnFault s w → (w.run = none → s.mustStop x = false ∧ ∃ c, s.caravan? w.caravan = some c
            ∧ s.boundary id x (s.headerRun x c) = none) → ∃ w', u.warp? id = some w' ∧ w'.phase = .terminating ⟨0x07, false, false, false⟩
            ∧ w'.tcause = 7 ∧ w'.active = false ∧ SameScalars w w' ∧ SameVectors w w')) ∧
    (LanePacket s q p .attach →
      let target := field 0x14 4
      let bad : Prop := 63 < n ∨ (63 < target ∧ target ≠ 0xFFFF)
      (bad → PacketEnds s s q p (.attach q) 4 0) ∧
      (¬ bad → (∀ c, Tbl.find s.contexts n = some c → c.debug = false) → PacketEnds s s q p (.attach q) 5 0) ∧
      ∀ c, ¬ bad → Tbl.find s.contexts n = some c → c.debug = true →
        (target = 0xFFFF → PacketEnds s (s.setContext n { c with target := none }) q p (.attach q) 0 0) ∧
        (target ≠ 0xFFFF → Tbl.find s.contexts target = none → PacketEnds s s q p (.attach q) 5 0) ∧
        (∀ k, target ≠ 0xFFFF → Tbl.find s.contexts target = some k →
          (k.secure = true → c.secure = false → PacketEnds s s.worldViolation q p (.attach q) 5 0) ∧
          (k.secure = false ∨ c.secure = true → PacketEnds s (s.setContext n { c with target := some target }) q p (.attach q) 0 0)))

/-- R166, R297, R300, R357 to R360: PREEMPT raises its partition's halt line and stays open until everything of the partition has stopped and is
saved, when it completes with the microseconds since the rise. RESUME lowers the line, whose fall lets the partition's stopped warps go on
with the registers that their frames hold and an index of their own, and completes once every saved caravan is placed. ABORT of a launch terminates the warps of its placed caravans with cause 0xFF and removes
its pending ones; once no warp is left both packets complete with status 3. Details that the spec leaves to inference are read as assumption
logs 31 and 54 say. -/
def Obligations.StopsAndAborts : Prop :=
  ∀ (s : State) (q : Nat) (p : Packet),
    let h := s.hostQueue q
    let n := bytesNat ((p.bytes.drop 0x10).take 4)
    let part (u : State) : Partition := Tbl.findD u.partitions n Partition.initial
    (LanePacket s q p .preempt →
      (15 < n → PacketEnds s s q p (.preempt q) 4 0) ∧
      (n ≤ 15 → ∃ u, u = { s with partitions := u.partitions } ∧ (∀ k, k ≠ n → Tbl.find u.partitions k = Tbl.find s.partitions k)
        ∧ (part u).halt = some ((part s).halt.getD s.time) ∧ HaltHolder.preempt ∈ (part u).holders
        ∧ (part u).clusters = (part s).clusters ∧ (u.stopReady n = false → PacketOpens s u q p (.preempt q) none 0))) ∧
    (∀ rise pa due, p.kind = .preempt → s.security.started = true → q < 64 → h.lane = none → h.tail ≤ h.head → h.headDue = false →
      h.readTail = false → h.inFlight = [⟨p, none, due⟩] → h.bound = true → s.loaded h.ctx = true → p.notify = true →
      p.doneVa % 8 = 0 → (part s).halt = some rise → s.stopReady n = true → (s.savePartition n).loaded h.ctx = true →
      (s.savePartition n).hostQueue q = h → (s.savePartition n).partReach (.word q p.index) 0 h.ctx p.doneVa true = .go pa →
      (∀ k ∈ (part s).clusters, k < 288) →
      let word := natBytes 4 0 ++ natBytes 4 (min ((s.time - rise) / 1000) (2 ^ 32 - 1))
      ∃ t, exec (.preempt q) s = .next t ∧ t.hostQueue q = { h with inFlight := [] }
        ∧ (∀ k, Memory.read t.mem k = if pa ≤ k ∧ k < pa + 8 then word.getD (k - pa) 0 else Memory.read s.mem k)
        ∧ (∀ k ∈ (part s).clusters, t.clusterEmpty k = true) ∧ ∀ id c core, s.caravan? id = some c → c.core = some core →
            core / 2 ∈ (part s).clusters → ∃ c', t.caravan? id = some c' ∧ c'.stage = .saved ∧ c'.scratch = c.scratch ∧ c'.tracks = c.tracks) ∧
    (LanePacket s q p .resume →
      (15 < n → PacketEnds s s q p (.resume q) 4 0) ∧
      (n ≤ 15 → (part s).secure = true → 2 ≤ s.security.alarm → PacketEnds s s q p (.resume q) 5 0) ∧
      (n ≤ 15 → (part s).secure = false ∨ s.security.alarm < 2 → s.preempting n = false → (part s).saved = [] →
        (part s).holders ≠ [] → (s.warps.map fun x => x.1).Nodup → ∃ u, PacketEnds s u q p (.resume q) 0 0 ∧ u.queues = s.queues ∧ u.mem = s.mem ∧ (part u).halt = none ∧ (part u).holders = []
          ∧ (∀ k, k ≠ n → Tbl.find u.partitions k = Tbl.find s.partitions k)
          ∧ (∀ id w c, s.warp? id = some w → Tbl.find s.contexts w.ctx = some c → c.partition = n → w.core < 576 → w.phase = .stopped →
              w.stopWait = none → w.spilledRegs = false → ∃ w', u.warp? id = some w' ∧ w'.phase = .fetch ∧ w'.next = w.next
                ∧ w'.scalars = listPut 0 w.scalars 57 (BitVec.ofNat 32 w'.widx) ∧ w'.vregs = s.vregsOf w ∧ SameStack w w'
                ∧ w'.progress = (w.stoppedOp.map fun x => x.2).getD 0
                ∧ (s.warps.length ≤ 1024 → ∀ j x, j ≠ id → u.warp? j = some x → x.core = w.core → x.widx ≠ w'.widx))
          ∧ ∀ ctx c, Tbl.find s.contexts ctx = some c → Tbl.find u.contexts ctx =
              some (if c.partition = n then { c with stopFrames := [] } else c))) ∧
    (LanePacket s q p .abort → (∀ l ∈ s.launches, ¬ (l.2.queue = q ∧ l.2.packet = bytesNat ((p.bytes.drop 0x10).take 8))) →
      PacketEnds s s q p (.abort q) 0 0) ∧
    (∀ launch l id c w wid open_ headAt, (s.launches.find? fun x => x.2.queue == q && x.2.packet == bytesNat ((p.bytes.drop 0x10).take 8)) =
        some (launch, l) → (s.caravans.filter fun x => x.2.launch == launch) = [(id, c)] → s.caravan? id = some c → c.stage = .placed →
      (s.warps.filter fun x => x.2.caravan == id) = [(wid, w)] → (s.warps.map fun x => x.1).Nodup →
      (∀ k, w.phase ≠ .retiring k) → (∀ k, w.phase ≠ .terminating k) → p.kind = .abort → p.fence = false → p.ring = true →
      s.security.started = true → q < 64 → h.lane = some p → h.headDue = false → h.readTail = false → s.firstInOrder q p = true →
      h.inFlight = [open_] → open_.packet.kind ≠ .abort → h.bound = true → h.control % 64 = 0 → s.loaded h.ctx = true →
      (s.abortLaunch launch l).partReach (.head q) 0 h.ctx (h.control + 16) true = .go headAt →
      ∃ t w', exec (.abort q) s = .next t ∧ Tbl.find t.launches launch = some { l with aborted := true } ∧ t.warp? wid = some w'
        ∧ w'.phase = .terminating ⟨0xFF, false, false, false⟩ ∧ w'.active = false ∧ SameScalars w w' ∧ SameVectors w w'
        ∧ (∀ j x, j ≠ wid → s.warp? j = some x → ∃ y, t.warp? j = some y ∧ y = { x with watches := y.watches })
        ∧ (∃ c', t.caravan? id = some c' ∧ c' = { c with claimed := c.record.trip + c.record.stages - 1 })
        ∧ t.hostQueue q = { h with
            lane := none, stalled := false, head := h.head + 1, inFlight := [open_, ⟨p, none, 0⟩]
            readTail := decide (h.tail ≤ h.head + 1) }) ∧
    ∀ launch l pl due due' pa pb, (s.launches.find? fun x => x.2.queue == q && x.2.packet == bytesNat ((p.bytes.drop 0x10).take 8)) =
        some (launch, l) → Tbl.find s.launches launch = some l → (∀ x ∈ s.caravans, x.2.launch ≠ launch) → p.kind = .abort →
      s.security.started = true → q < 64 → h.lane = none → h.tail ≤ h.head → h.headDue = false → h.readTail = false →
      h.inFlight = [⟨pl, none, due⟩, ⟨p, none, due'⟩] → pl ≠ p → pl.kind ≠ .abort → pl.ring = true → pl.index = l.packet → p.ring = true →
      p.index ≠ l.packet → h.bound = true → s.loaded h.ctx = true → pl.notify = true → p.notify = true → pl.doneVa % 8 = 0 →
      p.doneVa % 8 = 0 → s.partReach (.word q pl.index) 0 h.ctx pl.doneVa true = .go pa →
      (s.homeWrite pa (natBytes 4 3 ++ natBytes 4 0)).partReach (.word q p.index) 0 h.ctx p.doneVa true = .go pb →
      ∃ t, exec (.abort q) s = .next t ∧ Tbl.find t.launches launch = none ∧ t.hostQueue q = { h with inFlight := [] }
        ∧ TwoWords s t pa (natBytes 4 3 ++ natBytes 4 0) pb (natBytes 4 3 ++ natBytes 4 0)

/-! ### The fabric -/

/-- R362, R364, R373, R374, R376, R377: a put writes its bytes at their homes and is acknowledged with a status once they are complete, and a
get answers with bytes read fresh, in packets of at most 4,096 bytes; a page that does not come is status 2, and traffic for a context that is not loaded, or for a secure one not under the security sublayer, is refused
with status 3. Packets without reliable delivery are dropped and counted. A peer that is down is marked until it returns,
and what waited for it is then sent. A table entry is
written whole while no caravan of the contexts it serves is resident or stopped, and where its fields are in range; what is
written to a convoy's place begins a convoy afresh (DESIGN CHOICE, assumption log 54). Details that the spec leaves to inference are read
as assumption log 33 says. -/
def Obligations.FabricPorts : Prop :=
  ∀ (s : State),
    let out (t : State) (u : State) (x : Outgoing) : Prop := t = { u with fabric := { u.fabric with out := u.fabric.out ++ [x] } }
    (∀ (secure : Bool) (ctx : Nat) (va : BitVec 64) (bytes : List Byte) (n : Nat), s.security.started = true →
      (secure = true → s.security.keysPresent = true) →
      let place : PartAccess × Nat × Nat := (.fabric ctx, ctx, va.toNat / 65536)
      (s.loaded ctx = false → (∃ t, exec (.put secure ctx va bytes) s = .next t ∧ out t s (.ack secure 3 s.time))
        ∧ ∃ t, exec (.get secure ctx va n) s = .next t ∧ out t s (.answer secure 3 0 [])) ∧
      (s.loaded ctx = true → s.ctxSecure ctx = true → secure = false →
        (∃ t, exec (.put secure ctx va bytes) s = .next t ∧ out t s.worldViolation (.ack secure 3 s.time))
        ∧ ∃ t, exec (.get secure ctx va n) s = .next t ∧ out t s.worldViolation (.answer secure 3 0 [])) ∧
      (s.loaded ctx = true → s.ctxSecure ctx = false ∨ secure = true → place ∈ s.dropped →
        let u : State := { s with dropped := s.dropped.filter fun x => x != place }
        (bytes ≠ [] → ∃ t, exec (.put secure ctx va bytes) s = .next t ∧ out t u (.ack secure 2 s.time)) ∧
        (1 ≤ n → ∃ t, exec (.get secure ctx va n) s = .next t ∧ out t u (.answer secure 2 0 []))) ∧
      (s.loaded ctx = true → s.ctxSecure ctx = false ∨ secure = true → place ∉ s.dropped → s.walking (.part (.fabric ctx)) = false →
        (∀ leaf pa, bytes ≠ [] → va.toNat % 65536 + bytes.length ≤ 65536 → s.reach 0 ctx va.toNat true false = .at_ leaf pa →
          ∃ t, exec (.put secure ctx va bytes) s = .next t
            ∧ out t (s.homeWrite pa bytes) (.ack secure 0 (max s.time (s.completionOf pa bytes.length)))) ∧
        (∀ leaf pa, 1 ≤ n → va.toNat % 65536 + n ≤ 65536 → s.reach 0 ctx va.toNat false false = .at_ leaf pa →
          ∃ t, exec (.get secure ctx va n) s = .next t ∧ t = { s with fabric := { s.fabric with
            out := s.fabric.out ++ (List.range ((n + 4095) / 4096)).map fun k =>
              .answer secure 0 (4096 * k) (((Memory.readBytes s.mem pa n).drop (4096 * k)).take 4096) } }) ∧
        (1 ≤ n → s.reach 0 ctx va.toNat false false = .poisoned →
          ∃ t, exec (.get secure ctx va n) s = .next t ∧ out t s (.answer secure 1 0 [])) ∧
        (bytes ≠ [] → s.reach 0 ctx va.toNat true false = .refused false →
          ∃ t, exec (.put secure ctx va bytes) s = .next t ∧ out t s (.ack secure 3 s.time)))) ∧
    (s.security.started = true →
      exec .unreliablePacket s = .next { s with fabric := { s.fabric with dropped := s.fabric.dropped + 1 } }) ∧
    (∀ partition peer, s.security.started = true → ∃ t, exec (.peerDown partition peer) s = .next t ∧ t = { s with fabric := { s.fabric with down := t.fabric.down } }
      ∧ ∀ x, x ∈ t.fabric.down ↔ x = (partition, peer) ∨ x ∈ s.fabric.down) ∧
    (∀ partition peer, ∃ t, exec (.peerReturn partition peer) s = .next t ∧ t = { s with fabric := { s.fabric with
        down := t.fabric.down, out := t.fabric.out, held := t.fabric.held } }
      ∧ (∀ x, x ∈ t.fabric.down ↔ x ≠ (partition, peer) ∧ x ∈ s.fabric.down)
      ∧ (let goes (x : Nat × Outgoing) : Bool := x.1 == partition && x.2.target.1 == some peer && (!x.2.target.2 || s.security.keysPresent)
         t.fabric.out = s.fabric.out ++ (s.fabric.held.filter goes).map (fun x => x.2)
           ∧ t.fabric.held = s.fabric.held.filter fun x => !goes x)) ∧
    (∀ (partition index : Nat) (words : List Word),
      let b := words.flatMap fun w => natBytes 4 w.toNat
      let x (off n : Nat) : Nat := bytesNat ((b.drop off).take n)
      let using_ (ctx : Nat) : Prop := ∃ c ∈ s.caravans, c.2.ctx = ctx ∧ (c.2.stage = .placed ∨ c.2.stage = .saved)
      let key := partition * 64 + index
      let others (t : State) : Prop := t = { s with fabric := { s.fabric with
          peers := t.fabric.peers, convoys := t.fabric.convoys, issued := t.fabric.issued, collectives := t.fabric.collectives, tout := t.fabric.tout } }
        ∧ ∀ p i, p ≠ partition ∨ i ≠ index → t.peerEntry p i = s.peerEntry p i ∧ t.convoyEntry p i = s.convoyEntry p i
      (let good : Prop := s.security.started = true ∧ partition < 16 ∧ index < 4096 ∧ words.length = 8 ∧ x 0x10 2 < 64 ∧ x 0x12 1 < 4 ∧ (∀ y ∈ b.drop 0x13, y = 0)
         ∧ ∀ c ∈ s.contexts, c.2.partition = partition → ¬ using_ c.1
       (¬ good → exec (.peerTableWrite partition index words) s = .next s) ∧
       (good → ∃ t, exec (.peerTableWrite partition index words) s = .next t ∧ others t ∧ t.fabric.convoys = s.fabric.convoys
         ∧ t.fabric.issued = s.fabric.issued ∧ t.fabric.collectives = s.fabric.collectives ∧ t.fabric.tout = s.fabric.tout
         ∧ t.peerEntry partition index = some ⟨BitVec.ofNat 128 (x 0 16), x 0x10 2, decide (x 0x12 1 % 2 = 1), decide (x 0x12 1 / 2 = 1)⟩)) ∧
      (let good : Prop := s.security.started = true ∧ partition < 16 ∧ index < 64 ∧ words.length = 20 ∧ x 0 2 < 64 ∧ x 8 1 < 16 ∧ x 9 1 < 2 ∧ x 0xA 6 = 0
         ∧ x 0x4C 4 = 0 ∧ ¬ using_ (x 0 2) ∧ ∀ o, s.convoyEntry partition index = some o → ¬ using_ o.ctx
       (¬ good → exec (.convoyTableWrite partition index words) s = .next s) ∧
       (good → ∃ t, exec (.convoyTableWrite partition index words) s = .next t ∧ others t ∧ t.fabric.peers = s.fabric.peers
         ∧ (∀ k, Tbl.find t.fabric.issued k = if k = key then none else Tbl.find s.fabric.issued k)
         ∧ t.fabric.collectives = s.fabric.collectives.filter (fun y => y.convoy != key)
         ∧ t.fabric.tout = s.fabric.tout.filter (fun y => y.convoy != key)
         ∧ t.convoyEntry partition index = if 2 ≤ x 4 2 ∧ x 4 2 ≤ 1024 then
             some ⟨x 0 2, x 2 2, x 4 2, x 6 2, decide (x 9 1 % 2 = 1), (List.range (x 8 1)).map fun i => x (0x10 + 2 * i) 2,
               (List.range (x 8 1)).map fun i => x (0x2E + 2 * i) 2⟩ else none)))

/-- R373, R378 to R380, R382, R384 to R386: contributions are combined element by element in ascending child order once a router has its own
and every child's, and go to the parent, or at member 0 down the tree as the result, in packets of at most 4,096 bytes; what comes down goes on
to the children, what is for a peer that is down waits, and what comes to a secure context without the security sublayer is a world violation,
which stops a multicast at no other member.
A result times its collective, which is a sample of the slack where the one before it on its convoy is known. The fabric engine sends
an `fput` in packets of at most 4,096 bytes and ends it with the peer's status, asks for an `fget` and writes what comes back, and writes a
collective's result at DST with RESULT 0 in its block. Details that the spec leaves to inference are read as assumption log 33 says. -/
def Obligations.FabricTraffic : Prop :=
  (∀ (a b : Contribution), a.fn = 0 → b.fn = 0 → a.oper = b.oper → a.oper < 4 → a.count = b.count → a.mismatch = false → b.mismatch = false →
    a.bytes.length = 4 * a.count → b.bytes.length = 4 * a.count →
    let word (x : Contribution) (i : Nat) : Word := BitVec.ofNat 32 (bytesNat ((x.bytes.drop (4 * i)).take 4))
    let c := combine a b
    c.fn = 0 ∧ c.oper = a.oper ∧ c.count = a.count ∧ c.thr = (a.thr || b.thr) ∧ c.mismatch = false ∧ c.bytes.length = 4 * a.count
    ∧ ∀ i < a.count, (a.oper = 0 → word c i = word a i + word b i)
      ∧ (a.oper = 2 → word c i = if (word b i).toInt ≤ (word a i).toInt then word a i else word b i)
      ∧ (a.oper = 3 → word c i = if (word a i).toInt ≤ (word b i).toInt then word a i else word b i)
      ∧ (a.oper = 1 → word c i =
          BitVec.ofNat 32 (Fmt.f32.result 0 0 ((Fmt.f32.decode (word a i).toNat).add 0 (Fmt.f32.decode (word b i).toNat)).1).1)) ∧
  (∀ (s : State) (partition convoy child seq : Nat) (c own : Contribution) (e : ConvoyEntry) (x : Collective),
    s.fabric.notes = [] → (∀ k ∈ s.clusters, ∀ o ∈ k.2.fabric, o.state ≠ .running) → s.convoyEntry partition convoy = some e →
    child < e.children.length → s.collective? (partition * 64 + convoy) seq = some x → x.sent = false → x.own = some own →
    ∀ secure, s.security.started = true → (s.ctxSecure e.ctx = true → s.security.keysPresent = true) →
    let mark := s.ctxSecure e.ctx
    let under (p : Nat) : Bool := ((s.peerEntry partition p).map fun y => y.secure).getD false || mark
    let reached (p : Nat) : Prop := (partition, p) ∉ s.fabric.down ∧ (under p = true → s.security.keysPresent = true)
    let there := if (Tbl.find x.children child).isSome then x.children else Tbl.put x.children child c
    let all : Prop := ∀ k < e.children.length, (Tbl.find there k).isSome = true
    let acc := ((List.range e.children.length).filterMap fun k => Tbl.find there k).foldl combine own
    let down : Contribution := if acc.fn = 1 then { acc with bytes := [] } else acc
    let key := partition * 64 + convoy
    let kept (t : State) (y : Collective) : Prop := t.collective? key seq = some y
      ∧ t = { s with contexts := t.contexts, fabric := { s.fabric with
          collectives := t.fabric.collectives, out := t.fabric.out, held := t.fabric.held, tout := t.fabric.tout } }
      ∧ ∀ k n, k ≠ key ∨ n ≠ seq → t.collective? k n = s.collective? k n
    let same (t : State) : Prop := t.contexts = s.contexts ∧ t.fabric.tout = s.fabric.tout
    (mark = true → secure = false → exec (.contributionArrival partition convoy child seq ⟨secure, c⟩) s = .next s.worldViolation) ∧
    (mark = false ∨ secure = true → ∃ t, exec (.contributionArrival partition convoy child seq ⟨secure, c⟩) s = .next t
      ∧ (¬ all → kept t { x with children := there } ∧ same t ∧ t.fabric.out = s.fabric.out ∧ t.fabric.held = s.fabric.held)
      ∧ (all → e.member = 0 → (∀ p ∈ e.children, reached p) →
        kept t { x with children := there, sent := true, result := some acc, tout := s.time }
        ∧ t.fabric.tout = s.fabric.tout ++ [⟨key, seq, x.tin, s.time, acc.thr⟩] ∧ t.fabric.held = s.fabric.held
        ∧ t.fabric.out = s.fabric.out ++ e.children.flatMap fun p => (inPackets down).map fun y => .result p convoy seq (under p) y.1 y.2)
      ∧ (all → e.member ≠ 0 → kept t { x with children := there, sent := true } ∧ same t ∧
        let up : List Outgoing := (inPackets acc).map fun y => .contribution e.parent convoy seq (under e.parent) y.1 y.2
        (reached e.parent → t.fabric.out = s.fabric.out ++ up ∧ t.fabric.held = s.fabric.held)
        ∧ (¬ reached e.parent →
            t.fabric.out = s.fabric.out ∧ t.fabric.held = s.fabric.held ++ up.map fun y => (partition, y))))) ∧
  (∀ (s : State) (partition ctx : Nat) (x y : SlackTime) (c : Context),
    (s.fabric.tout.find? fun z => z.convoy == x.convoy && z.seq == x.seq - 1) = some y → y.seq + 1 = x.seq →
    (s.fabric.tout.find? fun z => z.convoy == x.convoy && z.seq == x.seq + 1) = none → y.tout ≤ x.tout →
    Tbl.find s.contexts ctx = some c → c.samples.length < 7 →
    let taken : Prop := x.thr = false ∧ s.slackControlled partition ctx = true
    s.slackSample partition ctx x = { s with
      fabric := { s.fabric with tout := s.fabric.tout ++ [x] }
      contexts := (s.slackSample partition ctx x).contexts }
    ∧ ∀ k, Tbl.find (s.slackSample partition ctx x).contexts k = if k = ctx ∧ taken then
        some { c with samples := c.samples ++ [((x.tout : Int) - x.tin, x.tout - y.tout)] } else Tbl.find s.contexts k) ∧
  (∀ (s : State) (partition convoy seq source dst note pa : Nat) (value : DWord) (bytes : List Byte) (c : Contribution) (e : ConvoyEntry)
      (leaf : DWord) (secure : Bool),
    s.fabric.notes = [] → s.convoyEntry partition convoy = some e → s.security.started = true →
    (s.ctxSecure e.ctx = true → s.security.keysPresent = true) → s.ctxSecure e.ctx = false ∨ secure = true →
    let mark := s.ctxSecure e.ctx
    let under (p : Nat) : Bool := ((s.peerEntry partition p).map fun y => y.secure).getD false || mark
    let reached (p : Nat) : Prop := (partition, p) ∉ s.fabric.down ∧ (under p = true → s.security.keysPresent = true)
    let edges := (e.children ++ if e.member = 0 then [] else [e.parent]).filter fun p => p != source
    let relayed (f : Nat → Bool) : List Outgoing := edges.flatMap fun p =>
      (List.range (max 1 ((bytes.length + 4095) / 4096))).map fun k => .multicast p (dst + 4096 * k) (if bytes.length ≤ 4096 * (k + 1) then note else 0)
        (if bytes.length ≤ 4096 * (k + 1) then value else 0) (f p) ((bytes.drop (4096 * k)).take 4096)
    let key := partition * 64 + convoy
    (∀ x, (∀ k ∈ s.clusters, ∀ o ∈ k.2.fabric, o.state ≠ .running) → s.collective? key seq = some x → x.sent = true → x.result = none →
      (∀ p ∈ e.children, reached p) →
      let down : Contribution := if c.fn = 1 then { c with bytes := [] } else c
      ∃ t, exec (.collectiveResult partition convoy (.result secure seq c)) s = .next t
        ∧ t.collective? key seq = some { x with result := some c, tout := s.time }
        ∧ t.fabric.out = s.fabric.out ++ e.children.flatMap (fun p => (inPackets down).map fun y => .result p convoy seq (under p) y.1 y.2)
        ∧ t.fabric.tout = s.fabric.tout ++ [⟨key, seq, x.tin, s.time, c.thr⟩]
        ∧ t = { s with contexts := t.contexts, fabric := { s.fabric with
            collectives := t.fabric.collectives, out := t.fabric.out, tout := t.fabric.tout } }) ∧
    (s.loaded e.ctx = false → (∀ p ∈ edges, (partition, p) ∉ s.fabric.down) → (secure = true → s.security.keysPresent = true) →
      exec (.collectiveResult partition convoy (.multicast secure source dst note value bytes)) s = .next
        { s with fabric := { s.fabric with out := s.fabric.out ++ relayed (fun _ => secure) ++ [.ack secure 3 s.time] } }) ∧
    (bytes ≠ [] → s.loaded e.ctx = true → (∀ p ∈ edges, reached p) →
      ((.fabric e.ctx, e.ctx, dst / 65536) : PartAccess × Nat × Nat) ∉ s.dropped → s.walking (.part (.fabric e.ctx)) = false →
      dst % 65536 + bytes.length ≤ 65536 → s.reach 0 e.ctx dst true false = .at_ leaf pa → note = 0 →
      ∃ t, exec (.collectiveResult partition convoy (.multicast secure source dst note value bytes)) s = .next t
        ∧ (∀ k, Memory.read t.mem k = if pa ≤ k ∧ k < pa + bytes.length then bytes.getD (k - pa) 0 else Memory.read s.mem k)
        ∧ t.fabric.out = s.fabric.out ++ relayed under
          ++ [.ack mark 0 (max s.time (s.completionOf pa bytes.length))])) ∧
  ∀ (s : State) (cluster : Nat) (o : EngineOp) (rest : List EngineOp) (reply : FabricReply), s.fabric.notes = [] →
    (s.cluster cluster).fabric = o :: rest → o.state ≠ .finished → s.mayWork o = true → (∀ x ∈ rest, x.id ≠ o.id) →
    let run := exec (.fabricEngineRun cluster 0 reply) s
    let worse (a b : BitVec 8) : BitVec 8 := if a = 0 then b else if b = 0 then a else if b.toNat < a.toNat then b else a
    let stands (t : State) (x : EngineOp) : Prop := (t.cluster cluster).fabric = x :: rest
    (∀ src dst n peer ord e, (o.kind = .fput src dst n peer ord ∨ o.kind = .fget src dst n peer ord) →
      s.peerEntry (s.partitionOf o.ctx) peer = some e → (s.partitionOf o.ctx, peer) ∉ s.fabric.down →
      let sealed := e.secure || s.ctxSecure o.ctx
      (sealed = true → s.security.keysPresent = true) →
      (∀ pa leaf, o.kind = .fput src dst n peer ord → o.cursor = 0 → s.meet o (src + o.progress) false false = .at_ pa leaf →
        let m := min (min (n - o.progress) 4096) (65536 - (src + o.progress) % 65536)
        ∃ t, run = .next t ∧ SameMemory s t
          ∧ stands t { o with state := .running, progress := o.progress + m, cursor := if n ≤ o.progress + m then 1 else 0 }
          ∧ t.fabric.out = s.fabric.out ++ [.put o.id peer e.rctx (dst + o.progress) sealed ord (Memory.readBytes s.mem pa m)]) ∧
      (∀ status, o.kind = .fput src dst n peer ord → o.cursor = 1 → reply = .ack status →
        ∃ t, run = .next t ∧ stands t { o with state := .finished, status := worse o.status status }
          ∧ t = { s with clusters := t.clusters }) ∧
      (o.kind = .fget src dst n peer ord → o.cursor = 0 → ∃ t, run = .next t ∧ stands t { o with state := .running, cursor := 1 }
        ∧ t.fabric.out = s.fabric.out ++ [.get o.id peer e.rctx src n sealed ord] ∧ SameMemory s t) ∧
      (∀ status bytes, o.kind = .fget src dst n peer ord → o.cursor = 1 → reply = .data status bytes →
        ∃ t, run = .next t ∧ t = { s with clusters := t.clusters }
          ∧ stands t { o with cursor := 2, data := bytes.take n, status := worse o.status status,
                              state := if bytes.take n = [] then .finished else .running }) ∧
      (∀ pa leaf, o.kind = .fget src dst n peer ord → 2 ≤ o.cursor → s.meet o (dst + o.progress) true false = .at_ pa leaf →
        let m := min (min (o.data.length - o.progress) 4096) (65536 - (dst + o.progress) % 65536)
        let bytes := (o.data.drop o.progress).take m
        ∃ t, run = .next t ∧ (∀ k, Memory.read t.mem k = if pa ≤ k ∧ k < pa + bytes.length then bytes.getD (k - pa) 0 else Memory.read s.mem k)
          ∧ stands t { o with progress := o.progress + m, settled := max o.settled (s.completionOf pa bytes.length),
                              state := if o.data.length ≤ o.progress + m then .finished else .running })) ∧
    ∀ r e c x pa leaf k, o.kind = .fcoll r → r.fn = 0 → o.cursor = 1 → s.convoyEntry (s.partitionOf o.ctx) r.convoy = some e →
      (s.ctxSecure o.ctx = true → s.security.keysPresent = true) → s.caravan? o.caravan = some k →
      s.collective? (s.partitionOf o.ctx * 64 + r.convoy) r.seq = some c → c.result = some x → c.sent = true → x.mismatch = false →
      x.bytes ≠ [] → r.dst % 65536 + x.bytes.length ≤ 65536 → s.meet o r.dst true false = .at_ pa leaf →
      ∃ t k', run = .next t ∧ t.caravan? o.caravan = some k'
        ∧ (∀ a, Memory.read t.mem a = if pa ≤ a ∧ a < pa + x.bytes.length then x.bytes.getD (a - pa) 0 else Memory.read s.mem a)
        ∧ (let fields := natBytes 4 0 ++ natBytes 4 (min (c.tout - c.tin) (2 ^ 32 - 1)) ++ natBytes 4 x.flags.toNat
             ++ natBytes 4 (if x.thr then 1 else 0)
           ∀ a, Memory.read k'.scratch a = if r.block + 0x28 ≤ a ∧ a < r.block + 0x38 then fields.getD (a - (r.block + 0x28)) 0
             else Memory.read k.scratch a)
        ∧ (∃ y, stands t y ∧ y.id = o.id ∧ y.state = .finished ∧ y.status = o.status ∧ y.flags = x.flags)
        ∧ ∀ y ∈ t.fabric.collectives, ¬ (y.convoy = s.partitionOf o.ctx * 64 + r.convoy ∧ y.seq = r.seq)

/-! ### The machine as a whole -/

/-- R25, R26, R31, R34 to R36, R41: words written out from the formats stand for their instructions, and words with a reserved OP, a reserved
FN, a forbidden field or too few bytes stand for none. -/
def Obligations.DecodeWords : Prop :=
  decodeWords 0b0000001_000101_000110_0_000000_000111#32 0 = .ok (.addReg 5 6 7) ∧
  decodeWords 0b0000010_000101_000110_1_111111111111#32 0 = .ok (.subImm 5 6 0xFFF) ∧
  decodeWords 0b0100001_000011_1111111111111111100#32 0 = .ok (.bz 3 0x7FFFC) ∧
  decodeWords 0b1000000_001010_0000000000000000000#32 0xDEADBEEF#32 = .ok (.sli 10 0xDEADBEEF) ∧
  decodeWords 0b1000001_000_00000011_00000100_000000#32 0b00000101_0000_0000000_000000_0111_0_00#32
    = .ok (.vaddInteger { ty := 0, vd := 3, va := 4, vb := 5, perm := 0, ppar := 0, sb := 0, pred := 7, pneg := 0, rm := 0 }) ∧
  decodeWords 0b1010001_100_00001000_001010_00_000000#32 0b01111100_00000000000001000_0010_1_00#32
    = .ok (.ld { sz := 4, vd := 8, sbase := 10, path := 0, qual := 0, vidx := 0x7C, off := 8, pred := 2, pneg := 1 }) ∧
  decodeWords 0b1001110_0011_1_00000000000000000000#32 0b0000000000001001_0000000000010000#32 = .ok (.vbr 3 1 9 16) ∧
  decodeWords 0#32 0 = .error .reservedOp ∧
  decodeWords 0b1000001_000_00000011_00000100_001011#32 0b00000101_0000_0000000_000000_0111_0_00#32 = .error .reservedFn ∧
  decodeWords 0b0000001_000101_000110_0_000001_000111#32 0 = .error .badField ∧
  decode [7, 0, 0, 0x82] = .error .truncated

/-- R25 to R41: an instruction's words decode to it, with every operand at every value the encoding admits, whatever follows them, and no other
words do: words that decode stand for a well-formed instruction whose words they are. -/
def Obligations.DecodeEncode : Prop :=
  (∀ i : Instr, i.WellFormed → ∀ rest, decode (encodeBytes i ++ rest) = .ok (i, rest)) ∧
  ∀ w0 w1 i, decodeWords w0 w1 = .ok i → i.WellFormed ∧ encode i = if wordCount w0 = 1 then [w0] else [w0, w1]

/-- What a step is. Where no agent of the agenda is to move, the warp in the issue slot runs the instruction its words decode to (R21, R45),
after which the sampler of its cluster counts it, where it runs, and the next move is another agent's if the instruction could not go on.
Words that decode to none take the trap *illegal instruction* (R23). An event of the agenda takes its place before any instruction. The
reports that a halt owes follow (R314). Whose move it is is the model's choice (assumption log 1). -/
def Obligations.StepRunsDecoded : Prop :=
  (∀ (s : State) (w : Warp), s.agenda = [] → s.others = false → s.curWarp = some w → w.phase = .issuing → w.spilledRegs = false →
    (∀ i, decodeWords w.instrWords.1 w.instrWords.2 = .ok i →
      ∃ t u : State, exec i s = .next t ∧ step s = .next u.haltReports
        ∧ u = { t with clusters := u.clusters, others := u.others }
        ∧ ((t.cluster (clusterOf w.core)).sampler.running = false → u.clusters = t.clusters)
        ∧ (u.others = true ↔ ∃ x, Tbl.find t.warps s.cur = some x ∧ x.phase = .issuing ∧ x.idx = w.idx
            ∧ x.run.map (fun r => r.header) = w.run.map fun r => r.header)
        ∧ ((∀ p ∈ u.partitions, p.2.haltReport = none) → u.haltReports = u)) ∧
    (∀ r, decodeWords w.instrWords.1 w.instrWords.2 = .error r →
      ∃ u : State, step s = .next u.haltReports ∧ u = { s.trapHere w .illegalInstruction .none with clusters := u.clusters, others := u.others })) ∧
  ∀ (s : State) (e : Instr) (rest : List Turn), s.agenda = .event e :: rest → rawOf e = none →
    ∃ t, exec e { s with agenda := rest } = .next t ∧ step s = .next t.haltReports

/-- No step of any state stops the machine: every instruction and every event answers a next state, taking the traps, the waits and the endings
the rules give it. Under the model's choice of moves (assumption log 1). -/
def Obligations.NoStepStops : Prop :=
  ∀ s : State, Safe s

/-- Memory is one map from addresses to bytes in one form: every step keeps the form, from every state, whatever it runs. -/
def Obligations.MemoryStaysCanonical : Prop :=
  ∀ s t : State, Memory.wf s.mem = true → step s = .next t → Memory.wf t.mem = true

/-- Reset: device time reads 0 (R9), FEAT_ACCEPT reads zero (R370) and nothing has started, is loaded, bound or resident. Memory, of which the
spec states no contents then, reads zero (assumption log 3), and is in its one form. -/
def Obligations.ResetState : Prop :=
  State.reset.time = 0 ∧ State.reset.featAccept = 0 ∧ State.reset.security.powered = false ∧ State.reset.security.started = false
  ∧ State.reset.security.alarm = 0 ∧ State.reset.warps = [] ∧ State.reset.caravans = [] ∧ State.reset.contexts = []
  ∧ State.reset.queues = [] ∧ (∀ a, Memory.read State.reset.mem a = 0) ∧ Memory.wf State.reset.mem = true
end

