-- ==== Sys2Proof/Laws/Dispatch.lean ====
section
/-! SUPPORT. What every instruction's meaning has in common: it runs in the one frame that checks its operands. -/

namespace Sys2Proof.Machine

/-- The meaning of an instruction with an encoding runs in the frame of `checked`. -/
theorem exec_checked (i : Instr) (r : Raw) (s : State) (h : rawOf i = some r) : ∃ k, exec i s = checked r s k := by
  cases i
  case dbgHalt f =>
    simp only [rawOf, Option.some.injEq] at h
    subst h
    by_cases hp : f.imm.getLsbD 0 = true
    · exact ⟨_, by simp only [exec, execDbgHalt, hp, if_true]; rfl⟩
    · exact ⟨_, by simp only [exec, execDbgHalt, hp]; rfl⟩
  case dbgResume f =>
    simp only [rawOf, Option.some.injEq] at h
    subst h
    by_cases hp : f.imm.getLsbD 0 = true
    · exact ⟨_, by simp only [exec, execDbgResume, hp, if_true]; rfl⟩
    · exact ⟨_, by simp only [exec, execDbgResume, hp]; rfl⟩
  all_goals first
    | (obtain rfl := Option.some.inj h; exact ⟨_, rfl⟩)
    | exact absurd h (by simp [rawOf])

/-- An instruction of a resident warp never stops the machine. -/
theorem checked_next {r : Raw} {s : State} {w : Warp} (k : Warp → State) (hw : s.curWarp = some w) :
    ∃ t, checked r s k = .next t := by
  simp only [checked, hw]
  repeat' split
  all_goals exact ⟨_, rfl⟩

end Sys2Proof.Machine
end

