-- ==== Sys2Proof/Laws/Memory.lean ====
section
/-! SUPPORT. The laws of memory: reading what was written, what a write leaves alone, and the canonical form. -/

namespace Sys2Proof.Machine

/-! ### One byte -/

theorem Memory.read_clear (m : Memory) (a b : Nat) :
    Memory.read (Memory.clear m a) b = if b = a then unlistedByte else Memory.read m b := by
  induction m with
  | nil => simp [Memory.clear, Memory.read]
  | cons p m ih =>
    obtain ⟨c, v⟩ := p
    by_cases hc : c = a
    · subst hc
      rw [Memory.clear, if_pos rfl, ih, Memory.read]
      by_cases hb : b = c
      · simp [hb]
      · simp [hb, Ne.symm hb]
    · rw [Memory.clear, if_neg hc, Memory.read, ih, Memory.read]
      by_cases hb : c = b
      · subst hb; simp [hc]
      · simp [hb]

theorem Memory.read_insert (m : Memory) (a b : Nat) (v : Byte) :
    Memory.read (Memory.insert m a v) b = if b = a then v else Memory.read m b := by
  induction m with
  | nil =>
    by_cases h : b = a
    · simp [Memory.insert, Memory.read, h]
    · simp [Memory.insert, Memory.read, h, Ne.symm h]
  | cons p m ih =>
    obtain ⟨c, u⟩ := p
    rw [Memory.insert]
    split
    · subst_vars
      by_cases h : b = c
      · simp [Memory.read, h]
      · simp [Memory.read, h, Ne.symm h]
    · split
      · by_cases h : b = a
        · simp [Memory.read, h]
        · simp [Memory.read, h, Ne.symm h]
      · rw [Memory.read, ih, Memory.read]
        by_cases h : c = b
        · subst h; simp [Ne.symm ‹¬a = c›]
        · simp [h]

theorem Memory.read_write (m : Memory) (a b : Nat) (v : Byte) :
    Memory.read (Memory.write m a v) b = if b = a then v else Memory.read m b := by
  rw [Memory.write]
  split
  · subst_vars; exact Memory.read_clear m a b
  · exact Memory.read_insert m a b v

/-! ### Byte strings -/

theorem Memory.read_writeBytes (bytes : List Byte) (m : Memory) (a b : Nat) :
    Memory.read (Memory.writeBytes m a bytes) b =
      if a ≤ b ∧ b < a + bytes.length then bytes.getD (b - a) 0 else Memory.read m b := by
  induction bytes generalizing m a with
  | nil => simp only [Memory.writeBytes, List.length_nil, Nat.add_zero]; rw [if_neg (by omega)]
  | cons x rest ih =>
    rw [Memory.writeBytes, ih, Memory.read_write]
    by_cases h1 : b = a
    · subst h1; simp
    · by_cases h2 : a + 1 ≤ b ∧ b < a + 1 + rest.length
      · rw [if_pos h2, if_pos (by simp; omega)]
        obtain ⟨k, rfl⟩ : ∃ k, b = a + 1 + k := ⟨b - (a + 1), by omega⟩
        rw [show a + 1 + k - a = k + 1 by omega]
        simp
      · rw [if_neg h2, if_neg h1, if_neg (by simp; omega)]

/-- A byte string is read back where it was written. -/
theorem Memory.readBytes_writeBytes (m : Memory) (a : Nat) (bytes : List Byte) :
    Memory.readBytes (Memory.writeBytes m a bytes) a bytes.length = bytes := by
  apply List.ext_getElem
  · simp [Memory.readBytes]
  · intro i h1 h2
    simp [Memory.readBytes, Memory.read_writeBytes, h2]

/-- A write leaves every byte outside its span alone. -/
theorem Memory.read_writeBytes_outside (m : Memory) (a b : Nat) (bytes : List Byte)
    (h : b < a ∨ a + bytes.length ≤ b) : Memory.read (Memory.writeBytes m a bytes) b = Memory.read m b := by
  rw [Memory.read_writeBytes, if_neg (by omega)]

@[simp] theorem natBytes_length (n v : Nat) : (natBytes n v).length = n := by
  induction n generalizing v with
  | zero => rfl
  | succ n ih => simp [natBytes, ih]

theorem bytesNat_natBytes (n v : Nat) : bytesNat (natBytes n v) = v % 256 ^ n := by
  induction n generalizing v with
  | zero => simp [natBytes, bytesNat, Nat.mod_one]
  | succ n ih =>
    rw [natBytes, bytesNat, ih, BitVec.toNat_ofNat, show (256 : Nat) ^ (n + 1) = 2 ^ 8 * 256 ^ n by rw [Nat.pow_succ]; ring, Nat.mod_mul]
    norm_num

/-- A value is read back where it was written, modulo its width. -/
theorem Memory.readNat_writeNat (m : Memory) (a n v : Nat) :
    Memory.readNat (Memory.writeNat m a n v) a n = v % 256 ^ n := by
  have h := Memory.readBytes_writeBytes m a (natBytes n v)
  rw [natBytes_length] at h
  rw [Memory.readNat, Memory.writeNat, h, bytesNat_natBytes]

/-! ### The canonical form -/

theorem Memory.wfFrom_some {m : Memory} {b : Nat} (h : Memory.wfFrom (some b) m = true) : Memory.wfFrom none m = true := by
  cases m with
  | nil => rfl
  | cons p m => simp_all [Memory.wfFrom]

theorem Memory.wfFrom_le {m : Memory} {b c : Nat} (h : Memory.wfFrom (some b) m = true) (hc : c ≤ b) :
    Memory.wfFrom (some c) m = true := by
  cases m with
  | nil => rfl
  | cons p m =>
    simp only [Memory.wfFrom, Bool.and_eq_true, decide_eq_true_eq] at h ⊢
    exact ⟨⟨by omega, h.1.2⟩, h.2⟩

theorem Memory.wfFrom_clear {m : Memory} {lo : Option Nat} (a : Nat) (h : Memory.wfFrom lo m = true) :
    Memory.wfFrom lo (Memory.clear m a) = true := by
  induction m generalizing lo with
  | nil => rfl
  | cons p m ih =>
    obtain ⟨c, v⟩ := p
    simp only [Memory.wfFrom, Bool.and_eq_true] at h
    rw [Memory.clear]
    split
    · have h2 := ih h.2
      cases lo with
      | none => exact Memory.wfFrom_some h2
      | some b => exact Memory.wfFrom_le h2 (by have := h.1.1; simp at this; omega)
    · simp only [Memory.wfFrom, Bool.and_eq_true]
      exact ⟨h.1, ih h.2⟩

theorem Memory.wfFrom_insert {m : Memory} {lo : Option Nat} {a : Nat} {v : Byte} (hv : v ≠ unlistedByte)
    (hlo : ∀ b, lo = some b → b < a) (h : Memory.wfFrom lo m = true) :
    Memory.wfFrom lo (Memory.insert m a v) = true := by
  induction m generalizing lo with
  | nil => cases lo <;> simp_all [Memory.insert, Memory.wfFrom]
  | cons p m ih =>
    obtain ⟨c, u⟩ := p
    simp only [Memory.wfFrom, Bool.and_eq_true, decide_eq_true_eq] at h
    rw [Memory.insert]
    split
    · subst_vars
      simp only [Memory.wfFrom, Bool.and_eq_true, decide_eq_true_eq]
      exact ⟨⟨h.1.1, hv⟩, h.2⟩
    · split
      · simp only [Memory.wfFrom, Bool.and_eq_true, decide_eq_true_eq]
        refine ⟨⟨?_, hv⟩, ⟨‹a < c›, h.1.2⟩, h.2⟩
        cases lo with
        | none => rfl
        | some b => simpa using hlo b rfl
      · simp only [Memory.wfFrom, Bool.and_eq_true, decide_eq_true_eq]
        refine ⟨h.1, ih ?_ h.2⟩
        intro b hb
        cases hb
        omega

theorem Memory.wf_write {m : Memory} (h : Memory.wf m = true) (a : Nat) (v : Byte) :
    Memory.wf (Memory.write m a v) = true := by
  rw [Memory.write]
  split
  · exact Memory.wfFrom_clear a h
  · exact Memory.wfFrom_insert ‹_› (by simp) h

theorem Memory.wf_writeBytes {m : Memory} (h : Memory.wf m = true) (a : Nat) (bytes : List Byte) :
    Memory.wf (Memory.writeBytes m a bytes) = true := by
  induction bytes generalizing m a with
  | nil => exact h
  | cons b rest ih => exact ih (Memory.wf_write h a b) (a + 1)

theorem Memory.wf_writeNat {m : Memory} (h : Memory.wf m = true) (a n v : Nat) :
    Memory.wf (Memory.writeNat m a n v) = true := Memory.wf_writeBytes h a _

theorem Memory.wf_nil : Memory.wf [] = true := rfl

end Sys2Proof.Machine
end

