-- ==== Sys2Proof/Laws/State.lean ====
section
/-! SUPPORT. What each update of the state leaves and what it changes, field by field. -/

namespace Sys2Proof.Machine

/-! ### `State.setWarp` -/

@[simp] theorem State.setWarp_time (s : State) (id : Nat) (w : Warp) : (s.setWarp id w).time = s.time := rfl
@[simp] theorem State.setWarp_agenda (s : State) (id : Nat) (w : Warp) : (s.setWarp id w).agenda = s.agenda := rfl
@[simp] theorem State.setWarp_rr (s : State) (id : Nat) (w : Warp) : (s.setWarp id w).rr = s.rr := rfl
@[simp] theorem State.setWarp_others (s : State) (id : Nat) (w : Warp) : (s.setWarp id w).others = s.others := rfl
@[simp] theorem State.setWarp_cur (s : State) (id : Nat) (w : Warp) : (s.setWarp id w).cur = s.cur := rfl
@[simp] theorem State.setWarp_nextId (s : State) (id : Nat) (w : Warp) : (s.setWarp id w).nextId = s.nextId := rfl
@[simp] theorem State.setWarp_nextCaravan (s : State) (id : Nat) (w : Warp) : (s.setWarp id w).nextCaravan = s.nextCaravan := rfl
@[simp] theorem State.setWarp_mem (s : State) (id : Nat) (w : Warp) : (s.setWarp id w).mem = s.mem := rfl
@[simp] theorem State.setWarp_lineE (s : State) (id : Nat) (w : Warp) : (s.setWarp id w).lineE = s.lineE := rfl
@[simp] theorem State.setWarp_evx (s : State) (id : Nat) (w : Warp) : (s.setWarp id w).evx = s.evx := rfl
@[simp] theorem State.setWarp_owed (s : State) (id : Nat) (w : Warp) : (s.setWarp id w).owed = s.owed := rfl
@[simp] theorem State.setWarp_tagv (s : State) (id : Nat) (w : Warp) : (s.setWarp id w).tagv = s.tagv := rfl
@[simp] theorem State.setWarp_warps (s : State) (id : Nat) (w : Warp) : (s.setWarp id w).warps = Tbl.put s.warps id w := rfl
@[simp] theorem State.setWarp_caravans (s : State) (id : Nat) (w : Warp) : (s.setWarp id w).caravans = s.caravans := rfl
@[simp] theorem State.setWarp_cores (s : State) (id : Nat) (w : Warp) : (s.setWarp id w).cores = s.cores := rfl
@[simp] theorem State.setWarp_clusters (s : State) (id : Nat) (w : Warp) : (s.setWarp id w).clusters = s.clusters := rfl
@[simp] theorem State.setWarp_dies (s : State) (id : Nat) (w : Warp) : (s.setWarp id w).dies = s.dies := rfl
@[simp] theorem State.setWarp_contexts (s : State) (id : Nat) (w : Warp) : (s.setWarp id w).contexts = s.contexts := rfl
@[simp] theorem State.setWarp_partitions (s : State) (id : Nat) (w : Warp) : (s.setWarp id w).partitions = s.partitions := rfl
@[simp] theorem State.setWarp_objects (s : State) (id : Nat) (w : Warp) : (s.setWarp id w).objects = s.objects := rfl
@[simp] theorem State.setWarp_loader (s : State) (id : Nat) (w : Warp) : (s.setWarp id w).loader = s.loader := rfl
@[simp] theorem State.setWarp_queues (s : State) (id : Nat) (w : Warp) : (s.setWarp id w).queues = s.queues := rfl
@[simp] theorem State.setWarp_arbiter (s : State) (id : Nat) (w : Warp) : (s.setWarp id w).arbiter = s.arbiter := rfl
@[simp] theorem State.setWarp_launches (s : State) (id : Nat) (w : Warp) : (s.setWarp id w).launches = s.launches := rfl
@[simp] theorem State.setWarp_taskQueues (s : State) (id : Nat) (w : Warp) : (s.setWarp id w).taskQueues = s.taskQueues := rfl
@[simp] theorem State.setWarp_fabric (s : State) (id : Nat) (w : Warp) : (s.setWarp id w).fabric = s.fabric := rfl
@[simp] theorem State.setWarp_security (s : State) (id : Nat) (w : Warp) : (s.setWarp id w).security = s.security := rfl
@[simp] theorem State.setWarp_featAccept (s : State) (id : Nat) (w : Warp) : (s.setWarp id w).featAccept = s.featAccept := rfl
@[simp] theorem State.setWarp_featOffer (s : State) (id : Nat) (w : Warp) : (s.setWarp id w).featOffer = s.featOffer := rfl
@[simp] theorem State.setWarp_violations (s : State) (id : Nat) (w : Warp) : (s.setWarp id w).violations = s.violations := rfl
@[simp] theorem State.setWarp_lastHeadroom (s : State) (id : Nat) (w : Warp) : (s.setWarp id w).lastHeadroom = s.lastHeadroom := rfl
@[simp] theorem State.setWarp_dropped (s : State) (id : Nat) (w : Warp) : (s.setWarp id w).dropped = s.dropped := rfl

/-! ### `State.setCaravan` -/

@[simp] theorem State.setCaravan_time (s : State) (id : Nat) (c : Caravan) : (s.setCaravan id c).time = s.time := rfl
@[simp] theorem State.setCaravan_agenda (s : State) (id : Nat) (c : Caravan) : (s.setCaravan id c).agenda = s.agenda := rfl
@[simp] theorem State.setCaravan_rr (s : State) (id : Nat) (c : Caravan) : (s.setCaravan id c).rr = s.rr := rfl
@[simp] theorem State.setCaravan_others (s : State) (id : Nat) (c : Caravan) : (s.setCaravan id c).others = s.others := rfl
@[simp] theorem State.setCaravan_cur (s : State) (id : Nat) (c : Caravan) : (s.setCaravan id c).cur = s.cur := rfl
@[simp] theorem State.setCaravan_nextId (s : State) (id : Nat) (c : Caravan) : (s.setCaravan id c).nextId = s.nextId := rfl
@[simp] theorem State.setCaravan_nextCaravan (s : State) (id : Nat) (c : Caravan) : (s.setCaravan id c).nextCaravan = s.nextCaravan := rfl
@[simp] theorem State.setCaravan_mem (s : State) (id : Nat) (c : Caravan) : (s.setCaravan id c).mem = s.mem := rfl
@[simp] theorem State.setCaravan_lineE (s : State) (id : Nat) (c : Caravan) : (s.setCaravan id c).lineE = s.lineE := rfl
@[simp] theorem State.setCaravan_evx (s : State) (id : Nat) (c : Caravan) : (s.setCaravan id c).evx = s.evx := rfl
@[simp] theorem State.setCaravan_owed (s : State) (id : Nat) (c : Caravan) : (s.setCaravan id c).owed = s.owed := rfl
@[simp] theorem State.setCaravan_tagv (s : State) (id : Nat) (c : Caravan) : (s.setCaravan id c).tagv = s.tagv := rfl
@[simp] theorem State.setCaravan_warps (s : State) (id : Nat) (c : Caravan) : (s.setCaravan id c).warps = s.warps := rfl
@[simp] theorem State.setCaravan_caravans (s : State) (id : Nat) (c : Caravan) : (s.setCaravan id c).caravans = Tbl.put s.caravans id c := rfl
@[simp] theorem State.setCaravan_cores (s : State) (id : Nat) (c : Caravan) : (s.setCaravan id c).cores = s.cores := rfl
@[simp] theorem State.setCaravan_clusters (s : State) (id : Nat) (c : Caravan) : (s.setCaravan id c).clusters = s.clusters := rfl
@[simp] theorem State.setCaravan_dies (s : State) (id : Nat) (c : Caravan) : (s.setCaravan id c).dies = s.dies := rfl
@[simp] theorem State.setCaravan_contexts (s : State) (id : Nat) (c : Caravan) : (s.setCaravan id c).contexts = s.contexts := rfl
@[simp] theorem State.setCaravan_partitions (s : State) (id : Nat) (c : Caravan) : (s.setCaravan id c).partitions = s.partitions := rfl
@[simp] theorem State.setCaravan_objects (s : State) (id : Nat) (c : Caravan) : (s.setCaravan id c).objects = s.objects := rfl
@[simp] theorem State.setCaravan_loader (s : State) (id : Nat) (c : Caravan) : (s.setCaravan id c).loader = s.loader := rfl
@[simp] theorem State.setCaravan_queues (s : State) (id : Nat) (c : Caravan) : (s.setCaravan id c).queues = s.queues := rfl
@[simp] theorem State.setCaravan_arbiter (s : State) (id : Nat) (c : Caravan) : (s.setCaravan id c).arbiter = s.arbiter := rfl
@[simp] theorem State.setCaravan_launches (s : State) (id : Nat) (c : Caravan) : (s.setCaravan id c).launches = s.launches := rfl
@[simp] theorem State.setCaravan_taskQueues (s : State) (id : Nat) (c : Caravan) : (s.setCaravan id c).taskQueues = s.taskQueues := rfl
@[simp] theorem State.setCaravan_fabric (s : State) (id : Nat) (c : Caravan) : (s.setCaravan id c).fabric = s.fabric := rfl
@[simp] theorem State.setCaravan_security (s : State) (id : Nat) (c : Caravan) : (s.setCaravan id c).security = s.security := rfl
@[simp] theorem State.setCaravan_featAccept (s : State) (id : Nat) (c : Caravan) : (s.setCaravan id c).featAccept = s.featAccept := rfl
@[simp] theorem State.setCaravan_featOffer (s : State) (id : Nat) (c : Caravan) : (s.setCaravan id c).featOffer = s.featOffer := rfl
@[simp] theorem State.setCaravan_violations (s : State) (id : Nat) (c : Caravan) : (s.setCaravan id c).violations = s.violations := rfl
@[simp] theorem State.setCaravan_lastHeadroom (s : State) (id : Nat) (c : Caravan) : (s.setCaravan id c).lastHeadroom = s.lastHeadroom := rfl
@[simp] theorem State.setCaravan_dropped (s : State) (id : Nat) (c : Caravan) : (s.setCaravan id c).dropped = s.dropped := rfl

/-! ### `State.setCore` -/

@[simp] theorem State.setCore_time (s : State) (k : Nat) (c : Core) : (s.setCore k c).time = s.time := rfl
@[simp] theorem State.setCore_agenda (s : State) (k : Nat) (c : Core) : (s.setCore k c).agenda = s.agenda := rfl
@[simp] theorem State.setCore_rr (s : State) (k : Nat) (c : Core) : (s.setCore k c).rr = s.rr := rfl
@[simp] theorem State.setCore_others (s : State) (k : Nat) (c : Core) : (s.setCore k c).others = s.others := rfl
@[simp] theorem State.setCore_cur (s : State) (k : Nat) (c : Core) : (s.setCore k c).cur = s.cur := rfl
@[simp] theorem State.setCore_nextId (s : State) (k : Nat) (c : Core) : (s.setCore k c).nextId = s.nextId := rfl
@[simp] theorem State.setCore_nextCaravan (s : State) (k : Nat) (c : Core) : (s.setCore k c).nextCaravan = s.nextCaravan := rfl
@[simp] theorem State.setCore_mem (s : State) (k : Nat) (c : Core) : (s.setCore k c).mem = s.mem := rfl
@[simp] theorem State.setCore_lineE (s : State) (k : Nat) (c : Core) : (s.setCore k c).lineE = s.lineE := rfl
@[simp] theorem State.setCore_evx (s : State) (k : Nat) (c : Core) : (s.setCore k c).evx = s.evx := rfl
@[simp] theorem State.setCore_owed (s : State) (k : Nat) (c : Core) : (s.setCore k c).owed = s.owed := rfl
@[simp] theorem State.setCore_tagv (s : State) (k : Nat) (c : Core) : (s.setCore k c).tagv = s.tagv := rfl
@[simp] theorem State.setCore_warps (s : State) (k : Nat) (c : Core) : (s.setCore k c).warps = s.warps := rfl
@[simp] theorem State.setCore_caravans (s : State) (k : Nat) (c : Core) : (s.setCore k c).caravans = s.caravans := rfl
@[simp] theorem State.setCore_cores (s : State) (k : Nat) (c : Core) : (s.setCore k c).cores = Tbl.put s.cores k c := rfl
@[simp] theorem State.setCore_clusters (s : State) (k : Nat) (c : Core) : (s.setCore k c).clusters = s.clusters := rfl
@[simp] theorem State.setCore_dies (s : State) (k : Nat) (c : Core) : (s.setCore k c).dies = s.dies := rfl
@[simp] theorem State.setCore_contexts (s : State) (k : Nat) (c : Core) : (s.setCore k c).contexts = s.contexts := rfl
@[simp] theorem State.setCore_partitions (s : State) (k : Nat) (c : Core) : (s.setCore k c).partitions = s.partitions := rfl
@[simp] theorem State.setCore_objects (s : State) (k : Nat) (c : Core) : (s.setCore k c).objects = s.objects := rfl
@[simp] theorem State.setCore_loader (s : State) (k : Nat) (c : Core) : (s.setCore k c).loader = s.loader := rfl
@[simp] theorem State.setCore_queues (s : State) (k : Nat) (c : Core) : (s.setCore k c).queues = s.queues := rfl
@[simp] theorem State.setCore_arbiter (s : State) (k : Nat) (c : Core) : (s.setCore k c).arbiter = s.arbiter := rfl
@[simp] theorem State.setCore_launches (s : State) (k : Nat) (c : Core) : (s.setCore k c).launches = s.launches := rfl
@[simp] theorem State.setCore_taskQueues (s : State) (k : Nat) (c : Core) : (s.setCore k c).taskQueues = s.taskQueues := rfl
@[simp] theorem State.setCore_fabric (s : State) (k : Nat) (c : Core) : (s.setCore k c).fabric = s.fabric := rfl
@[simp] theorem State.setCore_security (s : State) (k : Nat) (c : Core) : (s.setCore k c).security = s.security := rfl
@[simp] theorem State.setCore_featAccept (s : State) (k : Nat) (c : Core) : (s.setCore k c).featAccept = s.featAccept := rfl
@[simp] theorem State.setCore_featOffer (s : State) (k : Nat) (c : Core) : (s.setCore k c).featOffer = s.featOffer := rfl
@[simp] theorem State.setCore_violations (s : State) (k : Nat) (c : Core) : (s.setCore k c).violations = s.violations := rfl
@[simp] theorem State.setCore_lastHeadroom (s : State) (k : Nat) (c : Core) : (s.setCore k c).lastHeadroom = s.lastHeadroom := rfl
@[simp] theorem State.setCore_dropped (s : State) (k : Nat) (c : Core) : (s.setCore k c).dropped = s.dropped := rfl

/-! ### `State.setCluster` -/

@[simp] theorem State.setCluster_time (s : State) (k : Nat) (c : Cluster) : (s.setCluster k c).time = s.time := rfl
@[simp] theorem State.setCluster_agenda (s : State) (k : Nat) (c : Cluster) : (s.setCluster k c).agenda = s.agenda := rfl
@[simp] theorem State.setCluster_rr (s : State) (k : Nat) (c : Cluster) : (s.setCluster k c).rr = s.rr := rfl
@[simp] theorem State.setCluster_others (s : State) (k : Nat) (c : Cluster) : (s.setCluster k c).others = s.others := rfl
@[simp] theorem State.setCluster_cur (s : State) (k : Nat) (c : Cluster) : (s.setCluster k c).cur = s.cur := rfl
@[simp] theorem State.setCluster_nextId (s : State) (k : Nat) (c : Cluster) : (s.setCluster k c).nextId = s.nextId := rfl
@[simp] theorem State.setCluster_nextCaravan (s : State) (k : Nat) (c : Cluster) : (s.setCluster k c).nextCaravan = s.nextCaravan := rfl
@[simp] theorem State.setCluster_mem (s : State) (k : Nat) (c : Cluster) : (s.setCluster k c).mem = s.mem := rfl
@[simp] theorem State.setCluster_lineE (s : State) (k : Nat) (c : Cluster) : (s.setCluster k c).lineE = s.lineE := rfl
@[simp] theorem State.setCluster_evx (s : State) (k : Nat) (c : Cluster) : (s.setCluster k c).evx = s.evx := rfl
@[simp] theorem State.setCluster_owed (s : State) (k : Nat) (c : Cluster) : (s.setCluster k c).owed = s.owed := rfl
@[simp] theorem State.setCluster_tagv (s : State) (k : Nat) (c : Cluster) : (s.setCluster k c).tagv = s.tagv := rfl
@[simp] theorem State.setCluster_warps (s : State) (k : Nat) (c : Cluster) : (s.setCluster k c).warps = s.warps := rfl
@[simp] theorem State.setCluster_caravans (s : State) (k : Nat) (c : Cluster) : (s.setCluster k c).caravans = s.caravans := rfl
@[simp] theorem State.setCluster_cores (s : State) (k : Nat) (c : Cluster) : (s.setCluster k c).cores = s.cores := rfl
@[simp] theorem State.setCluster_clusters (s : State) (k : Nat) (c : Cluster) : (s.setCluster k c).clusters = Tbl.put s.clusters k c := rfl
@[simp] theorem State.setCluster_dies (s : State) (k : Nat) (c : Cluster) : (s.setCluster k c).dies = s.dies := rfl
@[simp] theorem State.setCluster_contexts (s : State) (k : Nat) (c : Cluster) : (s.setCluster k c).contexts = s.contexts := rfl
@[simp] theorem State.setCluster_partitions (s : State) (k : Nat) (c : Cluster) : (s.setCluster k c).partitions = s.partitions := rfl
@[simp] theorem State.setCluster_objects (s : State) (k : Nat) (c : Cluster) : (s.setCluster k c).objects = s.objects := rfl
@[simp] theorem State.setCluster_loader (s : State) (k : Nat) (c : Cluster) : (s.setCluster k c).loader = s.loader := rfl
@[simp] theorem State.setCluster_queues (s : State) (k : Nat) (c : Cluster) : (s.setCluster k c).queues = s.queues := rfl
@[simp] theorem State.setCluster_arbiter (s : State) (k : Nat) (c : Cluster) : (s.setCluster k c).arbiter = s.arbiter := rfl
@[simp] theorem State.setCluster_launches (s : State) (k : Nat) (c : Cluster) : (s.setCluster k c).launches = s.launches := rfl
@[simp] theorem State.setCluster_taskQueues (s : State) (k : Nat) (c : Cluster) : (s.setCluster k c).taskQueues = s.taskQueues := rfl
@[simp] theorem State.setCluster_fabric (s : State) (k : Nat) (c : Cluster) : (s.setCluster k c).fabric = s.fabric := rfl
@[simp] theorem State.setCluster_security (s : State) (k : Nat) (c : Cluster) : (s.setCluster k c).security = s.security := rfl
@[simp] theorem State.setCluster_featAccept (s : State) (k : Nat) (c : Cluster) : (s.setCluster k c).featAccept = s.featAccept := rfl
@[simp] theorem State.setCluster_featOffer (s : State) (k : Nat) (c : Cluster) : (s.setCluster k c).featOffer = s.featOffer := rfl
@[simp] theorem State.setCluster_violations (s : State) (k : Nat) (c : Cluster) : (s.setCluster k c).violations = s.violations := rfl
@[simp] theorem State.setCluster_lastHeadroom (s : State) (k : Nat) (c : Cluster) : (s.setCluster k c).lastHeadroom = s.lastHeadroom := rfl
@[simp] theorem State.setCluster_dropped (s : State) (k : Nat) (c : Cluster) : (s.setCluster k c).dropped = s.dropped := rfl

/-! ### `State.setDie` -/

@[simp] theorem State.setDie_time (s : State) (k : Nat) (d : Die) : (s.setDie k d).time = s.time := rfl
@[simp] theorem State.setDie_agenda (s : State) (k : Nat) (d : Die) : (s.setDie k d).agenda = s.agenda := rfl
@[simp] theorem State.setDie_rr (s : State) (k : Nat) (d : Die) : (s.setDie k d).rr = s.rr := rfl
@[simp] theorem State.setDie_others (s : State) (k : Nat) (d : Die) : (s.setDie k d).others = s.others := rfl
@[simp] theorem State.setDie_cur (s : State) (k : Nat) (d : Die) : (s.setDie k d).cur = s.cur := rfl
@[simp] theorem State.setDie_nextId (s : State) (k : Nat) (d : Die) : (s.setDie k d).nextId = s.nextId := rfl
@[simp] theorem State.setDie_nextCaravan (s : State) (k : Nat) (d : Die) : (s.setDie k d).nextCaravan = s.nextCaravan := rfl
@[simp] theorem State.setDie_mem (s : State) (k : Nat) (d : Die) : (s.setDie k d).mem = s.mem := rfl
@[simp] theorem State.setDie_lineE (s : State) (k : Nat) (d : Die) : (s.setDie k d).lineE = s.lineE := rfl
@[simp] theorem State.setDie_evx (s : State) (k : Nat) (d : Die) : (s.setDie k d).evx = s.evx := rfl
@[simp] theorem State.setDie_owed (s : State) (k : Nat) (d : Die) : (s.setDie k d).owed = s.owed := rfl
@[simp] theorem State.setDie_tagv (s : State) (k : Nat) (d : Die) : (s.setDie k d).tagv = s.tagv := rfl
@[simp] theorem State.setDie_warps (s : State) (k : Nat) (d : Die) : (s.setDie k d).warps = s.warps := rfl
@[simp] theorem State.setDie_caravans (s : State) (k : Nat) (d : Die) : (s.setDie k d).caravans = s.caravans := rfl
@[simp] theorem State.setDie_cores (s : State) (k : Nat) (d : Die) : (s.setDie k d).cores = s.cores := rfl
@[simp] theorem State.setDie_clusters (s : State) (k : Nat) (d : Die) : (s.setDie k d).clusters = s.clusters := rfl
@[simp] theorem State.setDie_dies (s : State) (k : Nat) (d : Die) : (s.setDie k d).dies = Tbl.put s.dies k d := rfl
@[simp] theorem State.setDie_contexts (s : State) (k : Nat) (d : Die) : (s.setDie k d).contexts = s.contexts := rfl
@[simp] theorem State.setDie_partitions (s : State) (k : Nat) (d : Die) : (s.setDie k d).partitions = s.partitions := rfl
@[simp] theorem State.setDie_objects (s : State) (k : Nat) (d : Die) : (s.setDie k d).objects = s.objects := rfl
@[simp] theorem State.setDie_loader (s : State) (k : Nat) (d : Die) : (s.setDie k d).loader = s.loader := rfl
@[simp] theorem State.setDie_queues (s : State) (k : Nat) (d : Die) : (s.setDie k d).queues = s.queues := rfl
@[simp] theorem State.setDie_arbiter (s : State) (k : Nat) (d : Die) : (s.setDie k d).arbiter = s.arbiter := rfl
@[simp] theorem State.setDie_launches (s : State) (k : Nat) (d : Die) : (s.setDie k d).launches = s.launches := rfl
@[simp] theorem State.setDie_taskQueues (s : State) (k : Nat) (d : Die) : (s.setDie k d).taskQueues = s.taskQueues := rfl
@[simp] theorem State.setDie_fabric (s : State) (k : Nat) (d : Die) : (s.setDie k d).fabric = s.fabric := rfl
@[simp] theorem State.setDie_security (s : State) (k : Nat) (d : Die) : (s.setDie k d).security = s.security := rfl
@[simp] theorem State.setDie_featAccept (s : State) (k : Nat) (d : Die) : (s.setDie k d).featAccept = s.featAccept := rfl
@[simp] theorem State.setDie_featOffer (s : State) (k : Nat) (d : Die) : (s.setDie k d).featOffer = s.featOffer := rfl
@[simp] theorem State.setDie_violations (s : State) (k : Nat) (d : Die) : (s.setDie k d).violations = s.violations := rfl
@[simp] theorem State.setDie_lastHeadroom (s : State) (k : Nat) (d : Die) : (s.setDie k d).lastHeadroom = s.lastHeadroom := rfl
@[simp] theorem State.setDie_dropped (s : State) (k : Nat) (d : Die) : (s.setDie k d).dropped = s.dropped := rfl

/-! ### `State.setContext` -/

@[simp] theorem State.setContext_time (s : State) (k : Nat) (c : Context) : (s.setContext k c).time = s.time := rfl
@[simp] theorem State.setContext_agenda (s : State) (k : Nat) (c : Context) : (s.setContext k c).agenda = s.agenda := rfl
@[simp] theorem State.setContext_rr (s : State) (k : Nat) (c : Context) : (s.setContext k c).rr = s.rr := rfl
@[simp] theorem State.setContext_others (s : State) (k : Nat) (c : Context) : (s.setContext k c).others = s.others := rfl
@[simp] theorem State.setContext_cur (s : State) (k : Nat) (c : Context) : (s.setContext k c).cur = s.cur := rfl
@[simp] theorem State.setContext_nextId (s : State) (k : Nat) (c : Context) : (s.setContext k c).nextId = s.nextId := rfl
@[simp] theorem State.setContext_nextCaravan (s : State) (k : Nat) (c : Context) : (s.setContext k c).nextCaravan = s.nextCaravan := rfl
@[simp] theorem State.setContext_mem (s : State) (k : Nat) (c : Context) : (s.setContext k c).mem = s.mem := rfl
@[simp] theorem State.setContext_lineE (s : State) (k : Nat) (c : Context) : (s.setContext k c).lineE = s.lineE := rfl
@[simp] theorem State.setContext_evx (s : State) (k : Nat) (c : Context) : (s.setContext k c).evx = s.evx := rfl
@[simp] theorem State.setContext_owed (s : State) (k : Nat) (c : Context) : (s.setContext k c).owed = s.owed := rfl
@[simp] theorem State.setContext_tagv (s : State) (k : Nat) (c : Context) : (s.setContext k c).tagv = s.tagv := rfl
@[simp] theorem State.setContext_warps (s : State) (k : Nat) (c : Context) : (s.setContext k c).warps = s.warps := rfl
@[simp] theorem State.setContext_caravans (s : State) (k : Nat) (c : Context) : (s.setContext k c).caravans = s.caravans := rfl
@[simp] theorem State.setContext_cores (s : State) (k : Nat) (c : Context) : (s.setContext k c).cores = s.cores := rfl
@[simp] theorem State.setContext_clusters (s : State) (k : Nat) (c : Context) : (s.setContext k c).clusters = s.clusters := rfl
@[simp] theorem State.setContext_dies (s : State) (k : Nat) (c : Context) : (s.setContext k c).dies = s.dies := rfl
@[simp] theorem State.setContext_contexts (s : State) (k : Nat) (c : Context) : (s.setContext k c).contexts = Tbl.put s.contexts k c := rfl
@[simp] theorem State.setContext_partitions (s : State) (k : Nat) (c : Context) : (s.setContext k c).partitions = s.partitions := rfl
@[simp] theorem State.setContext_objects (s : State) (k : Nat) (c : Context) : (s.setContext k c).objects = s.objects := rfl
@[simp] theorem State.setContext_loader (s : State) (k : Nat) (c : Context) : (s.setContext k c).loader = s.loader := rfl
@[simp] theorem State.setContext_queues (s : State) (k : Nat) (c : Context) : (s.setContext k c).queues = s.queues := rfl
@[simp] theorem State.setContext_arbiter (s : State) (k : Nat) (c : Context) : (s.setContext k c).arbiter = s.arbiter := rfl
@[simp] theorem State.setContext_launches (s : State) (k : Nat) (c : Context) : (s.setContext k c).launches = s.launches := rfl
@[simp] theorem State.setContext_taskQueues (s : State) (k : Nat) (c : Context) : (s.setContext k c).taskQueues = s.taskQueues := rfl
@[simp] theorem State.setContext_fabric (s : State) (k : Nat) (c : Context) : (s.setContext k c).fabric = s.fabric := rfl
@[simp] theorem State.setContext_security (s : State) (k : Nat) (c : Context) : (s.setContext k c).security = s.security := rfl
@[simp] theorem State.setContext_featAccept (s : State) (k : Nat) (c : Context) : (s.setContext k c).featAccept = s.featAccept := rfl
@[simp] theorem State.setContext_featOffer (s : State) (k : Nat) (c : Context) : (s.setContext k c).featOffer = s.featOffer := rfl
@[simp] theorem State.setContext_violations (s : State) (k : Nat) (c : Context) : (s.setContext k c).violations = s.violations := rfl
@[simp] theorem State.setContext_lastHeadroom (s : State) (k : Nat) (c : Context) : (s.setContext k c).lastHeadroom = s.lastHeadroom := rfl
@[simp] theorem State.setContext_dropped (s : State) (k : Nat) (c : Context) : (s.setContext k c).dropped = s.dropped := rfl

/-! ### `State.setHostQueue` -/

@[simp] theorem State.setHostQueue_time (s : State) (q : Nat) (h : HostQueue) : (s.setHostQueue q h).time = s.time := rfl
@[simp] theorem State.setHostQueue_agenda (s : State) (q : Nat) (h : HostQueue) : (s.setHostQueue q h).agenda = s.agenda := rfl
@[simp] theorem State.setHostQueue_rr (s : State) (q : Nat) (h : HostQueue) : (s.setHostQueue q h).rr = s.rr := rfl
@[simp] theorem State.setHostQueue_others (s : State) (q : Nat) (h : HostQueue) : (s.setHostQueue q h).others = s.others := rfl
@[simp] theorem State.setHostQueue_cur (s : State) (q : Nat) (h : HostQueue) : (s.setHostQueue q h).cur = s.cur := rfl
@[simp] theorem State.setHostQueue_nextId (s : State) (q : Nat) (h : HostQueue) : (s.setHostQueue q h).nextId = s.nextId := rfl
@[simp] theorem State.setHostQueue_nextCaravan (s : State) (q : Nat) (h : HostQueue) : (s.setHostQueue q h).nextCaravan = s.nextCaravan := rfl
@[simp] theorem State.setHostQueue_mem (s : State) (q : Nat) (h : HostQueue) : (s.setHostQueue q h).mem = s.mem := rfl
@[simp] theorem State.setHostQueue_lineE (s : State) (q : Nat) (h : HostQueue) : (s.setHostQueue q h).lineE = s.lineE := rfl
@[simp] theorem State.setHostQueue_evx (s : State) (q : Nat) (h : HostQueue) : (s.setHostQueue q h).evx = s.evx := rfl
@[simp] theorem State.setHostQueue_owed (s : State) (q : Nat) (h : HostQueue) : (s.setHostQueue q h).owed = s.owed := rfl
@[simp] theorem State.setHostQueue_tagv (s : State) (q : Nat) (h : HostQueue) : (s.setHostQueue q h).tagv = s.tagv := rfl
@[simp] theorem State.setHostQueue_warps (s : State) (q : Nat) (h : HostQueue) : (s.setHostQueue q h).warps = s.warps := rfl
@[simp] theorem State.setHostQueue_caravans (s : State) (q : Nat) (h : HostQueue) : (s.setHostQueue q h).caravans = s.caravans := rfl
@[simp] theorem State.setHostQueue_cores (s : State) (q : Nat) (h : HostQueue) : (s.setHostQueue q h).cores = s.cores := rfl
@[simp] theorem State.setHostQueue_clusters (s : State) (q : Nat) (h : HostQueue) : (s.setHostQueue q h).clusters = s.clusters := rfl
@[simp] theorem State.setHostQueue_dies (s : State) (q : Nat) (h : HostQueue) : (s.setHostQueue q h).dies = s.dies := rfl
@[simp] theorem State.setHostQueue_contexts (s : State) (q : Nat) (h : HostQueue) : (s.setHostQueue q h).contexts = s.contexts := rfl
@[simp] theorem State.setHostQueue_partitions (s : State) (q : Nat) (h : HostQueue) : (s.setHostQueue q h).partitions = s.partitions := rfl
@[simp] theorem State.setHostQueue_objects (s : State) (q : Nat) (h : HostQueue) : (s.setHostQueue q h).objects = s.objects := rfl
@[simp] theorem State.setHostQueue_loader (s : State) (q : Nat) (h : HostQueue) : (s.setHostQueue q h).loader = s.loader := rfl
@[simp] theorem State.setHostQueue_queues (s : State) (q : Nat) (h : HostQueue) : (s.setHostQueue q h).queues = Tbl.put s.queues q h := rfl
@[simp] theorem State.setHostQueue_arbiter (s : State) (q : Nat) (h : HostQueue) : (s.setHostQueue q h).arbiter = s.arbiter := rfl
@[simp] theorem State.setHostQueue_launches (s : State) (q : Nat) (h : HostQueue) : (s.setHostQueue q h).launches = s.launches := rfl
@[simp] theorem State.setHostQueue_taskQueues (s : State) (q : Nat) (h : HostQueue) : (s.setHostQueue q h).taskQueues = s.taskQueues := rfl
@[simp] theorem State.setHostQueue_fabric (s : State) (q : Nat) (h : HostQueue) : (s.setHostQueue q h).fabric = s.fabric := rfl
@[simp] theorem State.setHostQueue_security (s : State) (q : Nat) (h : HostQueue) : (s.setHostQueue q h).security = s.security := rfl
@[simp] theorem State.setHostQueue_featAccept (s : State) (q : Nat) (h : HostQueue) : (s.setHostQueue q h).featAccept = s.featAccept := rfl
@[simp] theorem State.setHostQueue_featOffer (s : State) (q : Nat) (h : HostQueue) : (s.setHostQueue q h).featOffer = s.featOffer := rfl
@[simp] theorem State.setHostQueue_violations (s : State) (q : Nat) (h : HostQueue) : (s.setHostQueue q h).violations = s.violations := rfl
@[simp] theorem State.setHostQueue_lastHeadroom (s : State) (q : Nat) (h : HostQueue) : (s.setHostQueue q h).lastHeadroom = s.lastHeadroom := rfl
@[simp] theorem State.setHostQueue_dropped (s : State) (q : Nat) (h : HostQueue) : (s.setHostQueue q h).dropped = s.dropped := rfl

/-! ### Updates through a table -/

@[simp] theorem State.updCore_eq (s : State) (k : Nat) (f : Core → Core) : s.updCore k f = s.setCore k (f (s.core k)) := rfl
@[simp] theorem State.updCluster_eq (s : State) (k : Nat) (f : Cluster → Cluster) :
    s.updCluster k f = s.setCluster k (f (s.cluster k)) := rfl
@[simp] theorem State.updDie_eq (s : State) (k : Nat) (f : Die → Die) : s.updDie k f = s.setDie k (f (s.die k)) := rfl
@[simp] theorem State.updHostQueue_eq (s : State) (q : Nat) (f : HostQueue → HostQueue) :
    s.updHostQueue q f = s.setHostQueue q (f (s.hostQueue q)) := rfl

theorem State.updWarp_some (s : State) (id : Nat) (w : Warp) (f : Warp → Warp) (h : s.warp? id = some w) :
    s.updWarp id f = s.setWarp id (f w) := by
  simp [State.updWarp, h]

theorem State.updCaravan_some (s : State) (id : Nat) (c : Caravan) (f : Caravan → Caravan) (h : s.caravan? id = some c) :
    s.updCaravan id f = s.setCaravan id (f c) := by
  simp [State.updCaravan, h]

end Sys2Proof.Machine
end

