-- ==== Sys2Proof/Laws/Tables.lean ====
section
/-! SUPPORT. The laws of sparse tables and of lists read and written by index. -/

namespace Sys2Proof.Machine

/-! ### Tables -/

@[simp] theorem Tbl.find_put_same (t : Tbl α) (k : Nat) (x : α) : Tbl.find (Tbl.put t k x) k = some x := by
  induction t with
  | nil => simp [Tbl.put, Tbl.find]
  | cons p t ih =>
    obtain ⟨j, y⟩ := p
    by_cases h : j = k <;> simp [Tbl.put, Tbl.find, h, ih]

theorem Tbl.find_put_other (t : Tbl α) (k j : Nat) (x : α) (h : j ≠ k) :
    Tbl.find (Tbl.put t k x) j = Tbl.find t j := by
  induction t with
  | nil => simp [Tbl.put, Tbl.find, Ne.symm h]
  | cons p t ih =>
    obtain ⟨i, y⟩ := p
    by_cases hi : i = k
    · subst hi; simp [Tbl.put, Tbl.find, Ne.symm h]
    · by_cases hj : i = j
      · subst hj; simp [Tbl.put, Tbl.find, hi]
      · simp [Tbl.put, Tbl.find, hi, hj, ih]

theorem Tbl.find_put (t : Tbl α) (k j : Nat) (x : α) :
    Tbl.find (Tbl.put t k x) j = if j = k then some x else Tbl.find t j := by
  split
  · subst_vars; simp
  · exact Tbl.find_put_other t k j x ‹_›

@[simp] theorem Tbl.put_put (t : Tbl α) (k : Nat) (x y : α) : Tbl.put (Tbl.put t k x) k y = Tbl.put t k y := by
  induction t with
  | nil => simp [Tbl.put]
  | cons p t ih =>
    obtain ⟨i, z⟩ := p
    by_cases h : i = k <;> simp [Tbl.put, h, ih]

/-- Putting back what is there changes nothing. -/
theorem Tbl.put_found {t : Tbl α} {k : Nat} {x : α} (h : Tbl.find t k = some x) : Tbl.put t k x = t := by
  induction t with
  | nil => simp [Tbl.find] at h
  | cons p t ih =>
    obtain ⟨j, y⟩ := p
    by_cases hj : j = k
    · subst hj; simp [Tbl.find] at h; simp [Tbl.put, h]
    · simp [Tbl.find, hj] at h; simp [Tbl.put, hj, ih h]

@[simp] theorem Tbl.find_erase_same (t : Tbl α) (k : Nat) : Tbl.find (Tbl.erase t k) k = none := by
  induction t with
  | nil => rfl
  | cons p t ih =>
    obtain ⟨i, z⟩ := p
    by_cases h : i = k <;> simp [Tbl.erase, Tbl.find, h, ih]

theorem Tbl.find_erase_other (t : Tbl α) (k j : Nat) (h : j ≠ k) : Tbl.find (Tbl.erase t k) j = Tbl.find t j := by
  induction t with
  | nil => rfl
  | cons p t ih =>
    obtain ⟨i, z⟩ := p
    by_cases hi : i = k
    · subst hi; simp [Tbl.erase, Tbl.find, Ne.symm h, ih]
    · by_cases hj : i = j
      · subst hj; simp [Tbl.erase, Tbl.find, hi]
      · simp [Tbl.erase, Tbl.find, hi, hj, ih]

@[simp] theorem Tbl.findD_put_same (t : Tbl α) (k : Nat) (x d : α) : Tbl.findD (Tbl.put t k x) k d = x := by
  simp [Tbl.findD]

theorem Tbl.findD_put_other (t : Tbl α) (k j : Nat) (x d : α) (h : j ≠ k) :
    Tbl.findD (Tbl.put t k x) j d = Tbl.findD t j d := by
  simp [Tbl.findD, Tbl.find_put_other t k j x h]

/-- A table whose every entry changes keeps its numbers. -/
theorem Tbl.find_map (t : Tbl α) (f : α → β) (k : Nat) :
    Tbl.find (t.map fun p => (p.1, f p.2)) k = (Tbl.find t k).map f := by
  induction t with
  | nil => rfl
  | cons p t ih =>
    obtain ⟨i, z⟩ := p
    by_cases h : i = k <;> simp [Tbl.find, h]
    simpa using ih

/-! ### Lists by index -/

@[simp] theorem listGet_nil (d : α) (n : Nat) : listGet d [] n = d := by simp [listGet]

@[simp] theorem listGet_put_same (d : α) (l : List α) (n : Nat) (x : α) : listGet d (listPut d l n x) n = x := by
  induction l, n using listPut.induct (α := α) with
  | case1 => simp [listPut, listGet]
  | case2 n ih => simpa [listPut, listGet] using ih
  | case3 y rest => simp [listPut, listGet]
  | case4 y rest n ih => simpa [listPut, listGet] using ih

theorem listGet_put_other (d : α) (l : List α) (n m : Nat) (x : α) (h : m ≠ n) :
    listGet d (listPut d l n x) m = listGet d l m := by
  induction l, n using listPut.induct (α := α) generalizing m with
  | case1 => cases m <;> simp_all [listPut, listGet]
  | case2 n ih => cases m <;> simp_all [listPut, listGet]
  | case3 y rest => cases m <;> simp_all [listPut, listGet]
  | case4 y rest n ih => cases m <;> simp_all [listPut, listGet]

theorem listGet_put (d : α) (l : List α) (n m : Nat) (x : α) :
    listGet d (listPut d l n x) m = if m = n then x else listGet d l m := by
  split
  · subst_vars; simp
  · exact listGet_put_other d l n m x ‹_›

theorem lane_lanesOf (f : Nat → Word) (t : Nat) (h : t < 96) : lane (lanesOf f) t = f t := by
  simp [lane, lanesOf, listGet, h]

theorem lane_mergeable (old : Lanes) (take : BitVec 96) (f : Nat → Word) (t : Nat) (h : t < 96) :
    lane (lanesOf fun t => if take.getLsbD t then f t else lane old t) t = if take.getLsbD t then f t else lane old t :=
  lane_lanesOf _ t h

/-! ### Masks -/

theorem mem_threadsOf (m : BitVec 96) (t : Nat) : t ∈ threadsOf m ↔ t < 96 ∧ m.getLsbD t = true := by
  simp [threadsOf]

theorem sumBits_testBit (f : Nat → Bool) (n : Nat) :
    (List.range n).foldl (fun acc t => acc + if f t then 2 ^ t else 0) 0 < 2 ^ n ∧
    ∀ t, t < n → ((List.range n).foldl (fun acc t => acc + if f t then 2 ^ t else 0) 0).testBit t = f t := by
  induction n with
  | zero => simp
  | succ n ih =>
    obtain ⟨hlt, hbit⟩ := ih
    simp only [List.range_succ, List.foldl_append, List.foldl_cons, List.foldl_nil]
    generalize hx : (List.range n).foldl (fun acc t => acc + if f t then 2 ^ t else 0) 0 = x at hlt hbit ⊢
    refine ⟨?_, fun t ht => ?_⟩
    · split <;> rw [Nat.pow_succ] <;> omega
    · by_cases hn : t = n
      · subst hn
        by_cases hf : f t
        · simp only [hf, if_true]
          rw [Nat.add_comm, Nat.testBit_two_pow_add_eq, Nat.testBit_lt_two_pow hlt]; rfl
        · simp only [hf]
          simpa using Nat.testBit_lt_two_pow hlt
      · have : t < n := by omega
        split
        · rw [Nat.add_comm, Nat.testBit_two_pow_add_gt this, hbit t this]
        · simpa using hbit t this

theorem getLsbD_maskOf (f : Nat → Bool) (t : Nat) (h : t < 96) : (maskOf f).getLsbD t = f t := by
  rw [maskOf, BitVec.getLsbD_ofNat, (sumBits_testBit f 96).2 t h]
  simp [h]

end Sys2Proof.Machine
end

