-- ==== Sys2Proof/Laws/Ops.lean ====
section
/-! SUPPORT. What the named operations on a warp and on the current warp of a state do. -/

namespace Sys2Proof.Machine

/-! ### Leaving a run and going on to the next instruction -/

@[simp] theorem Warp.leaveRun_ctx (w : Warp) (off : Nat) : (w.leaveRun off).ctx = w.ctx := rfl
@[simp] theorem Warp.leaveRun_core (w : Warp) (off : Nat) : (w.leaveRun off).core = w.core := rfl
@[simp] theorem Warp.leaveRun_caravan (w : Warp) (off : Nat) : (w.leaveRun off).caravan = w.caravan := rfl
@[simp] theorem Warp.leaveRun_pass (w : Warp) (off : Nat) : (w.leaveRun off).pass = w.pass := rfl
@[simp] theorem Warp.leaveRun_ordinal (w : Warp) (off : Nat) : (w.leaveRun off).ordinal = w.ordinal := rfl
@[simp] theorem Warp.leaveRun_sched (w : Warp) (off : Nat) : (w.leaveRun off).sched = w.sched := rfl
@[simp] theorem Warp.leaveRun_widx (w : Warp) (off : Nat) : (w.leaveRun off).widx = w.widx := rfl
@[simp] theorem Warp.leaveRun_frame (w : Warp) (off : Nat) : (w.leaveRun off).frame = w.frame := rfl
@[simp] theorem Warp.leaveRun_scalars (w : Warp) (off : Nat) : (w.leaveRun off).scalars = w.scalars := rfl
@[simp] theorem Warp.leaveRun_vregs (w : Warp) (off : Nat) : (w.leaveRun off).vregs = w.vregs := rfl
@[simp] theorem Warp.leaveRun_temps (w : Warp) (off : Nat) : (w.leaveRun off).temps = [] := rfl
@[simp] theorem Warp.leaveRun_preds (w : Warp) (off : Nat) : (w.leaveRun off).preds = w.preds := rfl
@[simp] theorem Warp.leaveRun_quota (w : Warp) (off : Nat) : (w.leaveRun off).quota = w.quota := rfl
@[simp] theorem Warp.leaveRun_flags (w : Warp) (off : Nat) : (w.leaveRun off).flags = w.flags := rfl
@[simp] theorem Warp.leaveRun_fpctl (w : Warp) (off : Nat) : (w.leaveRun off).fpctl = w.fpctl := rfl
@[simp] theorem Warp.leaveRun_tcause (w : Warp) (off : Nat) : (w.leaveRun off).tcause = w.tcause := rfl
@[simp] theorem Warp.leaveRun_trun (w : Warp) (off : Nat) : (w.leaveRun off).trun = w.trun := rfl
@[simp] theorem Warp.leaveRun_tidx (w : Warp) (off : Nat) : (w.leaveRun off).tidx = w.tidx := rfl
@[simp] theorem Warp.leaveRun_tinfo (w : Warp) (off : Nat) : (w.leaveRun off).tinfo = w.tinfo := rfl
@[simp] theorem Warp.leaveRun_tvec (w : Warp) (off : Nat) : (w.leaveRun off).tvec = w.tvec := rfl
@[simp] theorem Warp.leaveRun_progress (w : Warp) (off : Nat) : (w.leaveRun off).progress = w.progress := rfl
@[simp] theorem Warp.leaveRun_stepState (w : Warp) (off : Nat) : (w.leaveRun off).stepState = w.stepState := rfl
@[simp] theorem Warp.leaveRun_wmax (w : Warp) (off : Nat) : (w.leaveRun off).wmax = w.wmax := rfl
@[simp] theorem Warp.leaveRun_horizon (w : Warp) (off : Nat) : (w.leaveRun off).horizon = w.horizon := rfl
@[simp] theorem Warp.leaveRun_wmaxLatch (w : Warp) (off : Nat) : (w.leaveRun off).wmaxLatch = w.wmaxLatch := rfl
@[simp] theorem Warp.leaveRun_horizonLatch (w : Warp) (off : Nat) : (w.leaveRun off).horizonLatch = w.horizonLatch := rfl
@[simp] theorem Warp.leaveRun_baseLatch (w : Warp) (off : Nat) : (w.leaveRun off).baseLatch = w.baseLatch := rfl
@[simp] theorem Warp.leaveRun_readLow (w : Warp) (off : Nat) : (w.leaveRun off).readLow = 0 := rfl
@[simp] theorem Warp.leaveRun_readLowHeld (w : Warp) (off : Nat) : (w.leaveRun off).readLowHeld = w.readLowHeld := rfl
@[simp] theorem Warp.leaveRun_operands (w : Warp) (off : Nat) : (w.leaveRun off).operands = none := rfl
@[simp] theorem Warp.leaveRun_trapMask (w : Warp) (off : Nat) : (w.leaveRun off).trapMask = w.trapMask := rfl
@[simp] theorem Warp.leaveRun_handlerActive (w : Warp) (off : Nat) : (w.leaveRun off).handlerActive = w.handlerActive := rfl
@[simp] theorem Warp.leaveRun_timerPending (w : Warp) (off : Nat) : (w.leaveRun off).timerPending = w.timerPending := rfl
@[simp] theorem Warp.leaveRun_watchPending (w : Warp) (off : Nat) : (w.leaveRun off).watchPending = w.watchPending := rfl
@[simp] theorem Warp.leaveRun_timer (w : Warp) (off : Nat) : (w.leaveRun off).timer = w.timer := rfl
@[simp] theorem Warp.leaveRun_tblSel (w : Warp) (off : Nat) : (w.leaveRun off).tblSel = w.tblSel := rfl
@[simp] theorem Warp.leaveRun_stack (w : Warp) (off : Nat) : (w.leaveRun off).stack = w.stack := rfl
@[simp] theorem Warp.leaveRun_spilled (w : Warp) (off : Nat) : (w.leaveRun off).spilled = w.spilled := rfl
@[simp] theorem Warp.leaveRun_next (w : Warp) (off : Nat) : (w.leaveRun off).next = off := rfl
@[simp] theorem Warp.leaveRun_resume (w : Warp) (off : Nat) : (w.leaveRun off).resume = none := rfl
@[simp] theorem Warp.leaveRun_run (w : Warp) (off : Nat) : (w.leaveRun off).run = none := rfl
@[simp] theorem Warp.leaveRun_idx (w : Warp) (off : Nat) : (w.leaveRun off).idx = 0 := rfl
@[simp] theorem Warp.leaveRun_pos (w : Warp) (off : Nat) : (w.leaveRun off).pos = 1 := rfl
@[simp] theorem Warp.leaveRun_target (w : Warp) (off : Nat) : (w.leaveRun off).target = w.target := rfl
@[simp] theorem Warp.leaveRun_remainder (w : Warp) (off : Nat) : (w.leaveRun off).remainder = false := rfl
@[simp] theorem Warp.leaveRun_wroteTemps (w : Warp) (off : Nat) : (w.leaveRun off).wroteTemps = 0 := rfl
@[simp] theorem Warp.leaveRun_phase (w : Warp) (off : Nat) : (w.leaveRun off).phase = .fetch := rfl
@[simp] theorem Warp.leaveRun_active (w : Warp) (off : Nat) : (w.leaveRun off).active = w.active := rfl
@[simp] theorem Warp.leaveRun_aging (w : Warp) (off : Nat) : (w.leaveRun off).aging = w.aging := rfl
@[simp] theorem Warp.leaveRun_eligibleAt (w : Warp) (off : Nat) : (w.leaveRun off).eligibleAt = w.eligibleAt := rfl
@[simp] theorem Warp.leaveRun_yielded (w : Warp) (off : Nat) : (w.leaveRun off).yielded = w.yielded := rfl
@[simp] theorem Warp.leaveRun_spilledRegs (w : Warp) (off : Nat) : (w.leaveRun off).spilledRegs = w.spilledRegs := rfl
@[simp] theorem Warp.leaveRun_loads (w : Warp) (off : Nat) : (w.leaveRun off).loads = w.loads.map PendingLoad.forget := rfl
@[simp] theorem Warp.leaveRun_stores (w : Warp) (off : Nat) : (w.leaveRun off).stores = w.stores := rfl
@[simp] theorem Warp.leaveRun_watches (w : Warp) (off : Nat) : (w.leaveRun off).watches = w.watches := rfl
@[simp] theorem Warp.leaveRun_batch (w : Warp) (off : Nat) : (w.leaveRun off).batch = w.batch := rfl
@[simp] theorem Warp.leaveRun_openAll (w : Warp) (off : Nat) : (w.leaveRun off).openAll = w.openAll := rfl
@[simp] theorem Warp.leaveRun_openOps (w : Warp) (off : Nat) : (w.leaveRun off).openOps = w.openOps := rfl
@[simp] theorem Warp.leaveRun_openFlags (w : Warp) (off : Nat) : (w.leaveRun off).openFlags = w.openFlags := rfl
@[simp] theorem Warp.leaveRun_batches (w : Warp) (off : Nat) : (w.leaveRun off).batches = w.batches := rfl
@[simp] theorem Warp.leaveRun_records (w : Warp) (off : Nat) : (w.leaveRun off).records = w.records := rfl
@[simp] theorem Warp.leaveRun_overrun (w : Warp) (off : Nat) : (w.leaveRun off).overrun = w.overrun := rfl
@[simp] theorem Warp.leaveRun_lostOps (w : Warp) (off : Nat) : (w.leaveRun off).lostOps = w.lostOps := rfl
@[simp] theorem Warp.leaveRun_inFlight (w : Warp) (off : Nat) : (w.leaveRun off).inFlight = w.inFlight := rfl
@[simp] theorem Warp.leaveRun_children (w : Warp) (off : Nat) : (w.leaveRun off).children = w.children := rfl
@[simp] theorem Warp.leaveRun_recChildren (w : Warp) (off : Nat) : (w.leaveRun off).recChildren = w.recChildren := rfl
@[simp] theorem Warp.leaveRun_puts (w : Warp) (off : Nat) : (w.leaveRun off).puts = w.puts := rfl
@[simp] theorem Warp.leaveRun_arrival (w : Warp) (off : Nat) : (w.leaveRun off).arrival = w.arrival := rfl
@[simp] theorem Warp.leaveRun_debugHalted (w : Warp) (off : Nat) : (w.leaveRun off).debugHalted = w.debugHalted := rfl
@[simp] theorem Warp.leaveRun_haltPending (w : Warp) (off : Nat) : (w.leaveRun off).haltPending = w.haltPending := rfl
@[simp] theorem Warp.leaveRun_skipBreak (w : Warp) (off : Nat) : (w.leaveRun off).skipBreak = false := rfl
@[simp] theorem Warp.leaveRun_step (w : Warp) (off : Nat) : (w.leaveRun off).step = w.step := rfl
@[simp] theorem Warp.leaveRun_stepRuns (w : Warp) (off : Nat) : (w.leaveRun off).stepRuns = w.stepRuns := rfl
@[simp] theorem Warp.leaveRun_watchHits (w : Warp) (off : Nat) : (w.leaveRun off).watchHits = w.watchHits := rfl
@[simp] theorem Warp.leaveRun_trace (w : Warp) (off : Nat) : (w.leaveRun off).trace = w.trace.map TraceState.atBoundary := rfl
@[simp] theorem Warp.leaveRun_lastOrd (w : Warp) (off : Nat) : (w.leaveRun off).lastOrd = w.lastOrd := rfl
@[simp] theorem Warp.leaveRun_deferred (w : Warp) (off : Nat) : (w.leaveRun off).deferred = w.deferred := rfl
@[simp] theorem Warp.leaveRun_wasDeferred (w : Warp) (off : Nat) : (w.leaveRun off).wasDeferred = w.wasDeferred := rfl
@[simp] theorem Warp.leaveRun_stoppedOp (w : Warp) (off : Nat) : (w.leaveRun off).stoppedOp = w.stoppedOp := rfl
@[simp] theorem Warp.leaveRun_stopWait (w : Warp) (off : Nat) : (w.leaveRun off).stopWait = w.stopWait := rfl
@[simp] theorem Warp.leaveRun_redirected (w : Warp) (off : Nat) : (w.leaveRun off).redirected = w.redirected := rfl
@[simp] theorem Warp.leaveRun_slotDone (w : Warp) (off : Nat) : (w.leaveRun off).slotDone = w.slotDone := rfl
@[simp] theorem Warp.leaveRun_bornCycle (w : Warp) (off : Nat) : (w.leaveRun off).bornCycle = w.bornCycle := rfl
@[simp] theorem Warp.leaveRun_issuedAt (w : Warp) (off : Nat) : (w.leaveRun off).issuedAt = w.issuedAt := rfl

@[simp] theorem Warp.advance_ctx (w : Warp) : w.advance.ctx = w.ctx := by
  unfold Warp.advance; split <;> rfl
@[simp] theorem Warp.advance_core (w : Warp) : w.advance.core = w.core := by
  unfold Warp.advance; split <;> rfl
@[simp] theorem Warp.advance_caravan (w : Warp) : w.advance.caravan = w.caravan := by
  unfold Warp.advance; split <;> rfl
@[simp] theorem Warp.advance_pass (w : Warp) : w.advance.pass = w.pass := by
  unfold Warp.advance; split <;> rfl
@[simp] theorem Warp.advance_ordinal (w : Warp) : w.advance.ordinal = w.ordinal := by
  unfold Warp.advance; split <;> rfl
@[simp] theorem Warp.advance_sched (w : Warp) : w.advance.sched = w.sched := by
  unfold Warp.advance; split <;> rfl
@[simp] theorem Warp.advance_widx (w : Warp) : w.advance.widx = w.widx := by
  unfold Warp.advance; split <;> rfl
@[simp] theorem Warp.advance_frame (w : Warp) : w.advance.frame = w.frame := by
  unfold Warp.advance; split <;> rfl
@[simp] theorem Warp.advance_scalars (w : Warp) : w.advance.scalars = w.scalars := by
  unfold Warp.advance; split <;> rfl
@[simp] theorem Warp.advance_vregs (w : Warp) : w.advance.vregs = w.vregs := by
  unfold Warp.advance; split <;> rfl
@[simp] theorem Warp.advance_preds (w : Warp) : w.advance.preds = w.preds := by
  unfold Warp.advance; split <;> rfl
@[simp] theorem Warp.advance_quota (w : Warp) : w.advance.quota = w.quota := by
  unfold Warp.advance; split <;> rfl
@[simp] theorem Warp.advance_flags (w : Warp) : w.advance.flags = w.flags := by
  unfold Warp.advance; split <;> rfl
@[simp] theorem Warp.advance_fpctl (w : Warp) : w.advance.fpctl = w.fpctl := by
  unfold Warp.advance; split <;> rfl
@[simp] theorem Warp.advance_tcause (w : Warp) : w.advance.tcause = w.tcause := by
  unfold Warp.advance; split <;> rfl
@[simp] theorem Warp.advance_trun (w : Warp) : w.advance.trun = w.trun := by
  unfold Warp.advance; split <;> rfl
@[simp] theorem Warp.advance_tidx (w : Warp) : w.advance.tidx = w.tidx := by
  unfold Warp.advance; split <;> rfl
@[simp] theorem Warp.advance_tinfo (w : Warp) : w.advance.tinfo = w.tinfo := by
  unfold Warp.advance; split <;> rfl
@[simp] theorem Warp.advance_tvec (w : Warp) : w.advance.tvec = w.tvec := by
  unfold Warp.advance; split <;> rfl
@[simp] theorem Warp.advance_progress (w : Warp) : w.advance.progress = w.progress := by
  unfold Warp.advance; split <;> rfl
@[simp] theorem Warp.advance_stepState (w : Warp) : w.advance.stepState = w.stepState := by
  unfold Warp.advance; split <;> rfl
@[simp] theorem Warp.advance_wmax (w : Warp) : w.advance.wmax = w.wmax := by
  unfold Warp.advance; split <;> rfl
@[simp] theorem Warp.advance_horizon (w : Warp) : w.advance.horizon = w.horizon := by
  unfold Warp.advance; split <;> rfl
@[simp] theorem Warp.advance_trapMask (w : Warp) : w.advance.trapMask = w.trapMask := by
  unfold Warp.advance; split <;> rfl
@[simp] theorem Warp.advance_handlerActive (w : Warp) : w.advance.handlerActive = w.handlerActive := by
  unfold Warp.advance; split <;> rfl
@[simp] theorem Warp.advance_timerPending (w : Warp) : w.advance.timerPending = w.timerPending := by
  unfold Warp.advance; split <;> rfl
@[simp] theorem Warp.advance_watchPending (w : Warp) : w.advance.watchPending = w.watchPending := by
  unfold Warp.advance; split <;> rfl
@[simp] theorem Warp.advance_timer (w : Warp) : w.advance.timer = w.timer := by
  unfold Warp.advance; split <;> rfl
@[simp] theorem Warp.advance_tblSel (w : Warp) : w.advance.tblSel = w.tblSel := by
  unfold Warp.advance; split <;> rfl
@[simp] theorem Warp.advance_stack (w : Warp) : w.advance.stack = w.stack := by
  unfold Warp.advance; split <;> rfl
@[simp] theorem Warp.advance_spilled (w : Warp) : w.advance.spilled = w.spilled := by
  unfold Warp.advance; split <;> rfl
@[simp] theorem Warp.advance_target (w : Warp) : w.advance.target = w.target := by
  unfold Warp.advance; split <;> rfl
@[simp] theorem Warp.advance_active (w : Warp) : w.advance.active = w.active := by
  unfold Warp.advance; split <;> rfl
@[simp] theorem Warp.advance_aging (w : Warp) : w.advance.aging = w.aging := by
  unfold Warp.advance; split <;> rfl
@[simp] theorem Warp.advance_eligibleAt (w : Warp) : w.advance.eligibleAt = w.eligibleAt := by
  unfold Warp.advance; split <;> rfl
@[simp] theorem Warp.advance_yielded (w : Warp) : w.advance.yielded = w.yielded := by
  unfold Warp.advance; split <;> rfl
@[simp] theorem Warp.advance_spilledRegs (w : Warp) : w.advance.spilledRegs = w.spilledRegs := by
  unfold Warp.advance; split <;> rfl
@[simp] theorem Warp.advance_stores (w : Warp) : w.advance.stores = w.stores := by
  unfold Warp.advance; split <;> rfl
@[simp] theorem Warp.advance_watches (w : Warp) : w.advance.watches = w.watches := by
  unfold Warp.advance; split <;> rfl
@[simp] theorem Warp.advance_batch (w : Warp) : w.advance.batch = w.batch := by
  unfold Warp.advance; split <;> rfl
@[simp] theorem Warp.advance_openAll (w : Warp) : w.advance.openAll = w.openAll := by
  unfold Warp.advance; split <;> rfl
@[simp] theorem Warp.advance_openOps (w : Warp) : w.advance.openOps = w.openOps := by
  unfold Warp.advance; split <;> rfl
@[simp] theorem Warp.advance_openFlags (w : Warp) : w.advance.openFlags = w.openFlags := by
  unfold Warp.advance; split <;> rfl
@[simp] theorem Warp.advance_batches (w : Warp) : w.advance.batches = w.batches := by
  unfold Warp.advance; split <;> rfl
@[simp] theorem Warp.advance_records (w : Warp) : w.advance.records = w.records := by
  unfold Warp.advance; split <;> rfl
@[simp] theorem Warp.advance_overrun (w : Warp) : w.advance.overrun = w.overrun := by
  unfold Warp.advance; split <;> rfl
@[simp] theorem Warp.advance_lostOps (w : Warp) : w.advance.lostOps = w.lostOps := by
  unfold Warp.advance; split <;> rfl
@[simp] theorem Warp.advance_inFlight (w : Warp) : w.advance.inFlight = w.inFlight := by
  unfold Warp.advance; split <;> rfl
@[simp] theorem Warp.advance_children (w : Warp) : w.advance.children = w.children := by
  unfold Warp.advance; split <;> rfl
@[simp] theorem Warp.advance_recChildren (w : Warp) : w.advance.recChildren = w.recChildren := by
  unfold Warp.advance; split <;> rfl
@[simp] theorem Warp.advance_puts (w : Warp) : w.advance.puts = w.puts := by
  unfold Warp.advance; split <;> rfl
@[simp] theorem Warp.advance_arrival (w : Warp) : w.advance.arrival = w.arrival := by
  unfold Warp.advance; split <;> rfl
@[simp] theorem Warp.advance_debugHalted (w : Warp) : w.advance.debugHalted = w.debugHalted := by
  unfold Warp.advance; split <;> rfl
@[simp] theorem Warp.advance_haltPending (w : Warp) : w.advance.haltPending = w.haltPending := by
  unfold Warp.advance; split <;> rfl
@[simp] theorem Warp.advance_step (w : Warp) : w.advance.step = w.step := by
  unfold Warp.advance; split <;> rfl
@[simp] theorem Warp.advance_stepRuns (w : Warp) : w.advance.stepRuns = w.stepRuns := by
  unfold Warp.advance; split <;> rfl
@[simp] theorem Warp.advance_watchHits (w : Warp) : w.advance.watchHits = w.watchHits := by
  unfold Warp.advance; split <;> rfl
@[simp] theorem Warp.advance_lastOrd (w : Warp) : w.advance.lastOrd = w.lastOrd := by
  unfold Warp.advance; split <;> rfl
@[simp] theorem Warp.advance_deferred (w : Warp) : w.advance.deferred = w.deferred := by
  unfold Warp.advance; split <;> rfl
@[simp] theorem Warp.advance_wasDeferred (w : Warp) : w.advance.wasDeferred = w.wasDeferred := by
  unfold Warp.advance; split <;> rfl
@[simp] theorem Warp.advance_stoppedOp (w : Warp) : w.advance.stoppedOp = w.stoppedOp := by
  unfold Warp.advance; split <;> rfl
@[simp] theorem Warp.advance_stopWait (w : Warp) : w.advance.stopWait = w.stopWait := by
  unfold Warp.advance; split <;> rfl
@[simp] theorem Warp.advance_redirected (w : Warp) : w.advance.redirected = w.redirected := by
  unfold Warp.advance; split <;> rfl
@[simp] theorem Warp.advance_slotDone (w : Warp) : w.advance.slotDone = w.slotDone := by
  unfold Warp.advance; split <;> rfl
@[simp] theorem Warp.advance_wmaxLatch (w : Warp) : w.advance.wmaxLatch = w.wmaxLatch := by
  unfold Warp.advance; split <;> rfl
@[simp] theorem Warp.advance_horizonLatch (w : Warp) : w.advance.horizonLatch = w.horizonLatch := by
  unfold Warp.advance; split <;> rfl
@[simp] theorem Warp.advance_baseLatch (w : Warp) : w.advance.baseLatch = w.baseLatch := by
  unfold Warp.advance; split <;> rfl
@[simp] theorem Warp.advance_readLowHeld (w : Warp) : w.advance.readLowHeld = w.readLowHeld := by
  unfold Warp.advance; split <;> rfl
@[simp] theorem Warp.advance_bornCycle (w : Warp) : w.advance.bornCycle = w.bornCycle := by
  unfold Warp.advance; split <;> rfl
@[simp] theorem Warp.advance_issuedAt (w : Warp) : w.advance.issuedAt = w.issuedAt := by
  unfold Warp.advance; split <;> rfl

/-! ### Scalar writes (R50) -/

@[simp] theorem Warp.setS_ctx (w : Warp) (r : BitVec 6) (v : Word) : (w.setS r v).ctx = w.ctx := by
  unfold Warp.setS; split <;> [rfl; (split <;> rfl)]
@[simp] theorem Warp.setS_core (w : Warp) (r : BitVec 6) (v : Word) : (w.setS r v).core = w.core := by
  unfold Warp.setS; split <;> [rfl; (split <;> rfl)]
@[simp] theorem Warp.setS_caravan (w : Warp) (r : BitVec 6) (v : Word) : (w.setS r v).caravan = w.caravan := by
  unfold Warp.setS; split <;> [rfl; (split <;> rfl)]
@[simp] theorem Warp.setS_pass (w : Warp) (r : BitVec 6) (v : Word) : (w.setS r v).pass = w.pass := by
  unfold Warp.setS; split <;> [rfl; (split <;> rfl)]
@[simp] theorem Warp.setS_ordinal (w : Warp) (r : BitVec 6) (v : Word) : (w.setS r v).ordinal = w.ordinal := by
  unfold Warp.setS; split <;> [rfl; (split <;> rfl)]
@[simp] theorem Warp.setS_sched (w : Warp) (r : BitVec 6) (v : Word) : (w.setS r v).sched = w.sched := by
  unfold Warp.setS; split <;> [rfl; (split <;> rfl)]
@[simp] theorem Warp.setS_widx (w : Warp) (r : BitVec 6) (v : Word) : (w.setS r v).widx = w.widx := by
  unfold Warp.setS; split <;> [rfl; (split <;> rfl)]
@[simp] theorem Warp.setS_frame (w : Warp) (r : BitVec 6) (v : Word) : (w.setS r v).frame = w.frame := by
  unfold Warp.setS; split <;> [rfl; (split <;> rfl)]
@[simp] theorem Warp.setS_vregs (w : Warp) (r : BitVec 6) (v : Word) : (w.setS r v).vregs = w.vregs := by
  unfold Warp.setS; split <;> [rfl; (split <;> rfl)]
@[simp] theorem Warp.setS_temps (w : Warp) (r : BitVec 6) (v : Word) : (w.setS r v).temps = w.temps := by
  unfold Warp.setS; split <;> [rfl; (split <;> rfl)]
@[simp] theorem Warp.setS_preds (w : Warp) (r : BitVec 6) (v : Word) : (w.setS r v).preds = w.preds := by
  unfold Warp.setS; split <;> [rfl; (split <;> rfl)]
@[simp] theorem Warp.setS_quota (w : Warp) (r : BitVec 6) (v : Word) : (w.setS r v).quota = w.quota := by
  unfold Warp.setS; split <;> [rfl; (split <;> rfl)]
@[simp] theorem Warp.setS_flags (w : Warp) (r : BitVec 6) (v : Word) : (w.setS r v).flags = w.flags := by
  unfold Warp.setS; split <;> [rfl; (split <;> rfl)]
@[simp] theorem Warp.setS_fpctl (w : Warp) (r : BitVec 6) (v : Word) : (w.setS r v).fpctl = w.fpctl := by
  unfold Warp.setS; split <;> [rfl; (split <;> rfl)]
@[simp] theorem Warp.setS_tcause (w : Warp) (r : BitVec 6) (v : Word) : (w.setS r v).tcause = w.tcause := by
  unfold Warp.setS; split <;> [rfl; (split <;> rfl)]
@[simp] theorem Warp.setS_trun (w : Warp) (r : BitVec 6) (v : Word) : (w.setS r v).trun = w.trun := by
  unfold Warp.setS; split <;> [rfl; (split <;> rfl)]
@[simp] theorem Warp.setS_tidx (w : Warp) (r : BitVec 6) (v : Word) : (w.setS r v).tidx = w.tidx := by
  unfold Warp.setS; split <;> [rfl; (split <;> rfl)]
@[simp] theorem Warp.setS_tvec (w : Warp) (r : BitVec 6) (v : Word) : (w.setS r v).tvec = w.tvec := by
  unfold Warp.setS; split <;> [rfl; (split <;> rfl)]
@[simp] theorem Warp.setS_progress (w : Warp) (r : BitVec 6) (v : Word) : (w.setS r v).progress = w.progress := by
  unfold Warp.setS; split <;> [rfl; (split <;> rfl)]
@[simp] theorem Warp.setS_stepState (w : Warp) (r : BitVec 6) (v : Word) : (w.setS r v).stepState = w.stepState := by
  unfold Warp.setS; split <;> [rfl; (split <;> rfl)]
@[simp] theorem Warp.setS_wmax (w : Warp) (r : BitVec 6) (v : Word) : (w.setS r v).wmax = w.wmax := by
  unfold Warp.setS; split <;> [rfl; (split <;> rfl)]
@[simp] theorem Warp.setS_horizon (w : Warp) (r : BitVec 6) (v : Word) : (w.setS r v).horizon = w.horizon := by
  unfold Warp.setS; split <;> [rfl; (split <;> rfl)]
@[simp] theorem Warp.setS_wmaxLatch (w : Warp) (r : BitVec 6) (v : Word) : (w.setS r v).wmaxLatch = w.wmaxLatch := by
  unfold Warp.setS; split <;> [rfl; (split <;> rfl)]
@[simp] theorem Warp.setS_horizonLatch (w : Warp) (r : BitVec 6) (v : Word) : (w.setS r v).horizonLatch = w.horizonLatch := by
  unfold Warp.setS; split <;> [rfl; (split <;> rfl)]
@[simp] theorem Warp.setS_baseLatch (w : Warp) (r : BitVec 6) (v : Word) : (w.setS r v).baseLatch = w.baseLatch := by
  unfold Warp.setS; split <;> [rfl; (split <;> rfl)]
@[simp] theorem Warp.setS_trapMask (w : Warp) (r : BitVec 6) (v : Word) : (w.setS r v).trapMask = w.trapMask := by
  unfold Warp.setS; split <;> [rfl; (split <;> rfl)]
@[simp] theorem Warp.setS_handlerActive (w : Warp) (r : BitVec 6) (v : Word) : (w.setS r v).handlerActive = w.handlerActive := by
  unfold Warp.setS; split <;> [rfl; (split <;> rfl)]
@[simp] theorem Warp.setS_timerPending (w : Warp) (r : BitVec 6) (v : Word) : (w.setS r v).timerPending = w.timerPending := by
  unfold Warp.setS; split <;> [rfl; (split <;> rfl)]
@[simp] theorem Warp.setS_watchPending (w : Warp) (r : BitVec 6) (v : Word) : (w.setS r v).watchPending = w.watchPending := by
  unfold Warp.setS; split <;> [rfl; (split <;> rfl)]
@[simp] theorem Warp.setS_timer (w : Warp) (r : BitVec 6) (v : Word) : (w.setS r v).timer = w.timer := by
  unfold Warp.setS; split <;> [rfl; (split <;> rfl)]
@[simp] theorem Warp.setS_tblSel (w : Warp) (r : BitVec 6) (v : Word) : (w.setS r v).tblSel = w.tblSel := by
  unfold Warp.setS; split <;> [rfl; (split <;> rfl)]
@[simp] theorem Warp.setS_stack (w : Warp) (r : BitVec 6) (v : Word) : (w.setS r v).stack = w.stack := by
  unfold Warp.setS; split <;> [rfl; (split <;> rfl)]
@[simp] theorem Warp.setS_spilled (w : Warp) (r : BitVec 6) (v : Word) : (w.setS r v).spilled = w.spilled := by
  unfold Warp.setS; split <;> [rfl; (split <;> rfl)]
@[simp] theorem Warp.setS_next (w : Warp) (r : BitVec 6) (v : Word) : (w.setS r v).next = w.next := by
  unfold Warp.setS; split <;> [rfl; (split <;> rfl)]
@[simp] theorem Warp.setS_resume (w : Warp) (r : BitVec 6) (v : Word) : (w.setS r v).resume = w.resume := by
  unfold Warp.setS; split <;> [rfl; (split <;> rfl)]
@[simp] theorem Warp.setS_run (w : Warp) (r : BitVec 6) (v : Word) : (w.setS r v).run = w.run := by
  unfold Warp.setS; split <;> [rfl; (split <;> rfl)]
@[simp] theorem Warp.setS_idx (w : Warp) (r : BitVec 6) (v : Word) : (w.setS r v).idx = w.idx := by
  unfold Warp.setS; split <;> [rfl; (split <;> rfl)]
@[simp] theorem Warp.setS_pos (w : Warp) (r : BitVec 6) (v : Word) : (w.setS r v).pos = w.pos := by
  unfold Warp.setS; split <;> [rfl; (split <;> rfl)]
@[simp] theorem Warp.setS_target (w : Warp) (r : BitVec 6) (v : Word) : (w.setS r v).target = w.target := by
  unfold Warp.setS; split <;> [rfl; (split <;> rfl)]
@[simp] theorem Warp.setS_remainder (w : Warp) (r : BitVec 6) (v : Word) : (w.setS r v).remainder = w.remainder := by
  unfold Warp.setS; split <;> [rfl; (split <;> rfl)]
@[simp] theorem Warp.setS_wroteTemps (w : Warp) (r : BitVec 6) (v : Word) : (w.setS r v).wroteTemps = w.wroteTemps := by
  unfold Warp.setS; split <;> [rfl; (split <;> rfl)]
@[simp] theorem Warp.setS_phase (w : Warp) (r : BitVec 6) (v : Word) : (w.setS r v).phase = w.phase := by
  unfold Warp.setS; split <;> [rfl; (split <;> rfl)]
@[simp] theorem Warp.setS_active (w : Warp) (r : BitVec 6) (v : Word) : (w.setS r v).active = w.active := by
  unfold Warp.setS; split <;> [rfl; (split <;> rfl)]
@[simp] theorem Warp.setS_aging (w : Warp) (r : BitVec 6) (v : Word) : (w.setS r v).aging = w.aging := by
  unfold Warp.setS; split <;> [rfl; (split <;> rfl)]
@[simp] theorem Warp.setS_eligibleAt (w : Warp) (r : BitVec 6) (v : Word) : (w.setS r v).eligibleAt = w.eligibleAt := by
  unfold Warp.setS; split <;> [rfl; (split <;> rfl)]
@[simp] theorem Warp.setS_yielded (w : Warp) (r : BitVec 6) (v : Word) : (w.setS r v).yielded = w.yielded := by
  unfold Warp.setS; split <;> [rfl; (split <;> rfl)]
@[simp] theorem Warp.setS_spilledRegs (w : Warp) (r : BitVec 6) (v : Word) : (w.setS r v).spilledRegs = w.spilledRegs := by
  unfold Warp.setS; split <;> [rfl; (split <;> rfl)]
@[simp] theorem Warp.setS_loads (w : Warp) (r : BitVec 6) (v : Word) : (w.setS r v).loads = w.loads := by
  unfold Warp.setS; split <;> [rfl; (split <;> rfl)]
@[simp] theorem Warp.setS_stores (w : Warp) (r : BitVec 6) (v : Word) : (w.setS r v).stores = w.stores := by
  unfold Warp.setS; split <;> [rfl; (split <;> rfl)]
@[simp] theorem Warp.setS_watches (w : Warp) (r : BitVec 6) (v : Word) : (w.setS r v).watches = w.watches := by
  unfold Warp.setS; split <;> [rfl; (split <;> rfl)]
@[simp] theorem Warp.setS_batch (w : Warp) (r : BitVec 6) (v : Word) : (w.setS r v).batch = w.batch := by
  unfold Warp.setS; split <;> [rfl; (split <;> rfl)]
@[simp] theorem Warp.setS_openAll (w : Warp) (r : BitVec 6) (v : Word) : (w.setS r v).openAll = w.openAll := by
  unfold Warp.setS; split <;> [rfl; (split <;> rfl)]
@[simp] theorem Warp.setS_openOps (w : Warp) (r : BitVec 6) (v : Word) : (w.setS r v).openOps = w.openOps := by
  unfold Warp.setS; split <;> [rfl; (split <;> rfl)]
@[simp] theorem Warp.setS_openFlags (w : Warp) (r : BitVec 6) (v : Word) : (w.setS r v).openFlags = w.openFlags := by
  unfold Warp.setS; split <;> [rfl; (split <;> rfl)]
@[simp] theorem Warp.setS_batches (w : Warp) (r : BitVec 6) (v : Word) : (w.setS r v).batches = w.batches := by
  unfold Warp.setS; split <;> [rfl; (split <;> rfl)]
@[simp] theorem Warp.setS_records (w : Warp) (r : BitVec 6) (v : Word) : (w.setS r v).records = w.records := by
  unfold Warp.setS; split <;> [rfl; (split <;> rfl)]
@[simp] theorem Warp.setS_overrun (w : Warp) (r : BitVec 6) (v : Word) : (w.setS r v).overrun = w.overrun := by
  unfold Warp.setS; split <;> [rfl; (split <;> rfl)]
@[simp] theorem Warp.setS_lostOps (w : Warp) (r : BitVec 6) (v : Word) : (w.setS r v).lostOps = w.lostOps := by
  unfold Warp.setS; split <;> [rfl; (split <;> rfl)]
@[simp] theorem Warp.setS_inFlight (w : Warp) (r : BitVec 6) (v : Word) : (w.setS r v).inFlight = w.inFlight := by
  unfold Warp.setS; split <;> [rfl; (split <;> rfl)]
@[simp] theorem Warp.setS_children (w : Warp) (r : BitVec 6) (v : Word) : (w.setS r v).children = w.children := by
  unfold Warp.setS; split <;> [rfl; (split <;> rfl)]
@[simp] theorem Warp.setS_recChildren (w : Warp) (r : BitVec 6) (v : Word) : (w.setS r v).recChildren = w.recChildren := by
  unfold Warp.setS; split <;> [rfl; (split <;> rfl)]
@[simp] theorem Warp.setS_puts (w : Warp) (r : BitVec 6) (v : Word) : (w.setS r v).puts = w.puts := by
  unfold Warp.setS; split <;> [rfl; (split <;> rfl)]
@[simp] theorem Warp.setS_arrival (w : Warp) (r : BitVec 6) (v : Word) : (w.setS r v).arrival = w.arrival := by
  unfold Warp.setS; split <;> [rfl; (split <;> rfl)]
@[simp] theorem Warp.setS_debugHalted (w : Warp) (r : BitVec 6) (v : Word) : (w.setS r v).debugHalted = w.debugHalted := by
  unfold Warp.setS; split <;> [rfl; (split <;> rfl)]
@[simp] theorem Warp.setS_haltPending (w : Warp) (r : BitVec 6) (v : Word) : (w.setS r v).haltPending = w.haltPending := by
  unfold Warp.setS; split <;> [rfl; (split <;> rfl)]
@[simp] theorem Warp.setS_skipBreak (w : Warp) (r : BitVec 6) (v : Word) : (w.setS r v).skipBreak = w.skipBreak := by
  unfold Warp.setS; split <;> [rfl; (split <;> rfl)]
@[simp] theorem Warp.setS_step (w : Warp) (r : BitVec 6) (v : Word) : (w.setS r v).step = w.step := by
  unfold Warp.setS; split <;> [rfl; (split <;> rfl)]
@[simp] theorem Warp.setS_stepRuns (w : Warp) (r : BitVec 6) (v : Word) : (w.setS r v).stepRuns = w.stepRuns := by
  unfold Warp.setS; split <;> [rfl; (split <;> rfl)]
@[simp] theorem Warp.setS_watchHits (w : Warp) (r : BitVec 6) (v : Word) : (w.setS r v).watchHits = w.watchHits := by
  unfold Warp.setS; split <;> [rfl; (split <;> rfl)]
@[simp] theorem Warp.setS_trace (w : Warp) (r : BitVec 6) (v : Word) : (w.setS r v).trace = w.trace := by
  unfold Warp.setS; split <;> [rfl; (split <;> rfl)]
@[simp] theorem Warp.setS_lastOrd (w : Warp) (r : BitVec 6) (v : Word) : (w.setS r v).lastOrd = w.lastOrd := by
  unfold Warp.setS; split <;> [rfl; (split <;> rfl)]
@[simp] theorem Warp.setS_deferred (w : Warp) (r : BitVec 6) (v : Word) : (w.setS r v).deferred = w.deferred := by
  unfold Warp.setS; split <;> [rfl; (split <;> rfl)]
@[simp] theorem Warp.setS_wasDeferred (w : Warp) (r : BitVec 6) (v : Word) : (w.setS r v).wasDeferred = w.wasDeferred := by
  unfold Warp.setS; split <;> [rfl; (split <;> rfl)]
@[simp] theorem Warp.setS_stoppedOp (w : Warp) (r : BitVec 6) (v : Word) : (w.setS r v).stoppedOp = w.stoppedOp := by
  unfold Warp.setS; split <;> [rfl; (split <;> rfl)]
@[simp] theorem Warp.setS_stopWait (w : Warp) (r : BitVec 6) (v : Word) : (w.setS r v).stopWait = w.stopWait := by
  unfold Warp.setS; split <;> [rfl; (split <;> rfl)]
@[simp] theorem Warp.setS_readLow (w : Warp) (r : BitVec 6) (v : Word) : (w.setS r v).readLow = w.readLow := by
  unfold Warp.setS; split <;> [rfl; (split <;> rfl)]
@[simp] theorem Warp.setS_readLowHeld (w : Warp) (r : BitVec 6) (v : Word) : (w.setS r v).readLowHeld = w.readLowHeld := by
  unfold Warp.setS; split <;> [rfl; (split <;> rfl)]
@[simp] theorem Warp.setS_operands (w : Warp) (r : BitVec 6) (v : Word) : (w.setS r v).operands = w.operands := by
  unfold Warp.setS; split <;> [rfl; (split <;> rfl)]
@[simp] theorem Warp.setS_redirected (w : Warp) (r : BitVec 6) (v : Word) : (w.setS r v).redirected = w.redirected := by
  unfold Warp.setS; split <;> [rfl; (split <;> rfl)]
@[simp] theorem Warp.setS_slotDone (w : Warp) (r : BitVec 6) (v : Word) : (w.setS r v).slotDone = w.slotDone := by
  unfold Warp.setS; split <;> [rfl; (split <;> rfl)]
@[simp] theorem Warp.setS_bornCycle (w : Warp) (r : BitVec 6) (v : Word) : (w.setS r v).bornCycle = w.bornCycle := by
  unfold Warp.setS; split <;> [rfl; (split <;> rfl)]
@[simp] theorem Warp.setS_issuedAt (w : Warp) (r : BitVec 6) (v : Word) : (w.setS r v).issuedAt = w.issuedAt := by
  unfold Warp.setS; split <;> [rfl; (split <;> rfl)]

theorem Warp.setS_tinfo (w : Warp) (r : BitVec 6) (v : Word) :
    (w.setS r v).tinfo = if 56 ≤ r.toNat ∧ r.toNat ≤ 59 then w.tinfo ||| 1 else w.tinfo := by
  unfold Warp.setS
  split
  · subst_vars; simp
  · split <;> rfl

/-- What a register reads after a scalar write. -/
theorem Warp.sreg_setS (w : Warp) (d r : BitVec 6) (v : Word) :
    (w.setS d v).sreg r = if r = d ∧ d ≠ 0 ∧ ¬ (56 ≤ d.toNat ∧ d.toNat ≤ 59) then v else w.sreg r := by
  unfold Warp.setS
  by_cases h0 : d = 0
  · rw [if_pos h0, if_neg (fun h => h.2.1 h0)]
  by_cases hf : 56 ≤ d.toNat ∧ d.toNat ≤ 59
  · rw [if_neg h0, if_pos hf, if_neg (fun h => h.2.2 hf)]; rfl
  rw [if_neg h0, if_neg hf]
  by_cases hr : r = d
  · rw [if_pos ⟨hr, h0, hf⟩, hr]; simp only [Warp.sreg, if_neg h0, listGet_put_same]
  · rw [if_neg (fun h => hr h.1)]
    have : r.toNat ≠ d.toNat := fun h => hr (BitVec.eq_of_toNat_eq h)
    simp only [Warp.sreg, listGet_put_other _ _ _ _ _ this]

/-- s0 reads as zero. -/
@[simp] theorem Warp.sreg_zero (w : Warp) : w.sreg 0 = 0 := by simp [Warp.sreg]

/-- A register reads the same where the file of scalar registers is the same. -/
theorem Warp.sreg_congr {w w' : Warp} (h : w'.scalars = w.scalars) (r : BitVec 6) : w'.sreg r = w.sreg r := by
  simp [Warp.sreg, h]

@[simp] theorem Warp.advance_sreg (w : Warp) (r : BitVec 6) : w.advance.sreg r = w.sreg r := Warp.sreg_congr (by simp) r

@[simp] theorem Warp.leaveRun_sreg (w : Warp) (off : Nat) (r : BitVec 6) : (w.leaveRun off).sreg r = w.sreg r := rfl

/-! ### Where an instruction leaves its warp -/

@[simp] theorem Warp.setS_lastOfRun (w : Warp) (r : BitVec 6) (v : Word) : (w.setS r v).lastOfRun = w.lastOfRun := by
  simp [Warp.lastOfRun]

@[simp] theorem Warp.setS_instrWords (w : Warp) (r : BitVec 6) (v : Word) : (w.setS r v).instrWords = w.instrWords := by
  simp [Warp.instrWords]

@[simp] theorem Warp.setS_here (w : Warp) (r : BitVec 6) (v : Word) : (w.setS r v).here = w.here := by
  simp [Warp.here]

@[simp] theorem Warp.setS_after (w : Warp) (r : BitVec 6) (v : Word) : (w.setS r v).after = w.after := by
  simp [Warp.after]

/-- Within a run the next instruction follows. -/
theorem Warp.advance_within {w : Warp} (h : w.lastOfRun = false) :
    w.advance = { w with idx := w.idx + 1, pos := w.pos + wordCount w.instrWords.1, operands := none, phase := .issuing } := by
  simp [Warp.advance, h]

/-- The last instruction of a run leaves it for the header behind it. -/
theorem Warp.advance_last {w : Warp} (h : w.lastOfRun = true) : w.advance = w.leaveRun w.after := by
  simp [Warp.advance, h]

/-! ### The current warp -/

@[simp] theorem State.curWarp_setWarp_cur (s : State) (w : Warp) : (s.setWarp s.cur w).curWarp = some w := by
  simp [State.curWarp]

@[simp] theorem State.warp?_setWarp_same (s : State) (id : Nat) (w : Warp) : (s.setWarp id w).warp? id = some w := by
  simp [State.warp?]

theorem State.warp?_setWarp_other (s : State) (id j : Nat) (w : Warp) (h : j ≠ id) :
    (s.setWarp id w).warp? j = s.warp? j := by
  simp [State.warp?, Tbl.find_put_other _ _ _ _ h]

theorem State.finish_eq (s : State) (w : Warp) : s.finish w = s.setWarp s.cur w.advance := rfl

@[simp] theorem State.setWarp_setWarp (s : State) (id : Nat) (w x : Warp) : (s.setWarp id w).setWarp id x = s.setWarp id x := by
  simp [State.setWarp]

/-- An instruction that is ready runs its meaning. -/
theorem checked_ready {r : Raw} {s : State} {w : Warp} {k : Warp → State} (hw : s.curWarp = some w)
    (h : s.ready w r = true) : checked r s k = .next (k w) := by
  simp only [State.ready, Bool.and_eq_true, Bool.or_eq_true, Bool.not_eq_true'] at h
  obtain ⟨h1, h2⟩ := h
  simp only [checked, hw, h1]
  rcases h2 with h2 | ⟨⟨h2, h3⟩, h4⟩
  · simp [h2]
  · by_cases hn : rawNever r = true <;> simp [hn, h2, h3, h4]

/-- An instruction that names no vector register and whose codes the rules admit is ready. -/
theorem checked_plain {r : Raw} {s : State} {w : Warp} {k : Warp → State} (hw : s.curWarp = some w)
    (h1 : operandsOk r (s.tracksOf w) = true) (h2 : readsOf r = []) (h3 : writesOf r = []) :
    checked r s k = .next (k w) := by
  apply checked_ready hw
  have hz : s.hazard w r = false := by
    simp [State.hazard, h2, h3]
  simp [State.ready, h1, overQuota, h2, h3, hz, State.rewrites]

end Sys2Proof.Machine
end

