-- ==== Sys2Proof/Laws/PerInstr.lean ====
section
/-! SUPPORT. Statements about every instruction as syntax, one lemma for each constructor. -/

namespace Sys2Proof.Laws

/-- The fields that an instruction's words are cut into stand for that instruction and no other. -/
def Codec.Statement (i : Instr) : Prop := ∀ r, rawOf i = some r → r.instr = i

theorem extractLow6 (sb : BitVec 6) : ((0 : BitVec 6) ++ sb : BitVec 12).extractLsb' 0 6 = sb := by
  revert sb; decide

theorem bits1 (b : BitVec 1) : b = 0 ∨ b = 1 := by revert b; decide

theorem bits2 (b : BitVec 2) : b = 0 ∨ b = 1 ∨ b = 2 ∨ b = 3 := by revert b; decide

theorem bits3 (b : BitVec 3) : b = 0 ∨ b = 1 ∨ b = 2 ∨ b = 3 ∨ b = 4 ∨ b = 5 ∨ b = 6 ∨ b = 7 := by revert b; decide

theorem Codec.addReg : ∀ sd sa sb, Codec.Statement (.addReg sd sa sb) := by
  intro sd sa sb r h
  cases h
  exact congrArg (Instr.addReg sd sa) (extractLow6 sb)

theorem Codec.addImm : ∀ sd sa imm, Codec.Statement (.addImm sd sa imm) := by
  intro sd sa imm r h
  cases h
  rfl

theorem Codec.subReg : ∀ sd sa sb, Codec.Statement (.subReg sd sa sb) := by
  intro sd sa sb r h
  cases h
  exact congrArg (Instr.subReg sd sa) (extractLow6 sb)

theorem Codec.subImm : ∀ sd sa imm, Codec.Statement (.subImm sd sa imm) := by
  intro sd sa imm r h
  cases h
  rfl

theorem Codec.mulReg : ∀ sd sa sb, Codec.Statement (.mulReg sd sa sb) := by
  intro sd sa sb r h
  cases h
  exact congrArg (Instr.mulReg sd sa) (extractLow6 sb)

theorem Codec.mulImm : ∀ sd sa imm, Codec.Statement (.mulImm sd sa imm) := by
  intro sd sa imm r h
  cases h
  rfl

theorem Codec.mulhsReg : ∀ sd sa sb, Codec.Statement (.mulhsReg sd sa sb) := by
  intro sd sa sb r h
  cases h
  exact congrArg (Instr.mulhsReg sd sa) (extractLow6 sb)

theorem Codec.mulhsImm : ∀ sd sa imm, Codec.Statement (.mulhsImm sd sa imm) := by
  intro sd sa imm r h
  cases h
  rfl

theorem Codec.mulhuReg : ∀ sd sa sb, Codec.Statement (.mulhuReg sd sa sb) := by
  intro sd sa sb r h
  cases h
  exact congrArg (Instr.mulhuReg sd sa) (extractLow6 sb)

theorem Codec.mulhuImm : ∀ sd sa imm, Codec.Statement (.mulhuImm sd sa imm) := by
  intro sd sa imm r h
  cases h
  rfl

theorem Codec.divsReg : ∀ sd sa sb, Codec.Statement (.divsReg sd sa sb) := by
  intro sd sa sb r h
  cases h
  exact congrArg (Instr.divsReg sd sa) (extractLow6 sb)

theorem Codec.divsImm : ∀ sd sa imm, Codec.Statement (.divsImm sd sa imm) := by
  intro sd sa imm r h
  cases h
  rfl

theorem Codec.divuReg : ∀ sd sa sb, Codec.Statement (.divuReg sd sa sb) := by
  intro sd sa sb r h
  cases h
  exact congrArg (Instr.divuReg sd sa) (extractLow6 sb)

theorem Codec.divuImm : ∀ sd sa imm, Codec.Statement (.divuImm sd sa imm) := by
  intro sd sa imm r h
  cases h
  rfl

theorem Codec.remsReg : ∀ sd sa sb, Codec.Statement (.remsReg sd sa sb) := by
  intro sd sa sb r h
  cases h
  exact congrArg (Instr.remsReg sd sa) (extractLow6 sb)

theorem Codec.remsImm : ∀ sd sa imm, Codec.Statement (.remsImm sd sa imm) := by
  intro sd sa imm r h
  cases h
  rfl

theorem Codec.remuReg : ∀ sd sa sb, Codec.Statement (.remuReg sd sa sb) := by
  intro sd sa sb r h
  cases h
  exact congrArg (Instr.remuReg sd sa) (extractLow6 sb)

theorem Codec.remuImm : ∀ sd sa imm, Codec.Statement (.remuImm sd sa imm) := by
  intro sd sa imm r h
  cases h
  rfl

theorem Codec.andReg : ∀ sd sa sb, Codec.Statement (.andReg sd sa sb) := by
  intro sd sa sb r h
  cases h
  exact congrArg (Instr.andReg sd sa) (extractLow6 sb)

theorem Codec.andImm : ∀ sd sa imm, Codec.Statement (.andImm sd sa imm) := by
  intro sd sa imm r h
  cases h
  rfl

theorem Codec.orReg : ∀ sd sa sb, Codec.Statement (.orReg sd sa sb) := by
  intro sd sa sb r h
  cases h
  exact congrArg (Instr.orReg sd sa) (extractLow6 sb)

theorem Codec.orImm : ∀ sd sa imm, Codec.Statement (.orImm sd sa imm) := by
  intro sd sa imm r h
  cases h
  rfl

theorem Codec.xorReg : ∀ sd sa sb, Codec.Statement (.xorReg sd sa sb) := by
  intro sd sa sb r h
  cases h
  exact congrArg (Instr.xorReg sd sa) (extractLow6 sb)

theorem Codec.xorImm : ∀ sd sa imm, Codec.Statement (.xorImm sd sa imm) := by
  intro sd sa imm r h
  cases h
  rfl

theorem Codec.andnReg : ∀ sd sa sb, Codec.Statement (.andnReg sd sa sb) := by
  intro sd sa sb r h
  cases h
  exact congrArg (Instr.andnReg sd sa) (extractLow6 sb)

theorem Codec.andnImm : ∀ sd sa imm, Codec.Statement (.andnImm sd sa imm) := by
  intro sd sa imm r h
  cases h
  rfl

theorem Codec.shlReg : ∀ sd sa sb, Codec.Statement (.shlReg sd sa sb) := by
  intro sd sa sb r h
  cases h
  exact congrArg (Instr.shlReg sd sa) (extractLow6 sb)

theorem Codec.shlImm : ∀ sd sa imm, Codec.Statement (.shlImm sd sa imm) := by
  intro sd sa imm r h
  cases h
  rfl

theorem Codec.shrReg : ∀ sd sa sb, Codec.Statement (.shrReg sd sa sb) := by
  intro sd sa sb r h
  cases h
  exact congrArg (Instr.shrReg sd sa) (extractLow6 sb)

theorem Codec.shrImm : ∀ sd sa imm, Codec.Statement (.shrImm sd sa imm) := by
  intro sd sa imm r h
  cases h
  rfl

theorem Codec.sarReg : ∀ sd sa sb, Codec.Statement (.sarReg sd sa sb) := by
  intro sd sa sb r h
  cases h
  exact congrArg (Instr.sarReg sd sa) (extractLow6 sb)

theorem Codec.sarImm : ∀ sd sa imm, Codec.Statement (.sarImm sd sa imm) := by
  intro sd sa imm r h
  cases h
  rfl

theorem Codec.rolReg : ∀ sd sa sb, Codec.Statement (.rolReg sd sa sb) := by
  intro sd sa sb r h
  cases h
  exact congrArg (Instr.rolReg sd sa) (extractLow6 sb)

theorem Codec.rolImm : ∀ sd sa imm, Codec.Statement (.rolImm sd sa imm) := by
  intro sd sa imm r h
  cases h
  rfl

theorem Codec.minReg : ∀ sd sa sb, Codec.Statement (.minReg sd sa sb) := by
  intro sd sa sb r h
  cases h
  exact congrArg (Instr.minReg sd sa) (extractLow6 sb)

theorem Codec.minImm : ∀ sd sa imm, Codec.Statement (.minImm sd sa imm) := by
  intro sd sa imm r h
  cases h
  rfl

theorem Codec.maxReg : ∀ sd sa sb, Codec.Statement (.maxReg sd sa sb) := by
  intro sd sa sb r h
  cases h
  exact congrArg (Instr.maxReg sd sa) (extractLow6 sb)

theorem Codec.maxImm : ∀ sd sa imm, Codec.Statement (.maxImm sd sa imm) := by
  intro sd sa imm r h
  cases h
  rfl

theorem Codec.minuReg : ∀ sd sa sb, Codec.Statement (.minuReg sd sa sb) := by
  intro sd sa sb r h
  cases h
  exact congrArg (Instr.minuReg sd sa) (extractLow6 sb)

theorem Codec.minuImm : ∀ sd sa imm, Codec.Statement (.minuImm sd sa imm) := by
  intro sd sa imm r h
  cases h
  rfl

theorem Codec.maxuReg : ∀ sd sa sb, Codec.Statement (.maxuReg sd sa sb) := by
  intro sd sa sb r h
  cases h
  exact congrArg (Instr.maxuReg sd sa) (extractLow6 sb)

theorem Codec.maxuImm : ∀ sd sa imm, Codec.Statement (.maxuImm sd sa imm) := by
  intro sd sa imm r h
  cases h
  rfl

theorem Codec.sltReg : ∀ sd sa sb, Codec.Statement (.sltReg sd sa sb) := by
  intro sd sa sb r h
  cases h
  exact congrArg (Instr.sltReg sd sa) (extractLow6 sb)

theorem Codec.sltImm : ∀ sd sa imm, Codec.Statement (.sltImm sd sa imm) := by
  intro sd sa imm r h
  cases h
  rfl

theorem Codec.sltuReg : ∀ sd sa sb, Codec.Statement (.sltuReg sd sa sb) := by
  intro sd sa sb r h
  cases h
  exact congrArg (Instr.sltuReg sd sa) (extractLow6 sb)

theorem Codec.sltuImm : ∀ sd sa imm, Codec.Statement (.sltuImm sd sa imm) := by
  intro sd sa imm r h
  cases h
  rfl

theorem Codec.seqReg : ∀ sd sa sb, Codec.Statement (.seqReg sd sa sb) := by
  intro sd sa sb r h
  cases h
  exact congrArg (Instr.seqReg sd sa) (extractLow6 sb)

theorem Codec.seqImm : ∀ sd sa imm, Codec.Statement (.seqImm sd sa imm) := by
  intro sd sa imm r h
  cases h
  rfl

theorem Codec.sneReg : ∀ sd sa sb, Codec.Statement (.sneReg sd sa sb) := by
  intro sd sa sb r h
  cases h
  exact congrArg (Instr.sneReg sd sa) (extractLow6 sb)

theorem Codec.sneImm : ∀ sd sa imm, Codec.Statement (.sneImm sd sa imm) := by
  intro sd sa imm r h
  cases h
  rfl

theorem Codec.clz : ∀ sd sa, Codec.Statement (.clz sd sa) := by
  intro sd sa r h
  cases h
  rfl

theorem Codec.popc : ∀ sd sa, Codec.Statement (.popc sd sa) := by
  intro sd sa r h
  cases h
  rfl

theorem Codec.brev : ∀ sd sa, Codec.Statement (.brev sd sa) := by
  intro sd sa r h
  cases h
  rfl

theorem Codec.addpReg : ∀ sd sa sb, Codec.Statement (.addpReg sd sa sb) := by
  intro sd sa sb r h
  cases h
  exact congrArg (Instr.addpReg sd sa) (extractLow6 sb)

theorem Codec.addpImm : ∀ sd sa imm, Codec.Statement (.addpImm sd sa imm) := by
  intro sd sa imm r h
  cases h
  rfl

theorem Codec.rdsr : ∀ sd index, Codec.Statement (.rdsr sd index) := by
  intro sd index r h
  cases h
  rfl

theorem Codec.wrsr : ∀ sa index, Codec.Statement (.wrsr sa index) := by
  intro sa index r h
  cases h
  rfl

theorem Codec.bra : ∀ off, Codec.Statement (.bra off) := by
  intro off r h
  cases h
  rfl

theorem Codec.bz : ∀ sa off, Codec.Statement (.bz sa off) := by
  intro sa off r h
  cases h
  rfl

theorem Codec.bnz : ∀ sa off, Codec.Statement (.bnz sa off) := by
  intro sa off r h
  cases h
  rfl

theorem Codec.call : ∀ off, Codec.Statement (.call off) := by
  intro off r h
  cases h
  rfl

theorem Codec.ret : Codec.Statement .ret := by
  intro r h
  cases h
  rfl

theorem Codec.jmpr : ∀ sa, Codec.Statement (.jmpr sa) := by
  intro sa r h
  cases h
  rfl

theorem Codec.rcv : Codec.Statement .rcv := by
  intro r h
  cases h
  rfl

theorem Codec.exit : Codec.Statement .exit := by
  intro r h
  cases h
  rfl

theorem Codec.bar : ∀ slot, Codec.Statement (.bar slot) := by
  intro slot r h
  cases h
  rcases bits2 slot with rfl | rfl | rfl | rfl <;>
  rfl

theorem Codec.barArrive : ∀ slot, Codec.Statement (.barArrive slot) := by
  intro slot r h
  cases h
  rcases bits2 slot with rfl | rfl | rfl | rfl <;>
  rfl

theorem Codec.barWait : ∀ slot, Codec.Statement (.barWait slot) := by
  intro slot r h
  cases h
  rcases bits2 slot with rfl | rfl | rfl | rfl <;>
  rfl

theorem Codec.waitm : ∀ sa, Codec.Statement (.waitm sa) := by
  intro sa r h
  cases h
  rfl

theorem Codec.trap : ∀ code, Codec.Statement (.trap code) := by
  intro code r h
  cases h
  rfl

theorem Codec.tret : Codec.Statement .tret := by
  intro r h
  cases h
  rfl

theorem Codec.tmsk : ∀ mask, Codec.Statement (.tmsk mask) := by
  intro mask r h
  cases h
  rcases bits1 mask with rfl | rfl <;>
  rfl

theorem Codec.settmr : ∀ sa, Codec.Statement (.settmr sa) := by
  intro sa r h
  cases h
  rfl

theorem Codec.perf : ∀ level, Codec.Statement (.perf level) := by
  intro level r h
  cases h
  rcases bits2 level with rfl | rfl | rfl | rfl <;>
  rfl

theorem Codec.brk : ∀ code, Codec.Statement (.brk code) := by
  intro code r h
  cases h
  rfl

theorem Codec.fenceRel : ∀ scope, Codec.Statement (.fenceRel scope) := by
  intro scope r h
  cases h
  rcases bits2 scope with rfl | rfl | rfl | rfl <;>
  rfl

theorem Codec.fenceAcq : ∀ scope, Codec.Statement (.fenceAcq scope) := by
  intro scope r h
  cases h
  rcases bits2 scope with rfl | rfl | rfl | rfl <;>
  rfl

theorem Codec.fenceFull : ∀ scope, Codec.Statement (.fenceFull scope) := by
  intro scope r h
  cases h
  rcases bits2 scope with rfl | rfl | rfl | rfl <;>
  rfl

theorem Codec.fencePath : ∀ scope paths, Codec.Statement (.fencePath scope paths) := by
  intro scope paths r h
  cases h
  rcases bits2 scope with rfl | rfl | rfl | rfl <;>
  rcases bits3 paths with rfl | rfl | rfl | rfl | rfl | rfl | rfl | rfl <;>
  rfl

theorem Codec.mwait : ∀ sa, Codec.Statement (.mwait sa) := by
  intro sa r h
  cases h
  rfl

theorem Codec.mfence : ∀ sd, Codec.Statement (.mfence sd) := by
  intro sd r h
  cases h
  rfl

theorem Codec.evpop : ∀ sd, Codec.Statement (.evpop sd) := by
  intro sd r h
  cases h
  rfl

theorem Codec.evwait : ∀ sd, Codec.Statement (.evwait sd) := by
  intro sd r h
  cases h
  rfl

theorem Codec.vgrow : ∀ count, Codec.Statement (.vgrow count) := by
  intro count r h
  cases h
  rfl

theorem Codec.vshrk : ∀ count, Codec.Statement (.vshrk count) := by
  intro count r h
  cases h
  rfl

theorem Codec.crd : ∀ sd index, Codec.Statement (.crd sd index) := by
  intro sd index r h
  cases h
  rfl

theorem Codec.cwr : ∀ sa index, Codec.Statement (.cwr sa index) := by
  intro sa index r h
  cases h
  rfl

theorem Codec.cadd : ∀ sd sa index, Codec.Statement (.cadd sd sa index) := by
  intro sd sa index r h
  cases h
  rfl

theorem Codec.ccas : ∀ sd sa index, Codec.Statement (.ccas sd sa index) := by
  intro sd sa index r h
  cases h
  rfl

theorem Codec.yield : Codec.Statement .yield := by
  intro r h
  cases h
  rfl

theorem Codec.clk : ∀ sd, Codec.Statement (.clk sd) := by
  intro sd r h
  cases h
  rfl

theorem Codec.hrel : ∀ track, Codec.Statement (.hrel track) := by
  intro track r h
  cases h
  rfl

theorem Codec.sli : ∀ sd imm, Codec.Statement (.sli sd imm) := by
  intro sd imm r h
  cases h
  rfl

theorem Codec.vaddInteger : ∀ f, Codec.Statement (.vaddInteger f) := by
  intro f r h
  cases h
  rfl

theorem Codec.vsubInteger : ∀ f, Codec.Statement (.vsubInteger f) := by
  intro f r h
  cases h
  rfl

theorem Codec.vmulInteger : ∀ f, Codec.Statement (.vmulInteger f) := by
  intro f r h
  cases h
  rfl

theorem Codec.vmulh : ∀ f, Codec.Statement (.vmulh f) := by
  intro f r h
  cases h
  rfl

theorem Codec.vmad : ∀ f, Codec.Statement (.vmad f) := by
  intro f r h
  cases h
  rfl

theorem Codec.vminInteger : ∀ f, Codec.Statement (.vminInteger f) := by
  intro f r h
  cases h
  rfl

theorem Codec.vmaxInteger : ∀ f, Codec.Statement (.vmaxInteger f) := by
  intro f r h
  cases h
  rfl

theorem Codec.vabsInteger : ∀ f, Codec.Statement (.vabsInteger f) := by
  intro f r h
  cases h
  rfl

theorem Codec.vnegInteger : ∀ f, Codec.Statement (.vnegInteger f) := by
  intro f r h
  cases h
  rfl

theorem Codec.vadds : ∀ f, Codec.Statement (.vadds f) := by
  intro f r h
  cases h
  rfl

theorem Codec.vsubs : ∀ f, Codec.Statement (.vsubs f) := by
  intro f r h
  cases h
  rfl

theorem Codec.vand : ∀ f, Codec.Statement (.vand f) := by
  intro f r h
  cases h
  rfl

theorem Codec.vor : ∀ f, Codec.Statement (.vor f) := by
  intro f r h
  cases h
  rfl

theorem Codec.vxor : ∀ f, Codec.Statement (.vxor f) := by
  intro f r h
  cases h
  rfl

theorem Codec.vandn : ∀ f, Codec.Statement (.vandn f) := by
  intro f r h
  cases h
  rfl

theorem Codec.vnot : ∀ f, Codec.Statement (.vnot f) := by
  intro f r h
  cases h
  rfl

theorem Codec.vshl : ∀ f, Codec.Statement (.vshl f) := by
  intro f r h
  cases h
  rfl

theorem Codec.vshr : ∀ f, Codec.Statement (.vshr f) := by
  intro f r h
  cases h
  rfl

theorem Codec.vsar : ∀ f, Codec.Statement (.vsar f) := by
  intro f r h
  cases h
  rfl

theorem Codec.vrol : ∀ f, Codec.Statement (.vrol f) := by
  intro f r h
  cases h
  rfl

theorem Codec.vclz : ∀ f, Codec.Statement (.vclz f) := by
  intro f r h
  cases h
  rfl

theorem Codec.vpopc : ∀ f, Codec.Statement (.vpopc f) := by
  intro f r h
  cases h
  rfl

theorem Codec.vbrev : ∀ f, Codec.Statement (.vbrev f) := by
  intro f r h
  cases h
  rfl

theorem Codec.vbfe : ∀ f, Codec.Statement (.vbfe f) := by
  intro f r h
  cases h
  rfl

theorem Codec.vaddFloat : ∀ f, Codec.Statement (.vaddFloat f) := by
  intro f r h
  cases h
  rfl

theorem Codec.vsubFloat : ∀ f, Codec.Statement (.vsubFloat f) := by
  intro f r h
  cases h
  rfl

theorem Codec.vmulFloat : ∀ f, Codec.Statement (.vmulFloat f) := by
  intro f r h
  cases h
  rfl

theorem Codec.vfma : ∀ f, Codec.Statement (.vfma f) := by
  intro f r h
  cases h
  rfl

theorem Codec.vfms : ∀ f, Codec.Statement (.vfms f) := by
  intro f r h
  cases h
  rfl

theorem Codec.vminFloat : ∀ f, Codec.Statement (.vminFloat f) := by
  intro f r h
  cases h
  rfl

theorem Codec.vmaxFloat : ∀ f, Codec.Statement (.vmaxFloat f) := by
  intro f r h
  cases h
  rfl

theorem Codec.vabsFloat : ∀ f, Codec.Statement (.vabsFloat f) := by
  intro f r h
  cases h
  rfl

theorem Codec.vnegFloat : ∀ f, Codec.Statement (.vnegFloat f) := by
  intro f r h
  cases h
  rfl

theorem Codec.vrnd : ∀ f, Codec.Statement (.vrnd f) := by
  intro f r h
  cases h
  rfl

theorem Codec.vceq : ∀ f, Codec.Statement (.vceq f) := by
  intro f r h
  cases h
  rfl

theorem Codec.vcne : ∀ f, Codec.Statement (.vcne f) := by
  intro f r h
  cases h
  rfl

theorem Codec.vclt : ∀ f, Codec.Statement (.vclt f) := by
  intro f r h
  cases h
  rfl

theorem Codec.vcle : ∀ f, Codec.Statement (.vcle f) := by
  intro f r h
  cases h
  rfl

theorem Codec.vcgt : ∀ f, Codec.Statement (.vcgt f) := by
  intro f r h
  cases h
  rfl

theorem Codec.vcge : ∀ f, Codec.Statement (.vcge f) := by
  intro f r h
  cases h
  rfl

theorem Codec.vcord : ∀ f, Codec.Statement (.vcord f) := by
  intro f r h
  cases h
  rfl

theorem Codec.vcuno : ∀ f, Codec.Statement (.vcuno f) := by
  intro f r h
  cases h
  rfl

theorem Codec.vcvt : ∀ fn f, Codec.Statement (.vcvt fn f) := by
  intro fn f r h
  cases h
  rfl

theorem Codec.vqblkE4 : ∀ f, Codec.Statement (.vqblkE4 f) := by
  intro f r h
  cases h
  rfl

theorem Codec.vqblkE5 : ∀ f, Codec.Statement (.vqblkE5 f) := by
  intro f r h
  cases h
  rfl

theorem Codec.vqblkF4 : ∀ f, Codec.Statement (.vqblkF4 f) := by
  intro f r h
  cases h
  rfl

theorem Codec.vqblkLg : ∀ f, Codec.Statement (.vqblkLg f) := by
  intro f r h
  cases h
  rfl

theorem Codec.vdqblkE4 : ∀ f, Codec.Statement (.vdqblkE4 f) := by
  intro f r h
  cases h
  rfl

theorem Codec.vdqblkE5 : ∀ f, Codec.Statement (.vdqblkE5 f) := by
  intro f r h
  cases h
  rfl

theorem Codec.vdqblkF4 : ∀ f, Codec.Statement (.vdqblkF4 f) := by
  intro f r h
  cases h
  rfl

theorem Codec.vdqblkLg : ∀ f, Codec.Statement (.vdqblkLg f) := by
  intro f r h
  cases h
  rfl

theorem Codec.vexp2 : ∀ f, Codec.Statement (.vexp2 f) := by
  intro f r h
  cases h
  rfl

theorem Codec.vlog2 : ∀ f, Codec.Statement (.vlog2 f) := by
  intro f r h
  cases h
  rfl

theorem Codec.vrcp : ∀ f, Codec.Statement (.vrcp f) := by
  intro f r h
  cases h
  rfl

theorem Codec.vrsqrt : ∀ f, Codec.Statement (.vrsqrt f) := by
  intro f r h
  cases h
  rfl

theorem Codec.vsqrt : ∀ f, Codec.Statement (.vsqrt f) := by
  intro f r h
  cases h
  rfl

theorem Codec.vsin : ∀ f, Codec.Statement (.vsin f) := by
  intro f r h
  cases h
  rfl

theorem Codec.vcos : ∀ f, Codec.Statement (.vcos f) := by
  intro f r h
  cases h
  rfl

theorem Codec.vtanh : ∀ f, Codec.Statement (.vtanh f) := by
  intro f r h
  cases h
  rfl

theorem Codec.vtbl : ∀ slot f, Codec.Statement (.vtbl slot f) := by
  intro slot f r h
  cases h
  rcases bits3 slot with rfl | rfl | rfl | rfl | rfl | rfl | rfl | rfl <;>
  rfl

theorem Codec.vmov : ∀ f, Codec.Statement (.vmov f) := by
  intro f r h
  cases h
  rfl

theorem Codec.vsel : ∀ f, Codec.Statement (.vsel f) := by
  intro f r h
  cases h
  rfl

theorem Codec.vbcast : ∀ f, Codec.Statement (.vbcast f) := by
  intro f r h
  cases h
  rfl

theorem Codec.vrdl : ∀ f, Codec.Statement (.vrdl f) := by
  intro f r h
  cases h
  rfl

theorem Codec.vwrl : ∀ f, Codec.Statement (.vwrl f) := by
  intro f r h
  cases h
  rfl

theorem Codec.viota : ∀ f, Codec.Statement (.viota f) := by
  intro f r h
  cases h
  rfl

theorem Codec.vradd : ∀ f, Codec.Statement (.vradd f) := by
  intro f r h
  cases h
  rfl

theorem Codec.vrmin : ∀ f, Codec.Statement (.vrmin f) := by
  intro f r h
  cases h
  rfl

theorem Codec.vrmax : ∀ f, Codec.Statement (.vrmax f) := by
  intro f r h
  cases h
  rfl

theorem Codec.vrand : ∀ f, Codec.Statement (.vrand f) := by
  intro f r h
  cases h
  rfl

theorem Codec.vror : ∀ f, Codec.Statement (.vror f) := by
  intro f r h
  cases h
  rfl

theorem Codec.vrxor : ∀ f, Codec.Statement (.vrxor f) := by
  intro f r h
  cases h
  rfl

theorem Codec.vrfadd : ∀ f, Codec.Statement (.vrfadd f) := by
  intro f r h
  cases h
  rfl

theorem Codec.vrfmax : ∀ f, Codec.Statement (.vrfmax f) := by
  intro f r h
  cases h
  rfl

theorem Codec.vrfmin : ∀ f, Codec.Statement (.vrfmin f) := by
  intro f r h
  cases h
  rfl

theorem Codec.vscanAdd : ∀ f, Codec.Statement (.vscanAdd f) := by
  intro f r h
  cases h
  rfl

theorem Codec.vscanxAdd : ∀ f, Codec.Statement (.vscanxAdd f) := by
  intro f r h
  cases h
  rfl

theorem Codec.vscanXor : ∀ f, Codec.Statement (.vscanXor f) := by
  intro f r h
  cases h
  rfl

theorem Codec.vscanxXor : ∀ f, Codec.Statement (.vscanxXor f) := by
  intro f r h
  cases h
  rfl

theorem Codec.vscanMax : ∀ f, Codec.Statement (.vscanMax f) := by
  intro f r h
  cases h
  rfl

theorem Codec.vscanFadd : ∀ f, Codec.Statement (.vscanFadd f) := by
  intro f r h
  cases h
  rfl

theorem Codec.vclmul : ∀ f, Codec.Statement (.vclmul f) := by
  intro f r h
  cases h
  rfl

theorem Codec.vclmulh : ∀ f, Codec.Statement (.vclmulh f) := by
  intro f r h
  cases h
  rfl

theorem Codec.vpxor : ∀ f, Codec.Statement (.vpxor f) := by
  intro f r h
  cases h
  rfl

theorem Codec.pand : ∀ f, Codec.Statement (.pand f) := by
  intro f r h
  cases h
  rfl

theorem Codec.por : ∀ f, Codec.Statement (.por f) := by
  intro f r h
  cases h
  rfl

theorem Codec.pxor : ∀ f, Codec.Statement (.pxor f) := by
  intro f r h
  cases h
  rfl

theorem Codec.pnot : ∀ f, Codec.Statement (.pnot f) := by
  intro f r h
  cases h
  rfl

theorem Codec.pfroms : ∀ f, Codec.Statement (.pfroms f) := by
  intro f r h
  cases h
  rfl

theorem Codec.ptos : ∀ f, Codec.Statement (.ptos f) := by
  intro f r h
  cases h
  rfl

theorem Codec.pcnt : ∀ f, Codec.Statement (.pcnt f) := by
  intro f r h
  cases h
  rfl

theorem Codec.pfirst : ∀ f, Codec.Statement (.pfirst f) := by
  intro f r h
  cases h
  rfl

theorem Codec.vbr : ∀ pred neg target reconv, Codec.Statement (.vbr pred neg target reconv) := by
  intro pred neg target reconv r h
  cases h
  rfl

theorem Codec.vlgmul : ∀ f, Codec.Statement (.vlgmul f) := by
  intro f r h
  cases h
  rfl

theorem Codec.vlgadd : ∀ f, Codec.Statement (.vlgadd f) := by
  intro f r h
  cases h
  rfl

theorem Codec.vperf : ∀ f, Codec.Statement (.vperf f) := by
  intro f r h
  cases h
  rfl

theorem Codec.ld : ∀ f, Codec.Statement (.ld f) := by
  intro f r h
  cases h
  rfl

theorem Codec.st : ∀ f, Codec.Statement (.st f) := by
  intro f r h
  cases h
  rfl

theorem Codec.lds : ∀ f, Codec.Statement (.lds f) := by
  intro f r h
  cases h
  rfl

theorem Codec.sts : ∀ f, Codec.Statement (.sts f) := by
  intro f r h
  cases h
  rfl

theorem Codec.atomAdd : ∀ f, Codec.Statement (.atomAdd f) := by
  intro f r h
  cases h
  rfl

theorem Codec.atomSub : ∀ f, Codec.Statement (.atomSub f) := by
  intro f r h
  cases h
  rfl

theorem Codec.atomMin : ∀ f, Codec.Statement (.atomMin f) := by
  intro f r h
  cases h
  rfl

theorem Codec.atomMax : ∀ f, Codec.Statement (.atomMax f) := by
  intro f r h
  cases h
  rfl

theorem Codec.atomMinu : ∀ f, Codec.Statement (.atomMinu f) := by
  intro f r h
  cases h
  rfl

theorem Codec.atomMaxu : ∀ f, Codec.Statement (.atomMaxu f) := by
  intro f r h
  cases h
  rfl

theorem Codec.atomAnd : ∀ f, Codec.Statement (.atomAnd f) := by
  intro f r h
  cases h
  rfl

theorem Codec.atomOr : ∀ f, Codec.Statement (.atomOr f) := by
  intro f r h
  cases h
  rfl

theorem Codec.atomXor : ∀ f, Codec.Statement (.atomXor f) := by
  intro f r h
  cases h
  rfl

theorem Codec.atomXchg : ∀ f, Codec.Statement (.atomXchg f) := by
  intro f r h
  cases h
  rfl

theorem Codec.atomCas : ∀ f, Codec.Statement (.atomCas f) := by
  intro f r h
  cases h
  rfl

theorem Codec.atomFaddF32 : ∀ f, Codec.Statement (.atomFaddF32 f) := by
  intro f r h
  cases h
  rfl

theorem Codec.atomFmaxF32 : ∀ f, Codec.Statement (.atomFmaxF32 f) := by
  intro f r h
  cases h
  rfl

theorem Codec.atomsAdd : ∀ f, Codec.Statement (.atomsAdd f) := by
  intro f r h
  cases h
  rfl

theorem Codec.atomsSub : ∀ f, Codec.Statement (.atomsSub f) := by
  intro f r h
  cases h
  rfl

theorem Codec.atomsMin : ∀ f, Codec.Statement (.atomsMin f) := by
  intro f r h
  cases h
  rfl

theorem Codec.atomsMax : ∀ f, Codec.Statement (.atomsMax f) := by
  intro f r h
  cases h
  rfl

theorem Codec.atomsMinu : ∀ f, Codec.Statement (.atomsMinu f) := by
  intro f r h
  cases h
  rfl

theorem Codec.atomsMaxu : ∀ f, Codec.Statement (.atomsMaxu f) := by
  intro f r h
  cases h
  rfl

theorem Codec.atomsAnd : ∀ f, Codec.Statement (.atomsAnd f) := by
  intro f r h
  cases h
  rfl

theorem Codec.atomsOr : ∀ f, Codec.Statement (.atomsOr f) := by
  intro f r h
  cases h
  rfl

theorem Codec.atomsXor : ∀ f, Codec.Statement (.atomsXor f) := by
  intro f r h
  cases h
  rfl

theorem Codec.atomsXchg : ∀ f, Codec.Statement (.atomsXchg f) := by
  intro f r h
  cases h
  rfl

theorem Codec.atomsCas : ∀ f, Codec.Statement (.atomsCas f) := by
  intro f r h
  cases h
  rfl

theorem Codec.atomsFaddF32 : ∀ f, Codec.Statement (.atomsFaddF32 f) := by
  intro f r h
  cases h
  rfl

theorem Codec.atomsFmaxF32 : ∀ f, Codec.Statement (.atomsFmaxF32 f) := by
  intro f r h
  cases h
  rfl

theorem Codec.mon : ∀ f, Codec.Statement (.mon f) := by
  intro f r h
  cases h
  rfl

theorem Codec.pref : ∀ f, Codec.Statement (.pref f) := by
  intro f r h
  cases h
  rfl

theorem Codec.cpyMs : ∀ f, Codec.Statement (.cpyMs f) := by
  intro f r h
  cases h
  rfl

theorem Codec.cpySm : ∀ f, Codec.Statement (.cpySm f) := by
  intro f r h
  cases h
  rfl

theorem Codec.cpyMm : ∀ f, Codec.Statement (.cpyMm f) := by
  intro f r h
  cases h
  rfl

theorem Codec.cpyPp : ∀ f, Codec.Statement (.cpyPp f) := by
  intro f r h
  cases h
  rfl

theorem Codec.gath : ∀ f, Codec.Statement (.gath f) := by
  intro f r h
  cases h
  rfl

theorem Codec.scat : ∀ f, Codec.Statement (.scat f) := by
  intro f r h
  cases h
  rfl

theorem Codec.prom : ∀ f, Codec.Statement (.prom f) := by
  intro f r h
  cases h
  rfl

theorem Codec.dmot : ∀ f, Codec.Statement (.dmot f) := by
  intro f r h
  cases h
  rfl

theorem Codec.wbld : ∀ f, Codec.Statement (.wbld f) := by
  intro f r h
  cases h
  rfl

theorem Codec.mma : ∀ f, Codec.Statement (.mma f) := by
  intro f r h
  cases h
  rfl

theorem Codec.mmas : ∀ f, Codec.Statement (.mmas f) := by
  intro f r h
  cases h
  rfl

theorem Codec.acld : ∀ space f, Codec.Statement (.acld space f) := by
  intro space f r h
  cases h
  rcases bits1 space with rfl | rfl <;>
  rfl

theorem Codec.acst : ∀ space f, Codec.Statement (.acst space f) := by
  intro space f r h
  cases h
  rcases bits1 space with rfl | rfl <;>
  rfl

theorem Codec.acrd : ∀ f, Codec.Statement (.acrd f) := by
  intro f r h
  cases h
  rfl

theorem Codec.acwr : ∀ f, Codec.Statement (.acwr f) := by
  intro f r h
  cases h
  rfl

theorem Codec.acopZero : ∀ f, Codec.Statement (.acopZero f) := by
  intro f r h
  cases h
  rfl

theorem Codec.acopMulrow : ∀ f, Codec.Statement (.acopMulrow f) := by
  intro f r h
  cases h
  rfl

theorem Codec.acopAddrow : ∀ f, Codec.Statement (.acopAddrow f) := by
  intro f r h
  cases h
  rfl

theorem Codec.acopFold : ∀ f, Codec.Statement (.acopFold f) := by
  intro f r h
  cases h
  rfl

theorem Codec.acopMaxrow : ∀ f, Codec.Statement (.acopMaxrow f) := by
  intro f r h
  cases h
  rfl

theorem Codec.tblld : ∀ slot f, Codec.Statement (.tblld slot f) := by
  intro slot f r h
  cases h
  rcases bits3 slot with rfl | rfl | rfl | rfl | rfl | rfl | rfl | rfl <;>
  rfl

theorem Codec.tblsw : ∀ slot f, Codec.Statement (.tblsw slot f) := by
  intro slot f r h
  cases h
  rcases bits3 slot with rfl | rfl | rfl | rfl | rfl | rfl | rfl | rfl <;>
  rfl

theorem Codec.kapp : ∀ f, Codec.Statement (.kapp f) := by
  intro f r h
  cases h
  rfl

theorem Codec.ksel : ∀ f, Codec.Statement (.ksel f) := by
  intro f r h
  cases h
  rfl

theorem Codec.katt : ∀ f, Codec.Statement (.katt f) := by
  intro f r h
  cases h
  rfl

theorem Codec.ksum : ∀ f, Codec.Statement (.ksum f) := by
  intro f r h
  cases h
  rfl

theorem Codec.spawn : ∀ f, Codec.Statement (.spawn f) := by
  intro f r h
  cases h
  rfl

theorem Codec.join : ∀ f, Codec.Statement (.join f) := by
  intro f r h
  cases h
  rfl

theorem Codec.qpush : ∀ f, Codec.Statement (.qpush f) := by
  intro f r h
  cases h
  rfl

theorem Codec.qpop : ∀ f, Codec.Statement (.qpop f) := by
  intro f r h
  cases h
  rfl

theorem Codec.fput : ∀ f, Codec.Statement (.fput f) := by
  intro f r h
  cases h
  rfl

theorem Codec.fget : ∀ f, Codec.Statement (.fget f) := by
  intro f r h
  cases h
  rfl

theorem Codec.fcollAllreduce : ∀ f, Codec.Statement (.fcollAllreduce f) := by
  intro f r h
  cases h
  rfl

theorem Codec.fcollReduce : ∀ f, Codec.Statement (.fcollReduce f) := by
  intro f r h
  cases h
  rfl

theorem Codec.fcollBcast : ∀ f, Codec.Statement (.fcollBcast f) := by
  intro f r h
  cases h
  rfl

theorem Codec.fcollMcast : ∀ f, Codec.Statement (.fcollMcast f) := by
  intro f r h
  cases h
  rfl

theorem Codec.fcollAllgather : ∀ f, Codec.Statement (.fcollAllgather f) := by
  intro f r h
  cases h
  rfl

theorem Codec.dbgSetbrk : ∀ f, Codec.Statement (.dbgSetbrk f) := by
  intro f r h
  cases h
  rfl

theorem Codec.dbgClrbrk : ∀ f, Codec.Statement (.dbgClrbrk f) := by
  intro f r h
  cases h
  rfl

theorem Codec.dbgHalt : ∀ f, Codec.Statement (.dbgHalt f) := by
  intro f r h
  cases h
  rfl

theorem Codec.dbgResume : ∀ f, Codec.Statement (.dbgResume f) := by
  intro f r h
  cases h
  rfl

theorem Codec.dbgStep : ∀ f, Codec.Statement (.dbgStep f) := by
  intro f r h
  cases h
  rfl

theorem Codec.dbgWatch : ∀ f, Codec.Statement (.dbgWatch f) := by
  intro f r h
  cases h
  rfl

theorem Codec.dbgUnwatch : ∀ f, Codec.Statement (.dbgUnwatch f) := by
  intro f r h
  cases h
  rfl

theorem Codec.dbgRdreg : ∀ f, Codec.Statement (.dbgRdreg f) := by
  intro f r h
  cases h
  rfl

theorem Codec.dbgWrreg : ∀ f, Codec.Statement (.dbgWrreg f) := by
  intro f r h
  cases h
  rfl

theorem Codec.trcOn : ∀ f, Codec.Statement (.trcOn f) := by
  intro f r h
  cases h
  rfl

theorem Codec.trcOff : ∀ f, Codec.Statement (.trcOff f) := by
  intro f r h
  cases h
  rfl

theorem Codec.trcAnchor : ∀ f, Codec.Statement (.trcAnchor f) := by
  intro f r h
  cases h
  rfl

theorem Codec.trcMark : ∀ f, Codec.Statement (.trcMark f) := by
  intro f r h
  cases h
  rfl

theorem Codec.sampCfg : ∀ f, Codec.Statement (.sampCfg f) := by
  intro f r h
  cases h
  rfl

theorem Codec.sampStart : ∀ f, Codec.Statement (.sampStart f) := by
  intro f r h
  cases h
  rfl

theorem Codec.sampStop : ∀ f, Codec.Statement (.sampStop f) := by
  intro f r h
  cases h
  rfl

theorem Codec.sysTlbinv : ∀ f, Codec.Statement (.sysTlbinv f) := by
  intro f r h
  cases h
  rfl

theorem Codec.sysFeat : ∀ f, Codec.Statement (.sysFeat f) := by
  intro f r h
  cases h
  rfl

theorem Codec.runFetch : ∀ w, Codec.Statement (.runFetch w) := by
  intro w r h
  cases h

theorem Codec.runIssue : ∀ core sched cycles, Codec.Statement (.runIssue core sched cycles) := by
  intro core sched cycles r h
  cases h

theorem Codec.terminateComplete : ∀ w, Codec.Statement (.terminateComplete w) := by
  intro w r h
  cases h

theorem Codec.retireComplete : ∀ w, Codec.Statement (.retireComplete w) := by
  intro w r h
  cases h

theorem Codec.timer : ∀ w, Codec.Statement (.timer w) := by
  intro w r h
  cases h

theorem Codec.warpStop : ∀ w, Codec.Statement (.warpStop w) := by
  intro w r h
  cases h

theorem Codec.haltDeferTimeout : ∀ w, Codec.Statement (.haltDeferTimeout w) := by
  intro w r h
  cases h

theorem Codec.claimServe : ∀ core, Codec.Statement (.claimServe core) := by
  intro core r h
  cases h

theorem Codec.quotaArbiter : ∀ core, Codec.Statement (.quotaArbiter core) := by
  intro core r h
  cases h

theorem Codec.relayCopy : ∀ caravan pass track, Codec.Statement (.relayCopy caravan pass track) := by
  intro caravan pass track r h
  cases h

theorem Codec.caravanComplete : ∀ caravan, Codec.Statement (.caravanComplete caravan) := by
  intro caravan r h
  cases h

theorem Codec.sharedRegisterVisible : ∀ caravan index, Codec.Statement (.sharedRegisterVisible caravan index) := by
  intro caravan index r h
  cases h

theorem Codec.loadReturn : ∀ w load count, Codec.Statement (.loadReturn w load count) := by
  intro w load count r h
  cases h

theorem Codec.storeArrival : ∀ w store, Codec.Statement (.storeArrival w store) := by
  intro w store r h
  cases h

theorem Codec.storeAck : ∀ w store, Codec.Statement (.storeAck w store) := by
  intro w store r h
  cases h

theorem Codec.matrixQueueStart : ∀ core, Codec.Statement (.matrixQueueStart core) := by
  intro core r h
  cases h

theorem Codec.matrixOpComplete : ∀ core, Codec.Statement (.matrixOpComplete core) := by
  intro core r h
  cases h

theorem Codec.mwaitReturn : ∀ w, Codec.Statement (.mwaitReturn w) := by
  intro w r h
  cases h

theorem Codec.evwaitReturn : ∀ w, Codec.Statement (.evwaitReturn w) := by
  intro w r h
  cases h

theorem Codec.waitmWake : ∀ w, Codec.Statement (.waitmWake w) := by
  intro w r h
  cases h

theorem Codec.waitmTimeout : ∀ w, Codec.Statement (.waitmTimeout w) := by
  intro w r h
  cases h

theorem Codec.barRelease : ∀ w, Codec.Statement (.barRelease w) := by
  intro w r h
  cases h

theorem Codec.joinReturn : ∀ w, Codec.Statement (.joinReturn w) := by
  intro w r h
  cases h

theorem Codec.weightLoaderRun : ∀ core count, Codec.Statement (.weightLoaderRun core count) := by
  intro core count r h
  cases h

theorem Codec.copyEngineRun : ∀ core count, Codec.Statement (.copyEngineRun core count) := by
  intro core count r h
  cases h

theorem Codec.completionRecordQueue : ∀ unit place, Codec.Statement (.completionRecordQueue unit place) := by
  intro unit place r h
  cases h

theorem Codec.tableCopyWrite : ∀ core, Codec.Statement (.tableCopyWrite core) := by
  intro core r h
  cases h

theorem Codec.selectionUnitRun : ∀ cluster, Codec.Statement (.selectionUnitRun cluster) := by
  intro cluster r h
  cases h

theorem Codec.attentionEngineRun : ∀ cluster, Codec.Statement (.attentionEngineRun cluster) := by
  intro cluster r h
  cases h

theorem Codec.hold : ∀ cluster, Codec.Statement (.hold cluster) := by
  intro cluster r h
  cases h

theorem Codec.chainPrefetch : ∀ cluster ahead, Codec.Statement (.chainPrefetch cluster ahead) := by
  intro cluster ahead r h
  cases h

theorem Codec.pageMove : ∀ unit, Codec.Statement (.pageMove unit) := by
  intro unit r h
  cases h

theorem Codec.rateUpdate : ∀ cluster, Codec.Statement (.rateUpdate cluster) := by
  intro cluster r h
  cases h

theorem Codec.railSwitch : ∀ cluster rail, Codec.Statement (.railSwitch cluster rail) := by
  intro cluster rail r h
  cases h

theorem Codec.tableWalk : ∀ core ctx va, Codec.Statement (.tableWalk core ctx va) := by
  intro core ctx va r h
  cases h

theorem Codec.placement : ∀ die place, Codec.Statement (.placement die place) := by
  intro die place r h
  cases h

theorem Codec.tokenRefill : ∀ die ctx, Codec.Statement (.tokenRefill die ctx) := by
  intro die ctx r h
  cases h

theorem Codec.mailboxPost : ∀ ctx, Codec.Statement (.mailboxPost ctx) := by
  intro ctx r h
  cases h

theorem Codec.sampleRow : ∀ cluster timed, Codec.Statement (.sampleRow cluster timed) := by
  intro cluster timed r h
  cases h

theorem Codec.taggedRecord : ∀ cluster level cycles, Codec.Statement (.taggedRecord cluster level cycles) := by
  intro cluster level cycles r h
  cases h

theorem Codec.doorbell : ∀ ctx message, Codec.Statement (.doorbell ctx message) := by
  intro ctx message r h
  cases h

theorem Codec.nop : ∀ queue, Codec.Statement (.nop queue) := by
  intro queue r h
  cases h

theorem Codec.launch : ∀ queue, Codec.Statement (.launch queue) := by
  intro queue r h
  cases h

theorem Codec.copy : ∀ queue, Codec.Statement (.copy queue) := by
  intro queue r h
  cases h

theorem Codec.signal : ∀ queue, Codec.Statement (.signal queue) := by
  intro queue r h
  cases h

theorem Codec.ctxload : ∀ queue, Codec.Statement (.ctxload queue) := by
  intro queue r h
  cases h

theorem Codec.ctxfree : ∀ queue, Codec.Statement (.ctxfree queue) := by
  intro queue r h
  cases h

theorem Codec.qbind : ∀ queue, Codec.Statement (.qbind queue) := by
  intro queue r h
  cases h

theorem Codec.partition : ∀ queue, Codec.Statement (.partition queue) := by
  intro queue r h
  cases h

theorem Codec.tqbind : ∀ queue, Codec.Statement (.tqbind queue) := by
  intro queue r h
  cases h

theorem Codec.tqflush : ∀ queue, Codec.Statement (.tqflush queue) := by
  intro queue r h
  cases h

theorem Codec.tqunbind : ∀ queue, Codec.Statement (.tqunbind queue) := by
  intro queue r h
  cases h

theorem Codec.resolve : ∀ queue, Codec.Statement (.resolve queue) := by
  intro queue r h
  cases h

theorem Codec.preempt : ∀ queue, Codec.Statement (.preempt queue) := by
  intro queue r h
  cases h

theorem Codec.resume : ∀ queue, Codec.Statement (.resume queue) := by
  intro queue r h
  cases h

theorem Codec.attach : ∀ queue, Codec.Statement (.attach queue) := by
  intro queue r h
  cases h

theorem Codec.abort : ∀ queue, Codec.Statement (.abort queue) := by
  intro queue r h
  cases h

theorem Codec.launchComplete : ∀ launch, Codec.Statement (.launchComplete launch) := by
  intro launch r h
  cases h

theorem Codec.arbiterVisit : ∀ die, Codec.Statement (.arbiterVisit die) := by
  intro die r h
  cases h

theorem Codec.dispatch : ∀ taskQueue, Codec.Statement (.dispatch taskQueue) := by
  intro taskQueue r h
  cases h

theorem Codec.engineStop : ∀ unit amount, Codec.Statement (.engineStop unit amount) := by
  intro unit amount r h
  cases h

theorem Codec.powerOn : ∀ input, Codec.Statement (.powerOn input) := by
  intro input r h
  cases h

theorem Codec.supplyVoltageFault : ∀ duration, Codec.Statement (.supplyVoltageFault duration) := by
  intro duration r h
  cases h

theorem Codec.clockGlitch : Codec.Statement .clockGlitch := by
  intro r h
  cases h

theorem Codec.tamper : Codec.Statement .tamper := by
  intro r h
  cases h

theorem Codec.quoteRequest : ∀ nonce, Codec.Statement (.quoteRequest nonce) := by
  intro nonce r h
  cases h

theorem Codec.featAcceptWrite : ∀ mask, Codec.Statement (.featAcceptWrite mask) := by
  intro mask r h
  cases h

theorem Codec.headroomUpdate : ∀ total loads, Codec.Statement (.headroomUpdate total loads) := by
  intro total loads r h
  cases h

theorem Codec.put : ∀ secure ctx va bytes, Codec.Statement (.put secure ctx va bytes) := by
  intro secure ctx va bytes r h
  cases h

theorem Codec.get : ∀ secure ctx va length, Codec.Statement (.get secure ctx va length) := by
  intro secure ctx va length r h
  cases h

theorem Codec.unreliablePacket : Codec.Statement .unreliablePacket := by
  intro r h
  cases h

theorem Codec.contributionArrival : ∀ partition convoy child seq c, Codec.Statement (.contributionArrival partition convoy child seq c) := by
  intro partition convoy child seq c r h
  cases h

theorem Codec.collectiveResult : ∀ partition convoy arrival, Codec.Statement (.collectiveResult partition convoy arrival) := by
  intro partition convoy arrival r h
  cases h

theorem Codec.peerTableWrite : ∀ partition index words, Codec.Statement (.peerTableWrite partition index words) := by
  intro partition index words r h
  cases h

theorem Codec.convoyTableWrite : ∀ partition index words, Codec.Statement (.convoyTableWrite partition index words) := by
  intro partition index words r h
  cases h

theorem Codec.capWrite : ∀ cluster value, Codec.Statement (.capWrite cluster value) := by
  intro cluster value r h
  cases h

theorem Codec.powerBlockWrite : ∀ cluster register value, Codec.Statement (.powerBlockWrite cluster register value) := by
  intro cluster register value r h
  cases h

theorem Codec.peerDown : ∀ partition peer, Codec.Statement (.peerDown partition peer) := by
  intro partition peer r h
  cases h

theorem Codec.peerReturn : ∀ partition peer, Codec.Statement (.peerReturn partition peer) := by
  intro partition peer r h
  cases h

theorem Codec.fabricEngineRun : ∀ cluster place reply, Codec.Statement (.fabricEngineRun cluster place reply) := by
  intro cluster place reply r h
  cases h

theorem Codec.restart : ∀ input, Codec.Statement (.restart input) := by
  intro input r h
  cases h

end Sys2Proof.Laws
end

