-- ==== Sys2Proof/Laws/Results.lean ====
section
/-! SUPPORT. What the shared frames of the meanings leave behind, in the terms of Safety. -/

namespace Sys2Proof.Machine

/-! ### Completing an instruction -/

/-- A change of the current warp's entry leaves everything else. -/
theorem onlyCurrent_setWarp (s : State) (x : Warp) : OnlyCurrent s (s.setWarp s.cur x) :=
  ⟨rfl, fun id h => State.warp?_setWarp_other s s.cur id x h, fun _ => rfl⟩

theorem onlyCurrent_finish (s : State) (x : Warp) : OnlyCurrent s (s.finish x) := onlyCurrent_setWarp s _

theorem curWarp_finish (s : State) (x : Warp) : (s.finish x).curWarp = some x.advance := by simp [State.finish]

/-- Where a warp stands that an instruction has not moved: its run, its place in it and its loads. -/
structure SamePlace (w x : Warp) : Prop where
  run : x.run = w.run
  idx : x.idx = w.idx
  pos : x.pos = w.pos
  next : x.next = w.next
  loads : x.loads = w.loads

theorem SamePlace.lastOfRun {w x : Warp} (h : SamePlace w x) : x.lastOfRun = w.lastOfRun := by
  simp [Warp.lastOfRun, h.run, h.idx]

theorem SamePlace.instrWords {w x : Warp} (h : SamePlace w x) : x.instrWords = w.instrWords := by
  simp [Warp.instrWords, h.run, h.pos]

theorem SamePlace.after {w x : Warp} (h : SamePlace w x) : x.after = w.after := by
  simp [Warp.after, Warp.here, h.run, h.pos, h.next, h.instrWords]

theorem SamePlace.movedOn {w x : Warp} (h : SamePlace w x) : MovedOn w x.advance := by
  refine ⟨fun hl => ?_, fun hl => ?_⟩
  · simp [Warp.advance, h.lastOfRun, hl, h.run, h.idx, h.pos, h.instrWords, h.loads]
  · simp [Warp.advance, h.lastOfRun, hl, h.after, h.loads]

theorem SamePlace.sameTemps {w x : Warp} (h : SamePlace w x) (ht : x.temps = w.temps) (hw : x.wroteTemps = w.wroteTemps) :
    SameTemps w x.advance := by
  refine ⟨fun hl => ?_, fun hl => ?_⟩ <;> simp [Warp.advance, h.lastOfRun, hl, ht, hw]

theorem SamePlace.sameLatches {w x : Warp} (h : SamePlace w x) (h1 : x.wmaxLatch = w.wmaxLatch)
    (h2 : x.horizonLatch = w.horizonLatch) (h3 : x.baseLatch = w.baseLatch) (h4 : x.readLow = w.readLow) :
    SameLatches w x.advance := by
  refine ⟨by simp [h1, h2, h3], fun hl => ?_, fun hl => ?_⟩ <;> simp [Warp.advance, h.lastOfRun, hl, h4]

theorem setS_samePlace (w : Warp) (r : BitVec 6) (v : Word) : SamePlace w (w.setS r v) := by
  constructor <;> simp

/-- What a completed instruction leaves of its warp when it changes registers only. -/
theorem keeps_setS (w : Warp) (r : BitVec 6) (v : Word) : Keeps w (w.setS r v).advance where
  identity := by constructor <;> simp
  specials := by constructor <;> simp
  latches := (setS_samePlace w r v).sameLatches (by simp) (by simp) (by simp) (by simp)
  stack := by constructor <;> simp
  units := by constructor <;> simp
  moved := (setS_samePlace w r v).movedOn

theorem fixed_iff (d : BitVec 6) : Fixed d ↔ 56 ≤ d.toNat ∧ d.toNat ≤ 59 := by
  simp only [Fixed, isFixed, Bool.and_eq_true, decide_eq_true_eq]

theorem writesScalar_setS (w : Warp) (r : BitVec 6) (v : Word) : WritesScalar w (w.setS r v).advance r v where
  scalars := fun q => by simp only [Warp.advance_sreg, Warp.sreg_setS, fixed_iff]
  tinfo := by simp only [Warp.advance_tinfo, Warp.setS_tinfo, fixed_iff]

/-- An instruction that writes one scalar register and completes. -/
theorem scalarResult_finish {s : State} {w : Warp} (d : BitVec 6) (v : Word) :
    ScalarResult s w (s.finish (w.setS d v)) d v where
  only := onlyCurrent_finish s _
  warp := ⟨_, curWarp_finish s _, writesScalar_setS w d v, by constructor <;> simp,
    (setS_samePlace w d v).sameTemps (by simp) (by simp), by simp, keeps_setS w d v⟩

theorem aluReg_result {s : State} {w : Warp} (op : BitVec 7) (g : Word → Word → Word) (d a b : BitVec 6)
    (hw : s.curWarp = some w) (h : operandsOk (.s op d a 0 ((0 : BitVec 6) ++ b)) (s.tracksOf w) = true) :
    ∃ t, aluReg op g d a b s = .next t ∧ ScalarResult s w t d (g (w.sreg a) (w.sreg b)) :=
  ⟨_, checked_plain hw h rfl rfl, scalarResult_finish d _⟩

theorem aluImm_result {s : State} {w : Warp} (op : BitVec 7) (g : Word → Word → Word) (ext : BitVec 12 → Word)
    (d a : BitVec 6) (imm : BitVec 12) (hw : s.curWarp = some w)
    (h : operandsOk (.s op d a 1 imm) (s.tracksOf w) = true) :
    ∃ t, aluImm op g ext d a imm s = .next t ∧ ScalarResult s w t d (g (w.sreg a) (ext imm)) :=
  ⟨_, checked_plain hw h rfl rfl, scalarResult_finish d _⟩

theorem aluOne_result {s : State} {w : Warp} (op : BitVec 7) (g : Word → Word) (d a : BitVec 6)
    (hw : s.curWarp = some w) (h : operandsOk (.s op d a 0 0) (s.tracksOf w) = true) :
    ∃ t, aluOne op g d a s = .next t ∧ ScalarResult s w t d (g (w.sreg a)) :=
  ⟨_, checked_plain hw h rfl rfl, scalarResult_finish d _⟩

/-! ### Register pairs -/

theorem Warp.setPair_eq (w : Warp) (d : BitVec 6) (v : DWord) :
    w.setPair d v = (w.setS d (v.extractLsb' 0 32)).setS (d + 1) (v.extractLsb' 32 32) := rfl

/-- The half above an even register is as fixed as it is, and never s0. -/
theorem even_succ (d : BitVec 6) (h : d.getLsbD 0 = false) : d + 1 ≠ 0 ∧ d + 1 ≠ d ∧ (Fixed (d + 1) ↔ Fixed d) := by
  revert h; revert d; decide

theorem writesPair_setPair (w : Warp) (d : BitVec 6) (v : DWord) (h : d.getLsbD 0 = false) :
    WritesPair w (w.setPair d v).advance d v := by
  obtain ⟨h0, h1, hf⟩ := even_succ d h
  refine ⟨fun r => ?_, ?_⟩
  · simp only [Warp.advance_sreg, Warp.setPair_eq, Warp.sreg_setS, ← fixed_iff, hf]
    by_cases ha : r = d + 1
    · subst ha; simp only [h1, h0, false_and, if_false, ne_eq, not_false_eq_true, true_and]
    · simp only [ha, false_and, if_false]
  · simp only [Warp.advance_tinfo, Warp.setPair_eq, Warp.setS_tinfo, ← fixed_iff, hf]
    split
    · rw [BitVec.or_assoc]; rfl
    · rfl

/-- An instruction that writes one register pair and completes. -/
theorem pairResult_finish {s : State} {w : Warp} (d : BitVec 6) (v : DWord) (h : d.getLsbD 0 = false) :
    PairResult s w (s.finish (w.setPair d v)) d v where
  only := onlyCurrent_finish s _
  warp := by
    have hp : SamePlace w (w.setPair d v) := by constructor <;> simp [Warp.setPair_eq]
    refine ⟨_, curWarp_finish s _, writesPair_setPair w d v h, ?_, hp.sameTemps ?_ ?_, ?_, ?_⟩
    · constructor <;> simp [Warp.setPair_eq]
    · simp [Warp.setPair_eq]
    · simp [Warp.setPair_eq]
    · simp [Warp.setPair_eq]
    · refine ⟨?_, ?_, hp.sameLatches ?_ ?_ ?_ ?_, ?_, ?_, hp.movedOn⟩
      · constructor <;> simp [Warp.setPair_eq]
      · constructor <;> simp [Warp.setPair_eq]
      · simp [Warp.setPair_eq]
      · simp [Warp.setPair_eq]
      · simp [Warp.setPair_eq]
      · simp [Warp.setPair_eq]
      · constructor <;> simp [Warp.setPair_eq]
      · constructor <;> simp [Warp.setPair_eq]

end Sys2Proof.Machine
end

