-- ==== Sys2Proof/Laws/Traps.lean ====
section
/-! SUPPORT. What taking an exception does (R161, R166). -/

namespace Sys2Proof.Machine

theorem TrapFields.apply_written (f : TrapFields) (x : Word) : f.apply x &&& f.mask = f.value &&& f.mask := by
  simp only [TrapFields.apply]; ext i; simp; cases x[i] <;> cases f.mask[i] <;> cases f.value[i] <;> rfl

theorem TrapFields.apply_kept (f : TrapFields) (x : Word) : f.apply x &&& ~~~(f.mask ||| 2) = x &&& ~~~(f.mask ||| 2) := by
  simp only [TrapFields.apply]; ext i; simp; cases x[i] <;> cases f.mask[i] <;> cases f.value[i] <;> simp

/-- A trace record changes nothing of a warp but its trace. -/
theorem Warp.traceAdd_trace (w : Warp) (now kind : Nat) (p : List Byte) :
    ∃ tr, w.traceAdd now kind p = { w with trace := tr } := by
  unfold Warp.traceAdd
  repeat' split
  all_goals exact ⟨_, rfl⟩

theorem pmask_written (x : Word) (b : Bool) : ((x &&& ~~~(2 : Word)) ||| (if b then 2 else 0)).getLsbD 1 = b := by
  cases b <;> simp

theorem bit_of_two (i : Nat) (h : i < 32) (h1 : i ≠ 1) :
    (2 : Word).getLsbD i = false ∧ (~~~(2 : Word)).getLsbD i = true := by
  revert h h1; revert i; decide

theorem pmask_and (x m : Word) (b : Bool) (h : m.getLsbD 1 = false) :
    ((x &&& ~~~(2 : Word)) ||| (if b then 2 else 0)) &&& m = x &&& m := by
  refine BitVec.eq_of_getLsbD_eq fun i hi => ?_
  by_cases h1 : i = 1
  · subst h1; rw [BitVec.getLsbD_and, BitVec.getLsbD_and, h, Bool.and_false, Bool.and_false]
  · obtain ⟨h2, h3⟩ := bit_of_two i hi h1
    have h0 : (0 : Word).getLsbD i = false := BitVec.getLsbD_zero
    cases b <;> simp only [BitVec.getLsbD_and, BitVec.getLsbD_or, h0, h2, h3, if_true, Bool.false_eq_true, if_false,
      Bool.and_true, Bool.or_false]

/-- Noting a deferral changes nothing else of a warp. -/
theorem noteDeferral_only (s : State) (w : Warp) : ∃ d, s.noteDeferral w = { w with wasDeferred := d } := ⟨_, rfl⟩

/-- A cause with a handler enters it where one is installed and none is active. -/
theorem enter_entered {s : State} {w : Warp} {cause : Cause} (run : Nat) (idx : Word) (f : TrapFields) (hf : HandlerFree w)
    (hm : f.mask.getLsbD 1 = false) (hh : cause.hasHandler = true) :
    Entered s w (s.enter s.cur w cause run idx f) cause.code.toNat run idx f.mask (f.value &&& f.mask) := by
  unfold State.enter
  rw [if_neg (fun h => hf.installed h.1)]
  simp only [hh, hf.inactive, hf.installed, if_false, Bool.true_eq_false, Bool.false_eq_true]
  obtain ⟨d, hd⟩ := noteDeferral_only s
    { (w.writeCause cause run idx f).keepMask with
      handlerActive := true, trapMask := true, readLowHeld := (w.writeCause cause run idx f).readLow }
  rw [hd]
  obtain ⟨tr, ht⟩ := Warp.traceAdd_trace _ _ _ _
  rw [ht]
  refine ⟨onlyCurrent_setWarp s _, _, State.curWarp_setWarp_cur s _, ⟨?_, rfl, rfl, ?_, ?_⟩, ?_, rfl, rfl, rfl, rfl, rfl, rfl,
    rfl, ?_, ?_, ?_, ?_, ?_, rfl, rfl, rfl, rfl, rfl, rfl⟩
  · cases cause <;> rfl
  · exact (pmask_and _ _ _ hm).trans (f.apply_written w.tinfo)
  · exact (pmask_and _ _ _ (by simp)).trans (f.apply_kept w.tinfo)
  · exact pmask_written _ _
  · constructor <;> rfl
  · intro r; rfl
  · constructor <;> rfl
  · constructor <;> rfl
  · constructor <;> rfl

/-- A cause that cannot be handled ends the warp, where its context is not flagged halt-on-fault. -/
theorem terminate_terminates {s : State} {w : Warp} {cause : Cause} (run : Nat) (idx : Word) (f : TrapFields) (how : Ending)
    (hc : NoHaltOnFault s w) :
    Terminates s w (s.terminate s.cur (w.writeCause cause run idx f) how) cause.code.toNat run idx f.mask (f.value &&& f.mask)
      how := by
  have he : s.terminate s.cur (w.writeCause cause run idx f) how =
      s.setWarp s.cur { w.writeCause cause run idx f with phase := .terminating how, active := false } := by
    unfold State.terminate
    split
    · rename_i c h; rw [if_neg (by simp [hc c h])]
    · rfl
  rw [he]
  refine ⟨onlyCurrent_setWarp s _, _, State.curWarp_setWarp_cur s _, ⟨?_, rfl, rfl, f.apply_written _, f.apply_kept _⟩, rfl,
    rfl, ?_, ?_, ?_, ?_, ?_⟩
  · cases cause <;> rfl
  · constructor <;> rfl
  · intro r; rfl
  · constructor <;> rfl
  · constructor <;> rfl
  · constructor <;> rfl

/-- A trap inside a handler, or with none installed, of a cause that is not maskable. -/
theorem enter_fatal {s : State} {w : Warp} {cause : Cause} (run : Nat) (idx : Word) (f : TrapFields)
    (hf : w.handlerActive = true ∨ w.tvec = 0) (hm : cause.maskable = false) (hh : cause.hasHandler = true) :
    s.enter s.cur w cause run idx f =
      s.terminate s.cur (w.writeCause cause run idx f) ⟨cause.code, w.handlerActive, !w.handlerActive, false⟩ := by
  unfold State.enter
  simp only [hm, hh, Bool.false_eq_true, and_false, if_false, Bool.true_eq_false]
  by_cases ha : w.handlerActive = true
  · simp [ha]
  · rcases hf with h | h
    · exact absurd h ha
    · simp [ha, h]

/-- A cause without a handler. -/
theorem enter_unhandled {s : State} {w : Warp} {cause : Cause} (run : Nat) (idx : Word) (f : TrapFields)
    (hm : cause.maskable = false) (hh : cause.hasHandler = false) :
    s.enter s.cur w cause run idx f = s.terminate s.cur (w.writeCause cause run idx f) ⟨cause.code, false, false, false⟩ := by
  unfold State.enter
  simp [hm, hh]

end Sys2Proof.Machine
end

