-- ==== Sys2Proof/Laws/Vector.lean ====
section
/-! SUPPORT. What the frames of the per-thread instructions do (R57, R114): a vector destination, a predicate, a scalar. -/

namespace Sys2Proof.Machine

/-! ### Flags -/

theorem foldl_or_getLsbD (l : List Nat) (f : Nat → Flags) (a : Flags) (b : Nat) :
    (l.foldl (fun acc t => acc ||| f t) a).getLsbD b = (a.getLsbD b || l.any fun t => (f t).getLsbD b) := by
  induction l generalizing a with
  | nil => simp
  | cons x l ih => simp [ih, Bool.or_assoc]

theorem flagsOver_getLsbD (take : BitVec 96) (f : Nat → Flags) (b : Nat) :
    (flagsOver take f).getLsbD b = (List.range 96).any fun t => take.getLsbD t && (f t).getLsbD b := by
  rw [flagsOver, foldl_or_getLsbD, threadsOf, List.any_filter]
  simp

theorem flagsRaised_or (w x : Warp) (take : BitVec 96) (f : Nat → Flags) (h : x.flags = w.flags ||| flagsOver take f) :
    FlagsRaised w x take f := fun b => by
  rw [h, BitVec.getLsbD_or, flagsOver_getLsbD]

/-! ### Codes (R28) -/

theorem codeOf_eq (c : BitVec 8) :
    codeOf c = if c.toNat < 0x78 then .v c.toNat else if c.toNat < 0x7C then .t (c.toNat - 0x78)
      else if c.toNat = 0x7C then .none else if c.toNat = 0x7F then .broadcast else if c.toNat < 0x80 then .reserved
      else .h ((c.toNat - 0x80) / 8) ((c.toNat - 0x80) % 8) := rfl

/-- A destination names a register of its own, a temporary or the pass's value of a declared track. -/
theorem dst_cases {r : Role} {tracks : Nat} {c : BitVec 8} (hr : r = .dst ∨ r = .dstLocal) (h : r.admits tracks c = true) :
    (∃ n, codeOf c = .v n) ∨ (∃ k, codeOf c = .t k) ∨ ∃ k, codeOf c = .h k 0 ∧ k < tracks := by
  unfold Role.admits at h
  rcases hr with rfl | rfl <;>
  cases hc : codeOf c <;> simp [hc] at h <;> simp_all

theorem codeOf_inj {c d : BitVec 8} {x : Code} (hc : codeOf c = x) (hd : codeOf d = x) (hx : x ≠ .reserved) : c = d := by
  apply BitVec.eq_of_toNat_eq
  have h1 := c.isLt
  have h2 := d.isLt
  rw [codeOf_eq] at hc hd
  split_ifs at hc hd <;> subst hc <;>
    first
      | omega
      | exact absurd rfl hx
      | (simp only [Code.v.injEq, Code.t.injEq, Code.h.injEq, reduceCtorEq] at hd <;> omega)

/-! ### Reading after a write -/

theorem lane_mergeLanes (old : Lanes) (take : BitVec 96) (f : Nat → Word) (t : Nat) (h : t < 96) :
    lane (mergeLanes old take f) t = if take.getLsbD t then f t else lane old t := lane_lanesOf _ t h

theorem take_of_zero (take : BitVec 96) (h : take = 0) (t : Nat) : take.getLsbD t = false := by subst h; simp

/-- A code that reads nothing a write of a vector register or temporary touches reads as before. -/
theorem source_same {s t : State} {w x : Warp} {c : BitVec 8} {sb : BitVec 6} (hc : t.caravans = s.caravans)
    (hcar : x.caravan = w.caravan) (hpass : x.pass = w.pass) (hs : SameScalars w x)
    (hv : ∀ n, codeOf c = .v n → listGet [] x.vregs n = listGet [] w.vregs n)
    (ht : ∀ k, codeOf c = .t k → listGet [] x.temps k = listGet [] w.temps k) (th : Nat) :
    t.source x c sb th = s.source w c sb th := by
  unfold State.source
  cases h : codeOf c with
  | v n => simp only [hv n h]
  | t k => simp only [ht k h]
  | broadcast => exact hs sb
  | h k d => simp only [State.caravan?, hc, hcar, hpass]
  | none => rfl
  | reserved => rfl

theorem isTemp_of_code {c : BitVec 8} {k : Nat} (h : codeOf c = .t k) : isTemp c = true := by
  rw [codeOf_eq] at h
  split_ifs at h
  simp only [isTemp, Bool.and_eq_true, decide_eq_true_eq]
  omega

theorem isHandoff_of_code {c : BitVec 8} : isHandoff c = true ↔ ∃ k d, codeOf c = .h k d := by
  rw [codeOf_eq, isHandoff, decide_eq_true_eq]
  split_ifs <;> simp <;> omega

/-- A write of a register of the warp's own, carried on to where the instruction leaves the warp. -/
theorem written_setVector {s t : State} {w x : Warp} {vd : BitVec 8} (take : BitVec 96) (f : Nat → Word)
    (hc : t.caravans = s.caravans) (hcar : x.caravan = w.caravan) (hpass : x.pass = w.pass) (hs : SameScalars w x)
    (hv : x.vregs = (w.setVector vd take f).vregs)
    (ht : w.lastOfRun = false → x.temps = (w.setVector vd take f).temps)
    (hvd : (∃ n, codeOf vd = .v n) ∨ ∃ k, codeOf vd = .t k) : VectorWritten s w t x vd take f := by
  by_cases h0 : take = 0
  · have hz : ∀ g : Nat → Word, w.setVector vd take g = w := fun g => by simp [Warp.setVector, h0]
    rw [hz] at hv ht
    have same : ∀ c sb th, Lasts w c → t.source x c sb th = s.source w c sb th := fun c sb th hl =>
      source_same hc hcar hpass hs (fun n _ => by rw [hv]) (fun k hk => by rw [ht (hl (isTemp_of_code hk))]) th
    exact ⟨fun th _ hl => by rw [take_of_zero take h0, if_neg (by simp)]; exact same vd 0 th hl,
      fun c sb th _ _ hl => same c sb th hl⟩
  · rcases hvd with ⟨n, hn⟩ | ⟨k, hk⟩
    · have he : w.setVector vd take f =
          { w with vregs := listPut [] w.vregs n (mergeLanes (listGet [] w.vregs n) take f) } := by
        unfold Warp.setVector; rw [if_neg h0, hn]
      rw [he] at hv ht
      refine ⟨fun th hth _ => ?_, fun c sb th hne hth hl => ?_⟩
      · simp only [State.source, hn, hv, listGet_put_same, lane_mergeLanes _ _ _ _ hth]
      · refine source_same hc hcar hpass hs (fun m hm => ?_) (fun k hk => by rw [ht (hl (isTemp_of_code hk))]) th
        have : m ≠ n := fun e => hne (codeOf_inj hm (e ▸ hn) (by simp))
        rw [hv, listGet_put_other _ _ _ _ _ this]
    · have he : w.setVector vd take f =
          { w with temps := listPut [] w.temps k (mergeLanes (listGet [] w.temps k) take f),
                   wroteTemps := w.wroteTemps ||| BitVec.ofNat 4 (2 ^ k) } := by
        unfold Warp.setVector; rw [if_neg h0, hk]
      rw [he] at hv ht
      refine ⟨fun th hth hl => ?_, fun c sb th hne hth hl => ?_⟩
      · simp only [State.source, hk, ht (hl (isTemp_of_code hk)), listGet_put_same, lane_mergeLanes _ _ _ _ hth]
      · refine source_same hc hcar hpass hs (fun m hm => by rw [hv]) (fun j hj => ?_) th
        have : j ≠ k := fun e => hne (codeOf_inj hj (e ▸ hk) (by simp))
        rw [ht (hl (isTemp_of_code hj)), listGet_put_other _ _ _ _ _ this]

/-! ### Handoff tracks (R185, R187) -/

@[simp] theorem Caravan.setSlot_initial (c : Caravan) (k i : Nat) (x : Slot) : (c.setSlot k i x).initial = c.initial := rfl
@[simp] theorem Caravan.setSlot_wrote (c : Caravan) (k i : Nat) (x : Slot) : (c.setSlot k i x).wrote = c.wrote := rfl
@[simp] theorem Caravan.markWrote_initial (c : Caravan) (j k : Nat) : (c.markWrote j k).initial = c.initial := rfl
@[simp] theorem Caravan.markWrote_tracks (c : Caravan) (j k : Nat) : (c.markWrote j k).tracks = c.tracks := rfl
@[simp] theorem Caravan.slot_markWrote (c : Caravan) (j k q i : Nat) : (c.markWrote j k).slot q i = c.slot q i := rfl

theorem Caravan.slot_setSlot (c : Caravan) (k i q l : Nat) (x : Slot) :
    (c.setSlot k i x).slot q l = if q = k ∧ l % 16 = i % 16 then x else c.slot q l := by
  simp only [Caravan.slot, Caravan.setSlot, listGet_put]
  by_cases hq : q = k
  · subst hq; by_cases hl : l % 16 = i % 16 <;> simp [hl, listGet_put]
  · simp [hq]

theorem Caravan.wroteTrack_markWrote (c : Caravan) (j k q : Nat) (hk : k < 16) :
    (c.markWrote j k).wroteTrack j q = (c.wroteTrack j q || decide (q = k)) := by
  simp only [Caravan.wroteTrack, Caravan.markWrote, Tbl.findD_put_same, BitVec.getLsbD_or]
  congr 1
  rw [BitVec.getLsbD_ofNat, Nat.testBit_two_pow]
  by_cases h : k = q
  · subst h; simp [hk]
  · simp [h, Ne.symm h]

/-- What a track reads as after the pass has written it. -/
theorem Caravan.readTrack_writeTrack_same (c : Caravan) (k j : Nat) (take : BitVec 96) (f : Nat → Word) (p : Bool) (hk : k < 16)
    (hw : c.wroteTrack j k = false) (th : Nat) (hth : th < 96) :
    lane ((c.writeTrack k j take f p).readTrack k j 0) th =
      if take.getLsbD th then f th else lane (c.readTrack k j 0) th := by
  have h1 : (c.writeTrack k j take f p).wroteTrack j k = true := by
    rw [Caravan.writeTrack, Caravan.wroteTrack_markWrote _ _ _ _ hk]; simp
  have h2 : c.readTrack k j 0 = c.passValue k j 1 := by simp [Caravan.readTrack, hw]
  have h3 : (c.writeTrack k j take f p).readTrack k j 0 =
      lanesOf fun t => if take.getLsbD t then f t else lane (c.passValue k j 1) t := by
    unfold Caravan.readTrack
    rw [if_neg (by simp [h1])]
    simp only [Caravan.passValue, Nat.not_lt_zero, if_false, Nat.sub_zero, Caravan.writeTrack, Caravan.slot_markWrote,
      Caravan.slot_setSlot, and_self, if_true]
  rw [h3, h2, lane_lanesOf _ _ hth]

/-- No other handoff code of the pass reads differently. -/
theorem Caravan.readTrack_writeTrack_other (c : Caravan) (k j q d : Nat) (take : BitVec 96) (f : Nat → Word) (p : Bool)
    (hk : k < 16) (hd : d < 8) (h : ¬(q = k ∧ d = 0)) : (c.writeTrack k j take f p).readTrack q j d = c.readTrack q j d := by
  have hv : ∀ e, e < 8 → ¬(q = k ∧ e = 0) → (c.writeTrack k j take f p).passValue q j e = c.passValue q j e := by
    intro e he hne
    simp only [Caravan.passValue, Caravan.writeTrack, Caravan.markWrote_initial, Caravan.setSlot_initial,
      Caravan.slot_markWrote, Caravan.slot_setSlot]
    split
    · rfl
    · rw [if_neg]
      rintro ⟨rfl, hm⟩
      have : e ≠ 0 := fun h0 => hne ⟨rfl, h0⟩
      omega
  have hw : d = 0 → (c.writeTrack k j take f p).wroteTrack j q = c.wroteTrack j q := by
    intro h0
    rw [Caravan.writeTrack, Caravan.wroteTrack_markWrote _ _ _ _ hk]
    have : q ≠ k := fun hq => h ⟨hq, h0⟩
    simp [this, Caravan.wroteTrack]
  unfold Caravan.readTrack
  by_cases h0 : d = 0
  · subst h0
    rw [hw rfl, hv 0 hd h, hv 1 (by omega) (by omega)]
  · simp only [h0, false_and, if_false]
    exact hv d hd h

theorem handoff_bounds {c : BitVec 8} {k d : Nat} (h : codeOf c = .h k d) : k < 16 ∧ d < 8 := by
  have := c.isLt
  rw [codeOf_eq] at h
  split_ifs at h
  simp only [Code.h.injEq] at h
  omega

/-- The state after the pass has written a track. -/
theorem written_track {s t : State} {w x : Warp} {vd : BitVec 8} (take : BitVec 96) (f : Nat → Word) {k : Nat} {c : Caravan}
    (hvd : codeOf vd = .h k 0) (hcv : s.caravan? w.caravan = some c) (hno : c.wroteTrack w.pass k = false)
    (hc : t.caravan? w.caravan = some (c.writeTrack k w.pass take f true)) (hcar : x.caravan = w.caravan)
    (hpass : x.pass = w.pass) (hs : SameScalars w x) (hv : x.vregs = w.vregs)
    (ht : w.lastOfRun = false → x.temps = w.temps) : VectorWritten s w t x vd take f := by
  obtain ⟨hk, -⟩ := handoff_bounds hvd
  refine ⟨fun th hth _ => ?_, fun q sb th hne hth hl => ?_⟩
  · simp only [State.source, hvd, hcv, hc, hcar, hpass]
    exact c.readTrack_writeTrack_same k w.pass take f true hk hno th hth
  · unfold State.source
    cases hq : codeOf q with
    | v n => simp only [hv]
    | t k => simp only [ht (hl (isTemp_of_code hq))]
    | broadcast => exact hs sb
    | h q' d =>
      obtain ⟨-, hd⟩ := handoff_bounds hq
      simp only [hcar, hpass, hcv, hc]
      rw [c.readTrack_writeTrack_other k w.pass q' d take f true hk hd]
      rintro ⟨rfl, rfl⟩
      exact hne (codeOf_inj hq hvd (by simp))
    | none => rfl
    | reserved => rfl

/-! ### The frame of a vector destination -/

theorem setVector_place (w : Warp) (c : BitVec 8) (take : BitVec 96) (f : Nat → Word) :
    ∃ v t m, w.setVector c take f = { w with vregs := v, temps := t, wroteTemps := m } := by
  unfold Warp.setVector
  split
  · exact ⟨w.vregs, w.temps, w.wroteTemps, rfl⟩
  · split
    · exact ⟨_, w.temps, w.wroteTemps, rfl⟩
    · exact ⟨w.vregs, _, _, rfl⟩
    · exact ⟨w.vregs, w.temps, w.wroteTemps, rfl⟩

/-- A warp whose vector registers, temporaries, predicates and flags alone have changed has kept the rest when its instruction is
complete. -/
theorem keeps_data (w : Warp) (v : List Lanes) (t : List Lanes) (p : List (BitVec 96)) (m : BitVec 4) (fl : Flags) :
    Keeps w ({ w with vregs := v, temps := t, preds := p, wroteTemps := m, flags := fl } : Warp).advance where
  identity := by constructor <;> simp
  specials := by constructor <;> simp
  latches := SamePlace.sameLatches ⟨rfl, rfl, rfl, rfl, rfl⟩ rfl rfl rfl rfl
  stack := by constructor <;> simp
  units := by constructor <;> simp
  moved := SamePlace.movedOn ⟨rfl, rfl, rfl, rfl, rfl⟩

theorem advance_temps_within (x : Warp) (h : x.lastOfRun = false) : x.advance.temps = x.temps := by
  rw [Warp.advance_within h]

theorem finishCur_of {s : State} {x : Warp} (h : s.warp? s.cur = some x) : s.finishCur = s.setWarp s.cur x.advance := by
  unfold State.finishCur State.updWarp
  rw [h]

theorem updWarp_of {s : State} {x : Warp} {id : Nat} (g : Warp → Warp) (h : s.warp? id = some x) :
    s.updWarp id g = s.setWarp id (g x) := by
  unfold State.updWarp
  rw [h]

theorem writeVector_own {s : State} {w : Warp} {c : BitVec 8} (take : BitVec 96) (g : Nat → Word) (hw : s.warp? s.cur = some w)
    (hc : (∃ n, codeOf c = .v n) ∨ ∃ k, codeOf c = .t k) :
    s.writeVector s.cur c take g = s.setWarp s.cur (w.setVector c take g) := by
  unfold State.writeVector
  rw [hw]
  rcases hc with ⟨n, h⟩ | ⟨k, h⟩ <;> rw [h]

theorem writeVector_track {s : State} {w : Warp} {v : BitVec 8} {k d : Nat} {c : Caravan} (take : BitVec 96) (g : Nat → Word)
    (hw : s.warp? s.cur = some w) (hv : codeOf v = .h k d) (hc : s.caravan? w.caravan = some c) :
    s.writeVector s.cur v take g = s.setCaravan w.caravan (c.writeTrack k w.pass take g true) := by
  unfold State.writeVector
  rw [hw, hv]
  simp only [State.updCaravan, hc]

/-- What is left of the ready condition for an instruction that is no never-instruction. -/
theorem ready_rewrites {s : State} {w : Warp} {r : Raw} (h : s.ready w r = true) (hn : rawNever r = false) :
    operandsOk r (s.tracksOf w) = true ∧ s.rewrites w r = false := by
  simp only [State.ready, hn, Bool.false_or, Bool.and_eq_true, Bool.not_eq_true'] at h
  exact ⟨h.1, h.2.2⟩

theorem tracked_caravan {s : State} {w : Warp} {k : Nat} (h : k < s.tracksOf w) : ∃ c, s.caravan? w.caravan = some c := by
  unfold State.tracksOf at h
  cases hc : s.caravan? w.caravan with
  | none => simp [hc] at h
  | some c => exact ⟨c, rfl⟩

/-- The state that a vector write with its flags leaves. -/
theorem vector_result_of_write {s : State} {w : Warp} {f : VForm} (op : BitVec 7) (fn : BitVec 6) (g : Nat → Word)
    (fl : Nat → Flags) (hw : s.curWarp = some w) (hr : s.ready w (.v op fn f) = true)
    (hd : (vRoles op.toNat fn.toNat).1 = .dst ∨ (vRoles op.toNat fn.toNat).1 = .dstLocal) (hn : isNever f.pred f.pneg = false) :
    VectorResult s w
      (((s.writeVector s.cur f.vd (s.takes w f.pred f.pneg) g).updWarp s.cur fun w' =>
        w'.orFlags (flagsOver (s.takes w f.pred f.pneg) fl)).finishCur) f g fl := by
  obtain ⟨hok, hrw⟩ := ready_rewrites hr hn
  have hadm : (vRoles op.toNat fn.toNat).1.admits (s.tracksOf w) f.vd = true := by
    simp only [operandsOk, vOperandsOk] at hok
    simp only [Bool.and_eq_true] at hok
    exact hok.1.1.1.1.1.1.1.1.1.1
  have hwp : s.warp? s.cur = some w := hw
  have own : ((∃ n, codeOf f.vd = .v n) ∨ ∃ k, codeOf f.vd = .t k) → VectorResult s w
      (((s.writeVector s.cur f.vd (s.takes w f.pred f.pneg) g).updWarp s.cur fun w' =>
        w'.orFlags (flagsOver (s.takes w f.pred f.pneg) fl)).finishCur) f g fl := by
    intro hv
    rw [writeVector_own _ _ hwp hv, updWarp_of _ (State.warp?_setWarp_same _ _ _),
      finishCur_of (s := (s.setWarp s.cur _).setWarp s.cur _) (State.warp?_setWarp_same _ _ _)]
    simp only [State.setWarp_cur, State.setWarp_setWarp]
    obtain ⟨v, t, m, he⟩ := setVector_place w f.vd (s.takes w f.pred f.pneg) g
    have hk : Keeps w ((w.setVector f.vd (s.takes w f.pred f.pneg) g).orFlags
        (flagsOver (s.takes w f.pred f.pneg) fl)).advance := by
      rw [he]; exact keeps_data w v t w.preds m _
    have hl : ((w.setVector f.vd (s.takes w f.pred f.pneg) g).orFlags (flagsOver (s.takes w f.pred f.pneg) fl)).lastOfRun
        = w.lastOfRun := by rw [he]; rfl
    refine ⟨⟨rfl, fun id h => State.warp?_setWarp_other s s.cur id _ h, fun _ _ => rfl, fun _ => rfl⟩, _,
      State.curWarp_setWarp_cur s _, ?_, ?_, ?_, ?_, ?_, hk⟩
    · refine written_setVector _ _ rfl hk.identity.caravan hk.identity.pass ?_ ?_ ?_ hv
      · intro r; rw [Warp.advance_sreg, he]; rfl
      · rw [Warp.advance_vregs]; rfl
      · intro h; rw [advance_temps_within _ (hl.trans h)]; rfl
    · exact flagsRaised_or _ _ _ _ (by rw [Warp.advance_flags, he]; rfl)
    · rw [Warp.advance_preds, he]; rfl
    · intro r; rw [Warp.advance_sreg, he]; rfl
    · rw [Warp.advance_tinfo, he]; rfl
  rcases dst_cases hd hadm with hv | hv | ⟨k, hv, hk⟩
  · exact own (.inl hv)
  · exact own (.inr hv)
  · obtain ⟨c, hc⟩ := tracked_caravan hk
    have hno : c.wroteTrack w.pass k = false := by
      simp only [State.rewrites, writesOf, hd, if_true, List.any_append] at hrw
      simp only [Bool.or_eq_false_iff] at hrw
      have := hrw.1.1
      simpa [hv, hc] using this
    have hwp' : (s.setCaravan w.caravan (c.writeTrack k w.pass (s.takes w f.pred f.pneg) g true)).warp? s.cur = some w := hwp
    rw [writeVector_track _ _ hwp hv hc, updWarp_of _ hwp',
      finishCur_of (s := (s.setCaravan _ _).setWarp s.cur _) (State.warp?_setWarp_same _ _ _)]
    simp only [State.setWarp_cur, State.setCaravan_cur, State.setWarp_setWarp]
    have hk : Keeps w (w.orFlags (flagsOver (s.takes w f.pred f.pneg) fl)).advance := keeps_data w w.vregs w.temps w.preds w.wroteTemps _
    refine ⟨⟨rfl, fun id h => State.warp?_setWarp_other _ s.cur id _ h, fun id h => ?_, fun h => ?_⟩, _,
      Tbl.find_put_same _ _ _, ?_, ?_, ?_, ?_, ?_, hk⟩
    · exact Tbl.find_put_other _ _ _ _ h
    · rw [(isHandoff_of_code).2 ⟨k, 0, hv⟩] at h; cases h
    · refine written_track _ _ hv hc hno (Tbl.find_put_same _ _ _) hk.identity.caravan hk.identity.pass ?_ ?_ ?_
      · intro r; rw [Warp.advance_sreg]; rfl
      · rw [Warp.advance_vregs]; rfl
      · intro h; rw [advance_temps_within _ (by exact h)]; rfl
    · exact flagsRaised_or _ _ _ _ (by rw [Warp.advance_flags]; rfl)
    · rw [Warp.advance_preds]; rfl
    · intro r; rw [Warp.advance_sreg]; rfl
    · rw [Warp.advance_tinfo]; rfl

/-- A never-instruction leaves every register as it reads. -/
theorem never_result {s : State} {w : Warp} {f : VForm} (g : Nat → Word) (fl : Nat → Flags) (hn : isNever f.pred f.pneg = true) :
    VectorResult s w (s.finish w) f g fl := by
  have ht : ∀ th, (s.takes w f.pred f.pneg).getLsbD th = false := by
    intro th
    simp only [isNever, Bool.and_eq_true, beq_iff_eq] at hn
    simp [State.takes, State.predOf, hn.1, hn.2, Warp.predicate, allThreads]
  have same : ∀ c sb th, Lasts w c → (s.finish w).source w.advance c sb th = s.source w c sb th := fun c sb th hl =>
    source_same rfl (by simp) (by simp) (fun r => by simp) (fun n _ => by simp)
      (fun k hk => by rw [advance_temps_within _ (hl (isTemp_of_code hk))]) th
  refine ⟨⟨rfl, fun id h => State.warp?_setWarp_other s s.cur id _ h, fun _ _ => rfl, fun _ => rfl⟩, _, curWarp_finish s w,
    ⟨fun th _ hl => ?_, fun c sb th _ _ hl => same c sb th hl⟩, fun b => ?_, by simp, fun r => by simp, by simp,
    keeps_data w w.vregs w.temps w.preds w.wroteTemps w.flags⟩
  · rw [ht th, if_neg (by simp)]; exact same f.vd 0 th hl
  · simp [ht]

theorem vectorOp_result {s : State} {w : Warp} {f : VForm} {op : BitVec 7} {fn : BitVec 6} (g : Warp → Nat → Word × Flags)
    (hw : s.curWarp = some w) (hr : s.ready w (.v op fn f) = true) (hd : (vRoles op.toNat fn.toNat).1 = .dst ∨ (vRoles op.toNat fn.toNat).1 = .dstLocal) :
    ∃ t, vectorOp (.v op fn f) f g s = .next t ∧ VectorResult s w t f (fun t => (g w t).1) (fun t => (g w t).2) := by
  refine ⟨_, checked_ready hw hr, ?_⟩
  by_cases hn : isNever f.pred f.pneg = true
  · rw [if_pos hn]; exact never_result _ _ hn
  · rw [if_neg hn]; exact vector_result_of_write op fn _ _ hw hr hd (by simpa using hn)

theorem vectorPlain_result {s : State} {w : Warp} {f : VForm} {op : BitVec 7} {fn : BitVec 6} (g : Warp → Nat → Word)
    (hw : s.curWarp = some w) (hr : s.ready w (.v op fn f) = true) (hd : (vRoles op.toNat fn.toNat).1 = .dst ∨ (vRoles op.toNat fn.toNat).1 = .dstLocal) :
    ∃ t, vectorPlain (.v op fn f) f g s = .next t ∧ VectorResult s w t f (g w) (fun _ => 0) := by
  refine ⟨_, checked_ready hw hr, ?_⟩
  by_cases hn : isNever f.pred f.pneg = true
  · rw [if_pos hn]; exact never_result _ _ hn
  · rw [if_neg hn]
    have h := vector_result_of_write op fn (g w) (fun _ => 0) hw hr hd (by simpa using hn)
    have hz : flagsOver (s.takes w f.pred f.pneg) (fun _ => 0) = 0 := by
      apply BitVec.eq_of_getLsbD_eq
      intro i hi
      simp [flagsOver_getLsbD]
    have e : ∀ x : Warp, x.orFlags 0 = x := fun x => by simp [Warp.orFlags]
    simp only [hz, e] at h
    convert h using 2
    unfold State.updWarp
    split
    · rename_i x hx
      simp only [State.setWarp, Tbl.put_found hx]
    · rfl

/-! ### The frames of a predicate and of a scalar destination -/

theorem predicate_setPredicate (w : Warp) (n m : Nat) (v : BitVec 96) (hm : m < 7) :
    (w.setPredicate n v).predicate m = if m = n then v else w.predicate m := by
  have : m ≠ 7 := by omega
  simp only [Warp.predicate, Warp.setPredicate, if_neg this, listGet_put]

theorem predicateOp_result {s : State} {w : Warp} {f : VForm} {op : BitVec 7} {fn : BitVec 6} (g : Warp → Nat → Bool × Flags)
    (hw : s.curWarp = some w) (hr : s.ready w (.v op fn f) = true) :
    ∃ t, predicateOp (.v op fn f) f g s = .next t ∧ PredicateResult s w t f (fun t => (g w t).1) (fun t => (g w t).2) := by
  refine ⟨_, checked_ready hw hr, onlyCurrent_finish s _, _, curWarp_finish s _, fun n th hn hth => ?_, ?_, ?_, ?_, ?_, ?_,
    keeps_data w w.vregs w.temps _ w.wroteTemps _⟩
  · have hp : ∀ x : Warp, x.advance.predicate n = x.predicate n := fun x => by simp [Warp.predicate]
    have hv : (f.vd.extractLsb' 0 3).toNat = f.vd.toNat % 8 := by simp [BitVec.extractLsb'_toNat]
    rw [hp]
    show ((w.setPredicate _ _).predicate n).getLsbD th = _
    rw [predicate_setPredicate _ _ _ _ hn, hv]
    by_cases h : n = f.vd.toNat % 8
    · subst h
      simp only [if_true, true_and, getLsbD_maskOf _ _ hth]
    · simp only [h, if_false, false_and]
  · exact flagsRaised_or _ _ _ _ (by rw [Warp.advance_flags]; rfl)
  · rw [Warp.advance_vregs]; rfl
  · exact SamePlace.sameTemps ⟨rfl, rfl, rfl, rfl, rfl⟩ rfl rfl
  · intro r; rw [Warp.advance_sreg]; rfl
  · rw [Warp.advance_tinfo]; rfl

/-- A scalar write with flags, completed. -/
theorem keeps_setS_flags (w : Warp) (r : BitVec 6) (v : Word) (fl : Flags) : Keeps w ((w.setS r v).orFlags fl).advance where
  identity := by constructor <;> simp [Warp.orFlags]
  specials := by constructor <;> simp [Warp.orFlags]
  latches := SamePlace.sameLatches (by constructor <;> simp [Warp.orFlags]) (by simp [Warp.orFlags]) (by simp [Warp.orFlags])
    (by simp [Warp.orFlags]) (by simp [Warp.orFlags])
  stack := by constructor <;> simp [Warp.orFlags]
  units := by constructor <;> simp [Warp.orFlags]
  moved := SamePlace.movedOn (by constructor <;> simp [Warp.orFlags])

theorem toScalar_result {s : State} {w : Warp} {f : VForm} {op : BitVec 7} {fn : BitVec 6} (g : Warp → BitVec 96 → Word × Flags)
    (hw : s.curWarp = some w) (hr : s.ready w (.v op fn f) = true) :
    ∃ t, toScalar (.v op fn f) f g s = .next t
      ∧ GatherResult s w t f (g w (s.takes w f.pred f.pneg)).1 (g w (s.takes w f.pred f.pneg)).2 := by
  refine ⟨_, checked_ready hw hr, ?_⟩
  by_cases h0 : s.takes w f.pred f.pneg = 0
  · simp only [h0, if_true]
    refine ⟨onlyCurrent_finish s _, _, curWarp_finish s _, ?_, ?_, keeps_data w w.vregs w.temps w.preds w.wroteTemps w.flags, ?_⟩
    · constructor <;> simp
    · exact SamePlace.sameTemps ⟨rfl, rfl, rfl, rfl, rfl⟩ rfl rfl
    · rw [if_pos h0]; exact ⟨fun r => by simp, by simp, by simp⟩
  · simp only [h0, if_false]
    have hd : f.vd.extractLsb' 0 6 = f.vd.setWidth 6 := by simp [BitVec.setWidth_eq_extractLsb']
    refine ⟨onlyCurrent_finish s _, _, curWarp_finish s _, ?_, ?_, keeps_setS_flags w _ _ _, ?_⟩
    · constructor <;> simp [Warp.orFlags]
    · exact SamePlace.sameTemps (by constructor <;> simp [Warp.orFlags]) (by simp [Warp.orFlags]) (by simp [Warp.orFlags])
    · rw [if_neg h0, hd]
      refine ⟨⟨fun q => ?_, ?_⟩, ?_⟩
      · have := (writesScalar_setS w (f.vd.setWidth 6) (g w (s.takes w f.pred f.pneg)).1).scalars q
        rw [Warp.advance_sreg] at this ⊢; exact this
      · have := (writesScalar_setS w (f.vd.setWidth 6) (g w (s.takes w f.pred f.pneg)).1).tinfo
        rw [Warp.advance_tinfo] at this ⊢; exact this
      · simp [Warp.orFlags]

end Sys2Proof.Machine
end

