-- ==== Sys2Proof/Tests/Slice0.lean ====
section
/-! SUPPORT. Tests: words written out by hand decode to the instructions they stand for; ill-formed terms are refused; states and operands
that meet the hypotheses of each statement; and single steps of the examples of the manual. -/

open Sys2Proof Sys2Proof.Machine

namespace Sys2Proof.Tests

/-! ### Decoding -/

/-- Words written out field by field from the formats of R25 and R26 and the opcode map of R37. -/
theorem test_decode_scalar_1 :
    decodeWords 0b0000001_000101_000110_0_000000000111#32 0 = .ok (.addReg 5 6 7) ∧
    decodeWords 0b0000001_000101_000110_1_100110101011#32 0 = .ok (.addImm 5 6 0x9AB) ∧
    decodeWords 0b0000010_000101_000110_0_000000000111#32 0 = .ok (.subReg 5 6 7) ∧
    decodeWords 0b0000010_000101_000110_1_100110101011#32 0 = .ok (.subImm 5 6 0x9AB) ∧
    decodeWords 0b0000011_000101_000110_0_000000000111#32 0 = .ok (.mulReg 5 6 7) ∧
    decodeWords 0b0000011_000101_000110_1_100110101011#32 0 = .ok (.mulImm 5 6 0x9AB) ∧
    decodeWords 0b0000100_000101_000110_0_000000000111#32 0 = .ok (.mulhsReg 5 6 7) ∧
    decodeWords 0b0000100_000101_000110_1_100110101011#32 0 = .ok (.mulhsImm 5 6 0x9AB) ∧
    decodeWords 0b0000101_000101_000110_0_000000000111#32 0 = .ok (.mulhuReg 5 6 7) ∧
    decodeWords 0b0000101_000101_000110_1_100110101011#32 0 = .ok (.mulhuImm 5 6 0x9AB) ∧
    decodeWords 0b0000110_000101_000110_0_000000000111#32 0 = .ok (.divsReg 5 6 7) ∧
    decodeWords 0b0000110_000101_000110_1_100110101011#32 0 = .ok (.divsImm 5 6 0x9AB) ∧
    decodeWords 0b0000111_000101_000110_0_000000000111#32 0 = .ok (.divuReg 5 6 7) ∧
    decodeWords 0b0000111_000101_000110_1_100110101011#32 0 = .ok (.divuImm 5 6 0x9AB) ∧
    decodeWords 0b0001000_000101_000110_0_000000000111#32 0 = .ok (.remsReg 5 6 7) ∧
    decodeWords 0b0001000_000101_000110_1_100110101011#32 0 = .ok (.remsImm 5 6 0x9AB) ∧
    decodeWords 0b0001001_000101_000110_0_000000000111#32 0 = .ok (.remuReg 5 6 7) ∧
    decodeWords 0b0001001_000101_000110_1_100110101011#32 0 = .ok (.remuImm 5 6 0x9AB) ∧
    decodeWords 0b0001010_000101_000110_0_000000000111#32 0 = .ok (.andReg 5 6 7) ∧
    decodeWords 0b0001010_000101_000110_1_100110101011#32 0 = .ok (.andImm 5 6 0x9AB) ∧
    decodeWords 0b0001011_000101_000110_0_000000000111#32 0 = .ok (.orReg 5 6 7) ∧
    decodeWords 0b0001011_000101_000110_1_100110101011#32 0 = .ok (.orImm 5 6 0x9AB) ∧
    decodeWords 0b0001100_000101_000110_0_000000000111#32 0 = .ok (.xorReg 5 6 7) ∧
    decodeWords 0b0001100_000101_000110_1_100110101011#32 0 = .ok (.xorImm 5 6 0x9AB) ∧
    decodeWords 0b0001101_000101_000110_0_000000000111#32 0 = .ok (.andnReg 5 6 7) ∧
    decodeWords 0b0001101_000101_000110_1_100110101011#32 0 = .ok (.andnImm 5 6 0x9AB) ∧
    decodeWords 0b0001110_000101_000110_0_000000000111#32 0 = .ok (.shlReg 5 6 7) ∧
    decodeWords 0b0001110_000101_000110_1_100110101011#32 0 = .ok (.shlImm 5 6 0x9AB) := by
  and_intros <;> rfl

/-- Words written out field by field from the formats of R25 and R26 and the opcode map of R37. -/
theorem test_decode_scalar_2 :
    decodeWords 0b0001111_000101_000110_0_000000000111#32 0 = .ok (.shrReg 5 6 7) ∧
    decodeWords 0b0001111_000101_000110_1_100110101011#32 0 = .ok (.shrImm 5 6 0x9AB) ∧
    decodeWords 0b0010000_000101_000110_0_000000000111#32 0 = .ok (.sarReg 5 6 7) ∧
    decodeWords 0b0010000_000101_000110_1_100110101011#32 0 = .ok (.sarImm 5 6 0x9AB) ∧
    decodeWords 0b0010001_000101_000110_0_000000000111#32 0 = .ok (.rolReg 5 6 7) ∧
    decodeWords 0b0010001_000101_000110_1_100110101011#32 0 = .ok (.rolImm 5 6 0x9AB) ∧
    decodeWords 0b0010010_000101_000110_0_000000000111#32 0 = .ok (.minReg 5 6 7) ∧
    decodeWords 0b0010010_000101_000110_1_100110101011#32 0 = .ok (.minImm 5 6 0x9AB) ∧
    decodeWords 0b0010011_000101_000110_0_000000000111#32 0 = .ok (.maxReg 5 6 7) ∧
    decodeWords 0b0010011_000101_000110_1_100110101011#32 0 = .ok (.maxImm 5 6 0x9AB) ∧
    decodeWords 0b0010100_000101_000110_0_000000000111#32 0 = .ok (.minuReg 5 6 7) ∧
    decodeWords 0b0010100_000101_000110_1_100110101011#32 0 = .ok (.minuImm 5 6 0x9AB) ∧
    decodeWords 0b0010101_000101_000110_0_000000000111#32 0 = .ok (.maxuReg 5 6 7) ∧
    decodeWords 0b0010101_000101_000110_1_100110101011#32 0 = .ok (.maxuImm 5 6 0x9AB) ∧
    decodeWords 0b0010110_000101_000110_0_000000000111#32 0 = .ok (.sltReg 5 6 7) ∧
    decodeWords 0b0010110_000101_000110_1_100110101011#32 0 = .ok (.sltImm 5 6 0x9AB) ∧
    decodeWords 0b0010111_000101_000110_0_000000000111#32 0 = .ok (.sltuReg 5 6 7) ∧
    decodeWords 0b0010111_000101_000110_1_100110101011#32 0 = .ok (.sltuImm 5 6 0x9AB) ∧
    decodeWords 0b0011000_000101_000110_0_000000000111#32 0 = .ok (.seqReg 5 6 7) ∧
    decodeWords 0b0011000_000101_000110_1_100110101011#32 0 = .ok (.seqImm 5 6 0x9AB) ∧
    decodeWords 0b0011001_000101_000110_0_000000000111#32 0 = .ok (.sneReg 5 6 7) ∧
    decodeWords 0b0011001_000101_000110_1_100110101011#32 0 = .ok (.sneImm 5 6 0x9AB) ∧
    decodeWords 0b0011010_000101_000110_0_000000000000#32 0 = .ok (.clz 5 6) ∧
    decodeWords 0b0011011_000101_000110_0_000000000000#32 0 = .ok (.popc 5 6) ∧
    decodeWords 0b0011100_000101_000110_0_000000000000#32 0 = .ok (.brev 5 6) ∧
    decodeWords 0b0011101_000101_000110_0_000000000111#32 0 = .ok (.addpReg 5 6 7) ∧
    decodeWords 0b0011101_000101_000110_1_100110101011#32 0 = .ok (.addpImm 5 6 0x9AB) := by
  and_intros <;> rfl

/-- Words written out field by field from the formats of R25 and R26 and the opcode map of R37. -/
theorem test_decode_special :
    decodeWords 0b0011110_000101_000000_1_000000010001#32 0 = .ok (.rdsr 5 17) ∧
    decodeWords 0b0011111_000000_000110_1_000000010001#32 0 = .ok (.wrsr 6 17) ∧
    decodeWords 0b0110010_001010_000000_0_000000000000#32 0 = .ok (.mfence 10) ∧
    decodeWords 0b0110011_001010_000000_0_000000000000#32 0 = .ok (.evpop 10) ∧
    decodeWords 0b0110100_001010_000000_0_000000000000#32 0 = .ok (.evwait 10) ∧
    decodeWords 0b0110101_000000_000000_1_000000001000#32 0 = .ok (.vgrow 8) ∧
    decodeWords 0b0110110_000000_000000_1_000000001000#32 0 = .ok (.vshrk 8) ∧
    decodeWords 0b0110111_000101_000000_1_000000010001#32 0 = .ok (.crd 5 17) ∧
    decodeWords 0b0111000_000000_000110_1_000000010001#32 0 = .ok (.cwr 6 17) ∧
    decodeWords 0b0111001_000101_000110_1_000000010001#32 0 = .ok (.cadd 5 6 17) ∧
    decodeWords 0b0111010_000101_000110_1_000000010001#32 0 = .ok (.ccas 5 6 17) ∧
    decodeWords 0b0111100_001010_000000_0_000000000000#32 0 = .ok (.clk 10) ∧
    decodeWords 0b0111101_000000_000000_1_000000001000#32 0 = .ok (.hrel 8) := by
  and_intros <;> rfl

/-- Words written out field by field from the formats of R25 and R26 and the opcode map of R37 and R38. -/
theorem test_decode_control :
    decodeWords 0b0100000_000000_1000000000000000011#32 0 = .ok (.bra 0x40003) ∧
    decodeWords 0b0100001_001001_1000000000000000011#32 0 = .ok (.bz 9 0x40003) ∧
    decodeWords 0b0100010_001001_1000000000000000011#32 0 = .ok (.bnz 9 0x40003) ∧
    decodeWords 0b0100011_000000_1000000000000000011#32 0 = .ok (.call 0x40003) ∧
    decodeWords 0b0100100_000000_000000_0_000000000000#32 0 = .ok (.ret) ∧
    decodeWords 0b0100101_000000_000110_0_000000000000#32 0 = .ok (.jmpr 6) ∧
    decodeWords 0b0100110_000000_000000_0_000000000000#32 0 = .ok (.rcv) ∧
    decodeWords 0b0100111_000000_000000_0_000000000000#32 0 = .ok (.exit) ∧
    decodeWords 0b0101000_000000_000000_1_000000000001#32 0 = .ok (.bar 1) ∧
    decodeWords 0b0101000_000000_000000_1_000000000110#32 0 = .ok (.barArrive 2) ∧
    decodeWords 0b0101000_000000_000000_1_000000001011#32 0 = .ok (.barWait 3) ∧
    decodeWords 0b0101001_000000_000110_0_000000000000#32 0 = .ok (.waitm 6) ∧
    decodeWords 0b0101010_000000_000000_1_100110101011#32 0 = .ok (.trap 0x9AB) ∧
    decodeWords 0b0101011_000000_000000_0_000000000000#32 0 = .ok (.tret) ∧
    decodeWords 0b0101100_000000_000000_1_000000000001#32 0 = .ok (.tmsk 1) ∧
    decodeWords 0b0101101_000000_000110_0_000000000000#32 0 = .ok (.settmr 6) ∧
    decodeWords 0b0101110_000000_000000_1_000000000011#32 0 = .ok (.perf 3) ∧
    decodeWords 0b0101111_000000_000000_1_100110101011#32 0 = .ok (.brk 0x9AB) ∧
    decodeWords 0b0110000_000000_000000_1_000000000010#32 0 = .ok (.fenceRel 2) ∧
    decodeWords 0b0110000_000000_000000_1_000000000110#32 0 = .ok (.fenceAcq 2) ∧
    decodeWords 0b0110000_000000_000000_1_000000001010#32 0 = .ok (.fenceFull 2) ∧
    decodeWords 0b0110000_000000_000000_1_000000101101#32 0 = .ok (.fencePath 1 2) ∧
    decodeWords 0b0110001_000000_000110_0_000000000000#32 0 = .ok (.mwait 6) ∧
    decodeWords 0b0111011_000000_000000_0_000000000000#32 0 = .ok (.yield) ∧
    decodeWords 0b1001110_0011_1_00000000000000000000#32 0b0000000000001001_0000000000010000#32 = .ok (.vbr 3 1 9 16) := by
  and_intros <;> rfl

/-- Words written out field by field from the formats of R25 and R26 and the opcode map of R38. -/
theorem test_decode_moves_1 :
    decodeWords 0b1000000_001010_0000000000000000000#32 0xDEADBEEF = .ok (.sli 10 0xDEADBEEF) ∧
    decodeWords 0b1001001_000_11001000_00000100_000000#32 0b00000101_0011_0001001_000000_0101_1_00#32 = .ok (.vmov ⟨0, 200, 4, 5, 3, 9, 0, 5, 1, 0⟩) ∧
    decodeWords 0b1001001_000_11001000_00000100_000001#32 0b00000101_0011_0000110_000000_0101_1_00#32 = .ok (.vsel ⟨0, 200, 4, 5, 3, 6, 0, 5, 1, 0⟩) ∧
    decodeWords 0b1001001_000_11001000_00000100_000010#32 0b00000101_0011_0001001_000000_0101_1_00#32 = .ok (.vbcast ⟨0, 200, 4, 5, 3, 9, 0, 5, 1, 0⟩) ∧
    decodeWords 0b1001001_000_00100001_00000100_000011#32 0b00000101_0011_0001001_000000_0101_1_00#32 = .ok (.vrdl ⟨0, 33, 4, 5, 3, 9, 0, 5, 1, 0⟩) ∧
    decodeWords 0b1001001_000_11001000_01111100_000100#32 0b01111111_0011_0001001_010101_0101_1_00#32 = .ok (.vwrl ⟨0, 200, 124, 127, 3, 9, 21, 5, 1, 0⟩) ∧
    decodeWords 0b1001001_000_11001000_00000100_000101#32 0b01111111_0011_0001001_010101_0101_1_00#32 = .ok (.viota ⟨0, 200, 4, 127, 3, 9, 21, 5, 1, 0⟩) ∧
    decodeWords 0b1001010_000_00100001_00000100_000000#32 0b00000101_0011_0001001_000000_0101_1_00#32 = .ok (.vradd ⟨0, 33, 4, 5, 3, 9, 0, 5, 1, 0⟩) ∧
    decodeWords 0b1001010_000_00100001_00000100_000001#32 0b00000101_0011_0001001_000000_0101_1_00#32 = .ok (.vrmin ⟨0, 33, 4, 5, 3, 9, 0, 5, 1, 0⟩) ∧
    decodeWords 0b1001010_000_00100001_00000100_000010#32 0b00000101_0011_0001001_000000_0101_1_00#32 = .ok (.vrmax ⟨0, 33, 4, 5, 3, 9, 0, 5, 1, 0⟩) ∧
    decodeWords 0b1001010_000_00100001_00000100_000011#32 0b00000101_0011_0001001_000000_0101_1_00#32 = .ok (.vrand ⟨0, 33, 4, 5, 3, 9, 0, 5, 1, 0⟩) ∧
    decodeWords 0b1001010_000_00100001_00000100_000100#32 0b00000101_0011_0001001_000000_0101_1_00#32 = .ok (.vror ⟨0, 33, 4, 5, 3, 9, 0, 5, 1, 0⟩) ∧
    decodeWords 0b1001010_000_00100001_00000100_000101#32 0b00000101_0011_0001001_000000_0101_1_00#32 = .ok (.vrxor ⟨0, 33, 4, 5, 3, 9, 0, 5, 1, 0⟩) ∧
    decodeWords 0b1001010_010_00100001_00000100_000110#32 0b00000101_0011_0001001_000000_0101_1_00#32 = .ok (.vrfadd ⟨2, 33, 4, 5, 3, 9, 0, 5, 1, 0⟩) ∧
    decodeWords 0b1001010_010_00100001_00000100_000111#32 0b00000101_0011_0001001_000000_0101_1_00#32 = .ok (.vrfmax ⟨2, 33, 4, 5, 3, 9, 0, 5, 1, 0⟩) ∧
    decodeWords 0b1001010_010_00100001_00000100_001000#32 0b00000101_0011_0001001_000000_0101_1_00#32 = .ok (.vrfmin ⟨2, 33, 4, 5, 3, 9, 0, 5, 1, 0⟩) ∧
    decodeWords 0b1001011_000_11001000_00000100_000000#32 0b00000101_0011_0001001_000000_0101_1_00#32 = .ok (.vscanAdd ⟨0, 200, 4, 5, 3, 9, 0, 5, 1, 0⟩) ∧
    decodeWords 0b1001011_000_11001000_00000100_000001#32 0b00000101_0011_0001001_000000_0101_1_00#32 = .ok (.vscanxAdd ⟨0, 200, 4, 5, 3, 9, 0, 5, 1, 0⟩) ∧
    decodeWords 0b1001011_000_11001000_00000100_000010#32 0b00000101_0011_0001001_000000_0101_1_00#32 = .ok (.vscanXor ⟨0, 200, 4, 5, 3, 9, 0, 5, 1, 0⟩) ∧
    decodeWords 0b1001011_000_11001000_00000100_000011#32 0b00000101_0011_0001001_000000_0101_1_00#32 = .ok (.vscanxXor ⟨0, 200, 4, 5, 3, 9, 0, 5, 1, 0⟩) ∧
    decodeWords 0b1001011_000_11001000_00000100_000100#32 0b00000101_0011_0001001_000000_0101_1_00#32 = .ok (.vscanMax ⟨0, 200, 4, 5, 3, 9, 0, 5, 1, 0⟩) ∧
    decodeWords 0b1001011_010_11001000_00000100_000101#32 0b00000101_0011_0001001_000000_0101_1_00#32 = .ok (.vscanFadd ⟨2, 200, 4, 5, 3, 9, 0, 5, 1, 0⟩) ∧
    decodeWords 0b1001100_000_11001000_00000100_000000#32 0b00000101_0011_0001001_000000_0101_1_00#32 = .ok (.vclmul ⟨0, 200, 4, 5, 3, 9, 0, 5, 1, 0⟩) ∧
    decodeWords 0b1001100_000_11001000_00000100_000001#32 0b00000101_0011_0001001_000000_0101_1_00#32 = .ok (.vclmulh ⟨0, 200, 4, 5, 3, 9, 0, 5, 1, 0⟩) ∧
    decodeWords 0b1001100_000_11001000_00000100_000010#32 0b00000101_0011_0001001_000000_0101_1_00#32 = .ok (.vpxor ⟨0, 200, 4, 5, 3, 9, 0, 5, 1, 0⟩) ∧
    decodeWords 0b1001101_000_00000011_00000001_000000#32 0b00000010_0011_0001001_000000_0101_1_00#32 = .ok (.pand ⟨0, 3, 1, 2, 3, 9, 0, 5, 1, 0⟩) ∧
    decodeWords 0b1001101_000_00000011_00000001_000001#32 0b00000010_0011_0001001_000000_0101_1_00#32 = .ok (.por ⟨0, 3, 1, 2, 3, 9, 0, 5, 1, 0⟩) ∧
    decodeWords 0b1001101_000_00000011_00000001_000010#32 0b00000010_0011_0001001_000000_0101_1_00#32 = .ok (.pxor ⟨0, 3, 1, 2, 3, 9, 0, 5, 1, 0⟩) := by
  and_intros <;> rfl

/-- Words written out field by field from the formats of R25 and R26 and the opcode map of R38. -/
theorem test_decode_moves_2 :
    decodeWords 0b1001101_000_00000011_00000001_000011#32 0b00000000_0011_0001001_000000_0101_1_00#32 = .ok (.pnot ⟨0, 3, 1, 0, 3, 9, 0, 5, 1, 0⟩) ∧
    decodeWords 0b1001101_000_00000011_00000000_000100#32 0b00000000_0011_0001001_100001_0101_1_00#32 = .ok (.pfroms ⟨0, 3, 0, 0, 3, 9, 33, 5, 1, 0⟩) ∧
    decodeWords 0b1001101_000_00100001_00000001_000101#32 0b00000000_0011_0001001_000000_0101_1_00#32 = .ok (.ptos ⟨0, 33, 1, 0, 3, 9, 0, 5, 1, 0⟩) ∧
    decodeWords 0b1001101_000_00100001_00000001_000110#32 0b00000000_0011_0001001_000000_0101_1_00#32 = .ok (.pcnt ⟨0, 33, 1, 0, 3, 9, 0, 5, 1, 0⟩) ∧
    decodeWords 0b1001101_000_00100001_00000001_000111#32 0b00000000_0011_0001001_000000_0101_1_00#32 = .ok (.pfirst ⟨0, 33, 1, 0, 3, 9, 0, 5, 1, 0⟩) ∧
    decodeWords 0b1001111_111_11001000_00000100_000000#32 0b00000101_0011_0001001_000000_0101_1_00#32 = .ok (.vlgmul ⟨7, 200, 4, 5, 3, 9, 0, 5, 1, 0⟩) ∧
    decodeWords 0b1001111_111_11001000_00000100_000001#32 0b00000101_0011_0001001_000000_0101_1_00#32 = .ok (.vlgadd ⟨7, 200, 4, 5, 3, 9, 0, 5, 1, 0⟩) ∧
    decodeWords 0b1010000_000_11001000_00000100_000000#32 0b00000101_0011_0001001_000000_0101_1_00#32 = .ok (.vperf ⟨0, 200, 4, 5, 3, 9, 0, 5, 1, 0⟩) := by
  and_intros <;> rfl

/-- Words written out field by field from the formats of R25 and R26 and the opcode map of R38. -/
theorem test_decode_integer :
    decodeWords 0b1000001_000_11001000_00000100_000000#32 0b00000101_0011_0001001_000000_0101_1_00#32 = .ok (.vaddInteger ⟨0, 200, 4, 5, 3, 9, 0, 5, 1, 0⟩) ∧
    decodeWords 0b1000001_000_11001000_00000100_000001#32 0b00000101_0011_0001001_000000_0101_1_00#32 = .ok (.vsubInteger ⟨0, 200, 4, 5, 3, 9, 0, 5, 1, 0⟩) ∧
    decodeWords 0b1000001_000_11001000_00000100_000010#32 0b00000101_0011_0001001_000000_0101_1_00#32 = .ok (.vmulInteger ⟨0, 200, 4, 5, 3, 9, 0, 5, 1, 0⟩) ∧
    decodeWords 0b1000001_000_11001000_00000100_000011#32 0b00000101_0011_0001001_000000_0101_1_00#32 = .ok (.vmulh ⟨0, 200, 4, 5, 3, 9, 0, 5, 1, 0⟩) ∧
    decodeWords 0b1000001_000_11001000_00000100_000100#32 0b00000101_0011_0001001_000000_0101_1_00#32 = .ok (.vmad ⟨0, 200, 4, 5, 3, 9, 0, 5, 1, 0⟩) ∧
    decodeWords 0b1000001_000_11001000_00000100_000101#32 0b00000101_0011_0001001_000000_0101_1_00#32 = .ok (.vminInteger ⟨0, 200, 4, 5, 3, 9, 0, 5, 1, 0⟩) ∧
    decodeWords 0b1000001_000_11001000_00000100_000110#32 0b00000101_0011_0001001_000000_0101_1_00#32 = .ok (.vmaxInteger ⟨0, 200, 4, 5, 3, 9, 0, 5, 1, 0⟩) ∧
    decodeWords 0b1000001_000_11001000_00000100_000111#32 0b00000101_0011_0001001_000000_0101_1_00#32 = .ok (.vabsInteger ⟨0, 200, 4, 5, 3, 9, 0, 5, 1, 0⟩) ∧
    decodeWords 0b1000001_000_11001000_00000100_001000#32 0b00000101_0011_0001001_000000_0101_1_00#32 = .ok (.vnegInteger ⟨0, 200, 4, 5, 3, 9, 0, 5, 1, 0⟩) ∧
    decodeWords 0b1000001_000_11001000_00000100_001001#32 0b00000101_0011_0001001_000000_0101_1_00#32 = .ok (.vadds ⟨0, 200, 4, 5, 3, 9, 0, 5, 1, 0⟩) ∧
    decodeWords 0b1000001_000_11001000_00000100_001010#32 0b00000101_0011_0001001_000000_0101_1_00#32 = .ok (.vsubs ⟨0, 200, 4, 5, 3, 9, 0, 5, 1, 0⟩) ∧
    decodeWords 0b1000010_000_11001000_00000100_000000#32 0b00000101_0011_0001001_000000_0101_1_00#32 = .ok (.vand ⟨0, 200, 4, 5, 3, 9, 0, 5, 1, 0⟩) ∧
    decodeWords 0b1000010_000_11001000_00000100_000001#32 0b00000101_0011_0001001_000000_0101_1_00#32 = .ok (.vor ⟨0, 200, 4, 5, 3, 9, 0, 5, 1, 0⟩) ∧
    decodeWords 0b1000010_000_11001000_00000100_000010#32 0b00000101_0011_0001001_000000_0101_1_00#32 = .ok (.vxor ⟨0, 200, 4, 5, 3, 9, 0, 5, 1, 0⟩) ∧
    decodeWords 0b1000010_000_11001000_00000100_000011#32 0b00000101_0011_0001001_000000_0101_1_00#32 = .ok (.vandn ⟨0, 200, 4, 5, 3, 9, 0, 5, 1, 0⟩) ∧
    decodeWords 0b1000010_000_11001000_00000100_000100#32 0b00000101_0011_0001001_000000_0101_1_00#32 = .ok (.vnot ⟨0, 200, 4, 5, 3, 9, 0, 5, 1, 0⟩) ∧
    decodeWords 0b1000010_000_11001000_00000100_000101#32 0b00000101_0011_0001001_000000_0101_1_00#32 = .ok (.vshl ⟨0, 200, 4, 5, 3, 9, 0, 5, 1, 0⟩) ∧
    decodeWords 0b1000010_000_11001000_00000100_000110#32 0b00000101_0011_0001001_000000_0101_1_00#32 = .ok (.vshr ⟨0, 200, 4, 5, 3, 9, 0, 5, 1, 0⟩) ∧
    decodeWords 0b1000010_000_11001000_00000100_000111#32 0b00000101_0011_0001001_000000_0101_1_00#32 = .ok (.vsar ⟨0, 200, 4, 5, 3, 9, 0, 5, 1, 0⟩) ∧
    decodeWords 0b1000010_000_11001000_00000100_001000#32 0b00000101_0011_0001001_000000_0101_1_00#32 = .ok (.vrol ⟨0, 200, 4, 5, 3, 9, 0, 5, 1, 0⟩) ∧
    decodeWords 0b1000010_000_11001000_00000100_001001#32 0b00000101_0011_0001001_000000_0101_1_00#32 = .ok (.vclz ⟨0, 200, 4, 5, 3, 9, 0, 5, 1, 0⟩) ∧
    decodeWords 0b1000010_000_11001000_00000100_001010#32 0b00000101_0011_0001001_000000_0101_1_00#32 = .ok (.vpopc ⟨0, 200, 4, 5, 3, 9, 0, 5, 1, 0⟩) ∧
    decodeWords 0b1000010_000_11001000_00000100_001011#32 0b00000101_0011_0001001_000000_0101_1_00#32 = .ok (.vbrev ⟨0, 200, 4, 5, 3, 9, 0, 5, 1, 0⟩) ∧
    decodeWords 0b1000010_000_11001000_00000100_001100#32 0b00000101_0011_0001001_000000_0101_1_00#32 = .ok (.vbfe ⟨0, 200, 4, 5, 3, 9, 0, 5, 1, 0⟩) := by
  and_intros <;> rfl

/-- Words written out field by field from the formats of R25 and R26 and the opcode map of R38. -/
theorem test_decode_float :
    decodeWords 0b1000011_010_11001000_00000100_000000#32 0b00000101_0011_0001001_000000_0101_1_10#32 = .ok (.vaddFloat ⟨2, 200, 4, 5, 3, 9, 0, 5, 1, 2⟩) ∧
    decodeWords 0b1000011_010_11001000_00000100_000001#32 0b00000101_0011_0001001_000000_0101_1_10#32 = .ok (.vsubFloat ⟨2, 200, 4, 5, 3, 9, 0, 5, 1, 2⟩) ∧
    decodeWords 0b1000011_010_11001000_00000100_000010#32 0b00000101_0011_0001001_000000_0101_1_10#32 = .ok (.vmulFloat ⟨2, 200, 4, 5, 3, 9, 0, 5, 1, 2⟩) ∧
    decodeWords 0b1000011_010_11001000_00000100_000011#32 0b00000101_0011_0001001_000000_0101_1_10#32 = .ok (.vfma ⟨2, 200, 4, 5, 3, 9, 0, 5, 1, 2⟩) ∧
    decodeWords 0b1000011_010_11001000_00000100_000100#32 0b00000101_0011_0001001_000000_0101_1_10#32 = .ok (.vfms ⟨2, 200, 4, 5, 3, 9, 0, 5, 1, 2⟩) ∧
    decodeWords 0b1000011_010_11001000_00000100_000101#32 0b00000101_0011_0001001_000000_0101_1_00#32 = .ok (.vminFloat ⟨2, 200, 4, 5, 3, 9, 0, 5, 1, 0⟩) ∧
    decodeWords 0b1000011_010_11001000_00000100_000110#32 0b00000101_0011_0001001_000000_0101_1_00#32 = .ok (.vmaxFloat ⟨2, 200, 4, 5, 3, 9, 0, 5, 1, 0⟩) ∧
    decodeWords 0b1000011_010_11001000_00000100_000111#32 0b00000101_0011_0001001_000000_0101_1_00#32 = .ok (.vabsFloat ⟨2, 200, 4, 5, 3, 9, 0, 5, 1, 0⟩) ∧
    decodeWords 0b1000011_010_11001000_00000100_001000#32 0b00000101_0011_0001001_000000_0101_1_00#32 = .ok (.vnegFloat ⟨2, 200, 4, 5, 3, 9, 0, 5, 1, 0⟩) ∧
    decodeWords 0b1000011_010_11001000_00000100_001001#32 0b00000101_0011_0001001_000000_0101_1_00#32 = .ok (.vrnd ⟨2, 200, 4, 5, 3, 9, 0, 5, 1, 0⟩) ∧
    decodeWords 0b1000100_001_00000011_00000100_000000#32 0b00000101_0011_0001001_000000_0101_1_00#32 = .ok (.vceq ⟨1, 3, 4, 5, 3, 9, 0, 5, 1, 0⟩) ∧
    decodeWords 0b1000100_001_00000011_00000100_000001#32 0b00000101_0011_0001001_000000_0101_1_00#32 = .ok (.vcne ⟨1, 3, 4, 5, 3, 9, 0, 5, 1, 0⟩) ∧
    decodeWords 0b1000100_001_00000011_00000100_000010#32 0b00000101_0011_0001001_000000_0101_1_00#32 = .ok (.vclt ⟨1, 3, 4, 5, 3, 9, 0, 5, 1, 0⟩) ∧
    decodeWords 0b1000100_001_00000011_00000100_000011#32 0b00000101_0011_0001001_000000_0101_1_00#32 = .ok (.vcle ⟨1, 3, 4, 5, 3, 9, 0, 5, 1, 0⟩) ∧
    decodeWords 0b1000100_001_00000011_00000100_000100#32 0b00000101_0011_0001001_000000_0101_1_00#32 = .ok (.vcgt ⟨1, 3, 4, 5, 3, 9, 0, 5, 1, 0⟩) ∧
    decodeWords 0b1000100_001_00000011_00000100_000101#32 0b00000101_0011_0001001_000000_0101_1_00#32 = .ok (.vcge ⟨1, 3, 4, 5, 3, 9, 0, 5, 1, 0⟩) ∧
    decodeWords 0b1000100_010_00000011_00000100_000110#32 0b00000101_0011_0001001_000000_0101_1_00#32 = .ok (.vcord ⟨2, 3, 4, 5, 3, 9, 0, 5, 1, 0⟩) ∧
    decodeWords 0b1000100_010_00000011_00000100_000111#32 0b00000101_0011_0001001_000000_0101_1_00#32 = .ok (.vcuno ⟨2, 3, 4, 5, 3, 9, 0, 5, 1, 0⟩) := by
  and_intros <;> rfl

/-- Words written out field by field from the formats of R25 and R26 and the opcode map of R38 and R39. -/
theorem test_decode_conversion :
    decodeWords 0b1000101_010_11001000_00000100_010011#32 0b00000101_0011_0001001_000000_0101_1_00#32 = .ok (.vcvt 19 ⟨2, 200, 4, 5, 3, 9, 0, 5, 1, 0⟩) ∧
    decodeWords 0b1000110_010_11001000_00000100_000000#32 0b00000101_0011_0001001_000000_0101_1_10#32 = .ok (.vqblkE4 ⟨2, 200, 4, 5, 3, 9, 0, 5, 1, 2⟩) ∧
    decodeWords 0b1000110_010_11001000_00000100_000001#32 0b00000101_0011_0001001_000000_0101_1_10#32 = .ok (.vqblkE5 ⟨2, 200, 4, 5, 3, 9, 0, 5, 1, 2⟩) ∧
    decodeWords 0b1000110_010_11001000_00000100_000010#32 0b00000101_0011_0001001_000000_0101_1_10#32 = .ok (.vqblkF4 ⟨2, 200, 4, 5, 3, 9, 0, 5, 1, 2⟩) ∧
    decodeWords 0b1000110_010_11001000_00000100_000011#32 0b00000101_0011_0001001_000000_0101_1_10#32 = .ok (.vqblkLg ⟨2, 200, 4, 5, 3, 9, 0, 5, 1, 2⟩) ∧
    decodeWords 0b1000110_010_11001000_00000100_000100#32 0b00000101_0011_0001001_000000_0101_1_10#32 = .ok (.vdqblkE4 ⟨2, 200, 4, 5, 3, 9, 0, 5, 1, 2⟩) ∧
    decodeWords 0b1000110_010_11001000_00000100_000101#32 0b00000101_0011_0001001_000000_0101_1_10#32 = .ok (.vdqblkE5 ⟨2, 200, 4, 5, 3, 9, 0, 5, 1, 2⟩) ∧
    decodeWords 0b1000110_010_11001000_00000100_000110#32 0b00000101_0011_0001001_000000_0101_1_10#32 = .ok (.vdqblkF4 ⟨2, 200, 4, 5, 3, 9, 0, 5, 1, 2⟩) ∧
    decodeWords 0b1000110_010_11001000_00000100_000111#32 0b00000101_0011_0001001_000000_0101_1_10#32 = .ok (.vdqblkLg ⟨2, 200, 4, 5, 3, 9, 0, 5, 1, 2⟩) ∧
    decodeWords 0b1000111_010_11001000_00000100_000000#32 0b00000101_0011_0001001_000000_0101_1_00#32 = .ok (.vexp2 ⟨2, 200, 4, 5, 3, 9, 0, 5, 1, 0⟩) ∧
    decodeWords 0b1000111_010_11001000_00000100_000001#32 0b00000101_0011_0001001_000000_0101_1_00#32 = .ok (.vlog2 ⟨2, 200, 4, 5, 3, 9, 0, 5, 1, 0⟩) ∧
    decodeWords 0b1000111_010_11001000_00000100_000010#32 0b00000101_0011_0001001_000000_0101_1_00#32 = .ok (.vrcp ⟨2, 200, 4, 5, 3, 9, 0, 5, 1, 0⟩) ∧
    decodeWords 0b1000111_010_11001000_00000100_000011#32 0b00000101_0011_0001001_000000_0101_1_00#32 = .ok (.vrsqrt ⟨2, 200, 4, 5, 3, 9, 0, 5, 1, 0⟩) ∧
    decodeWords 0b1000111_010_11001000_00000100_000100#32 0b00000101_0011_0001001_000000_0101_1_00#32 = .ok (.vsqrt ⟨2, 200, 4, 5, 3, 9, 0, 5, 1, 0⟩) ∧
    decodeWords 0b1000111_010_11001000_00000100_000101#32 0b00000101_0011_0001001_000000_0101_1_00#32 = .ok (.vsin ⟨2, 200, 4, 5, 3, 9, 0, 5, 1, 0⟩) ∧
    decodeWords 0b1000111_010_11001000_00000100_000110#32 0b00000101_0011_0001001_000000_0101_1_00#32 = .ok (.vcos ⟨2, 200, 4, 5, 3, 9, 0, 5, 1, 0⟩) ∧
    decodeWords 0b1000111_010_11001000_00000100_000111#32 0b00000101_0011_0001001_000000_0101_1_00#32 = .ok (.vtanh ⟨2, 200, 4, 5, 3, 9, 0, 5, 1, 0⟩) ∧
    decodeWords 0b1001000_010_11001000_00000100_000101#32 0b00000101_0011_0001001_000000_0101_1_00#32 = .ok (.vtbl 5 ⟨2, 200, 4, 5, 3, 9, 0, 5, 1, 0⟩) := by
  and_intros <;> rfl

/-- Words written out field by field from the formats of R25 and R26 and the opcode map of R38 and R33. -/
theorem test_decode_memory_1 :
    decodeWords 0b1010001_100_00001000_001010_00_100011#32 0b00000010_10000000000001000_0010_1_00#32 = .ok (.ld ⟨4, 8, 10, 0, 35, 2, 0x10008, 2, 1⟩) ∧
    decodeWords 0b1010010_100_00001000_001010_00_011100#32 0b00000010_10000000000001000_0010_1_00#32 = .ok (.st ⟨4, 8, 10, 0, 28, 2, 0x10008, 2, 1⟩) ∧
    decodeWords 0b1010011_100_00001000_001010_00_010010#32 0b00000010_10000000000001000_0010_1_00#32 = .ok (.lds ⟨4, 8, 10, 0, 18, 2, 0x10008, 2, 1⟩) ∧
    decodeWords 0b1010100_100_00001000_001010_00_010100#32 0b00000010_10000000000001000_0010_1_00#32 = .ok (.sts ⟨4, 8, 10, 0, 20, 2, 0x10008, 2, 1⟩) ∧
    decodeWords 0b1010101_100_00001000_001010_00_100110#32 0b00000010_0000_1000000001000_0010_1_00#32 = .ok (.atomAdd ⟨4, 8, 10, 0, 38, 2, 0x1008, 2, 1⟩) ∧
    decodeWords 0b1010101_100_00001000_001010_00_100110#32 0b00000010_0001_1000000001000_0010_1_00#32 = .ok (.atomSub ⟨4, 8, 10, 0, 38, 2, 0x1008, 2, 1⟩) ∧
    decodeWords 0b1010101_100_00001000_001010_00_100110#32 0b00000010_0010_1000000001000_0010_1_00#32 = .ok (.atomMin ⟨4, 8, 10, 0, 38, 2, 0x1008, 2, 1⟩) ∧
    decodeWords 0b1010101_100_00001000_001010_00_100110#32 0b00000010_0011_1000000001000_0010_1_00#32 = .ok (.atomMax ⟨4, 8, 10, 0, 38, 2, 0x1008, 2, 1⟩) ∧
    decodeWords 0b1010101_100_00001000_001010_00_100110#32 0b00000010_0100_1000000001000_0010_1_00#32 = .ok (.atomMinu ⟨4, 8, 10, 0, 38, 2, 0x1008, 2, 1⟩) ∧
    decodeWords 0b1010101_100_00001000_001010_00_100110#32 0b00000010_0101_1000000001000_0010_1_00#32 = .ok (.atomMaxu ⟨4, 8, 10, 0, 38, 2, 0x1008, 2, 1⟩) ∧
    decodeWords 0b1010101_100_00001000_001010_00_100110#32 0b00000010_0110_1000000001000_0010_1_00#32 = .ok (.atomAnd ⟨4, 8, 10, 0, 38, 2, 0x1008, 2, 1⟩) ∧
    decodeWords 0b1010101_100_00001000_001010_00_100110#32 0b00000010_0111_1000000001000_0010_1_00#32 = .ok (.atomOr ⟨4, 8, 10, 0, 38, 2, 0x1008, 2, 1⟩) ∧
    decodeWords 0b1010101_100_00001000_001010_00_100110#32 0b00000010_1000_1000000001000_0010_1_00#32 = .ok (.atomXor ⟨4, 8, 10, 0, 38, 2, 0x1008, 2, 1⟩) ∧
    decodeWords 0b1010101_100_00001000_001010_00_100110#32 0b00000010_1001_1000000001000_0010_1_00#32 = .ok (.atomXchg ⟨4, 8, 10, 0, 38, 2, 0x1008, 2, 1⟩) ∧
    decodeWords 0b1010101_100_00001000_001010_00_100110#32 0b00000010_1010_1000000001000_0010_1_00#32 = .ok (.atomCas ⟨4, 8, 10, 0, 38, 2, 0x1008, 2, 1⟩) ∧
    decodeWords 0b1010101_100_00001000_001010_00_100110#32 0b00000010_1011_1000000001000_0010_1_00#32 = .ok (.atomFaddF32 ⟨4, 8, 10, 0, 38, 2, 0x1008, 2, 1⟩) ∧
    decodeWords 0b1010101_100_00001000_001010_00_100110#32 0b00000010_1100_1000000001000_0010_1_00#32 = .ok (.atomFmaxF32 ⟨4, 8, 10, 0, 38, 2, 0x1008, 2, 1⟩) ∧
    decodeWords 0b1010110_100_00001000_001010_00_100100#32 0b00000010_0000_1000000001000_0010_1_00#32 = .ok (.atomsAdd ⟨4, 8, 10, 0, 36, 2, 0x1008, 2, 1⟩) ∧
    decodeWords 0b1010110_100_00001000_001010_00_100100#32 0b00000010_0001_1000000001000_0010_1_00#32 = .ok (.atomsSub ⟨4, 8, 10, 0, 36, 2, 0x1008, 2, 1⟩) ∧
    decodeWords 0b1010110_100_00001000_001010_00_100100#32 0b00000010_0010_1000000001000_0010_1_00#32 = .ok (.atomsMin ⟨4, 8, 10, 0, 36, 2, 0x1008, 2, 1⟩) ∧
    decodeWords 0b1010110_100_00001000_001010_00_100100#32 0b00000010_0011_1000000001000_0010_1_00#32 = .ok (.atomsMax ⟨4, 8, 10, 0, 36, 2, 0x1008, 2, 1⟩) ∧
    decodeWords 0b1010110_100_00001000_001010_00_100100#32 0b00000010_0100_1000000001000_0010_1_00#32 = .ok (.atomsMinu ⟨4, 8, 10, 0, 36, 2, 0x1008, 2, 1⟩) ∧
    decodeWords 0b1010110_100_00001000_001010_00_100100#32 0b00000010_0101_1000000001000_0010_1_00#32 = .ok (.atomsMaxu ⟨4, 8, 10, 0, 36, 2, 0x1008, 2, 1⟩) ∧
    decodeWords 0b1010110_100_00001000_001010_00_100100#32 0b00000010_0110_1000000001000_0010_1_00#32 = .ok (.atomsAnd ⟨4, 8, 10, 0, 36, 2, 0x1008, 2, 1⟩) ∧
    decodeWords 0b1010110_100_00001000_001010_00_100100#32 0b00000010_0111_1000000001000_0010_1_00#32 = .ok (.atomsOr ⟨4, 8, 10, 0, 36, 2, 0x1008, 2, 1⟩) ∧
    decodeWords 0b1010110_100_00001000_001010_00_100100#32 0b00000010_1000_1000000001000_0010_1_00#32 = .ok (.atomsXor ⟨4, 8, 10, 0, 36, 2, 0x1008, 2, 1⟩) ∧
    decodeWords 0b1010110_100_00001000_001010_00_100100#32 0b00000010_1001_1000000001000_0010_1_00#32 = .ok (.atomsXchg ⟨4, 8, 10, 0, 36, 2, 0x1008, 2, 1⟩) ∧
    decodeWords 0b1010110_100_00001000_001010_00_100100#32 0b00000010_1010_1000000001000_0010_1_00#32 = .ok (.atomsCas ⟨4, 8, 10, 0, 36, 2, 0x1008, 2, 1⟩) := by
  and_intros <;> rfl

/-- Words written out field by field from the formats of R25 and R26 and the opcode map of R38 and R33. -/
theorem test_decode_memory_2 :
    decodeWords 0b1010110_100_00001000_001010_00_100100#32 0b00000010_1011_1000000001000_0010_1_00#32 = .ok (.atomsFaddF32 ⟨4, 8, 10, 0, 36, 2, 0x1008, 2, 1⟩) ∧
    decodeWords 0b1010110_100_00001000_001010_00_100100#32 0b00000010_1100_1000000001000_0010_1_00#32 = .ok (.atomsFmaxF32 ⟨4, 8, 10, 0, 36, 2, 0x1008, 2, 1⟩) ∧
    decodeWords 0b1010111_100_00001000_001010_00_000000#32 0b00000010_10000000000001000_0010_1_00#32 = .ok (.mon ⟨4, 8, 10, 0, 0, 2, 0x10008, 2, 1⟩) ∧
    decodeWords 0b1011000_000_01111100_001010_10_001000#32 0b00000010_10000000000001000_0010_1_00#32 = .ok (.pref ⟨0, 0x7C, 10, 2, 8, 2, 0x10008, 2, 1⟩) := by
  and_intros <;> rfl

/-- Words written out field by field from the formats of R25 and R26 and the opcode map of R38. -/
theorem test_decode_engines :
    decodeWords 0b1011001_010100_010110_011000_0000000#32 0x12345 = .ok (.cpyMs ⟨20, 22, 24, 0x12345⟩) ∧
    decodeWords 0b1011001_010100_010110_011000_0000001#32 0x12345 = .ok (.cpySm ⟨20, 22, 24, 0x12345⟩) ∧
    decodeWords 0b1011001_010100_010110_011000_0000010#32 0x12345 = .ok (.cpyMm ⟨20, 22, 24, 0x12345⟩) ∧
    decodeWords 0b1011001_010100_010110_011000_0000011#32 0x12345 = .ok (.cpyPp ⟨20, 22, 24, 0x12345⟩) ∧
    decodeWords 0b1011010_010100_010110_011000_0000000#32 0x12345 = .ok (.gath ⟨20, 22, 24, 0x12345⟩) ∧
    decodeWords 0b1011010_010100_010110_011000_0000001#32 0x12345 = .ok (.scat ⟨20, 22, 24, 0x12345⟩) ∧
    decodeWords 0b1011011_010100_000000_000000_0000000#32 0x12345 = .ok (.prom ⟨20, 0, 0, 0x12345⟩) ∧
    decodeWords 0b1011011_010100_000000_000000_0000001#32 0x12345 = .ok (.dmot ⟨20, 0, 0, 0x12345⟩) ∧
    decodeWords 0b1011100_010100_010110_011000_0000000#32 0x12345 = .ok (.wbld ⟨20, 22, 24, 0x12345⟩) ∧
    decodeWords 0b1100111_010100_000000_000000_0000101#32 0x12345 = .ok (.tblld 5 ⟨20, 0, 0, 0x12345⟩) ∧
    decodeWords 0b1101000_000000_000000_000000_0000101#32 0x0 = .ok (.tblsw 5 ⟨0, 0, 0, 0x0⟩) ∧
    decodeWords 0b1101001_010100_010110_000000_0000000#32 0x12345 = .ok (.kapp ⟨20, 22, 0, 0x12345⟩) ∧
    decodeWords 0b1101010_010100_000000_000000_0000000#32 0x12345 = .ok (.ksel ⟨20, 0, 0, 0x12345⟩) ∧
    decodeWords 0b1101011_010100_000000_000000_0000000#32 0x12345 = .ok (.katt ⟨20, 0, 0, 0x12345⟩) ∧
    decodeWords 0b1101100_010100_010110_000000_0000000#32 0x12345 = .ok (.ksum ⟨20, 22, 0, 0x12345⟩) ∧
    decodeWords 0b1101101_010100_000000_000000_0000000#32 0x12345 = .ok (.spawn ⟨20, 0, 0, 0x12345⟩) ∧
    decodeWords 0b1101110_000000_000000_000000_0000000#32 0x0 = .ok (.join ⟨0, 0, 0, 0x0⟩) := by
  and_intros <;> rfl

/-- Words written out field by field from the formats of R25 and R26 and the opcode map of R38 and R34. -/
theorem test_decode_matrix :
    decodeWords 0b1100000_001110_001010_001100_0000000#32 0b010000_000000_0000_1_1_1_0000000000000#32 = .ok (.mma ⟨14, 10, 12, 16, 0, 1, 1, 1⟩) ∧
    decodeWords 0b1100001_001110_001010_001100_0000000#32 0b010000_000110_0000_1_1_1_0000000000000#32 = .ok (.mmas ⟨14, 10, 12, 16, 6, 1, 1, 1⟩) ∧
    decodeWords 0b1100010_001110_001010_001100_0000001#32 0b010000_000000_0000_1_0_1_0000000000000#32 = .ok (.acld 1 ⟨14, 10, 12, 16, 0, 1, 0, 1⟩) ∧
    decodeWords 0b1100011_001110_001010_001100_0000001#32 0b010000_000000_0000_1_0_1_0000000000000#32 = .ok (.acst 1 ⟨14, 10, 12, 16, 0, 1, 0, 1⟩) ∧
    decodeWords 0b1100100_010_11001000_00000100_000000#32 0b00000101_0011_0001001_001110_0101_1_00#32 = .ok (.acrd ⟨2, 200, 4, 5, 3, 9, 14, 5, 1, 0⟩) ∧
    decodeWords 0b1100101_010_11001000_00000100_000000#32 0b00000101_0011_0001001_001110_0101_1_00#32 = .ok (.acwr ⟨2, 200, 4, 5, 3, 9, 14, 5, 1, 0⟩) ∧
    decodeWords 0b1100110_010_11001000_00000100_000000#32 0b00000101_0011_0001001_001110_0101_1_00#32 = .ok (.acopZero ⟨2, 200, 4, 5, 3, 9, 14, 5, 1, 0⟩) ∧
    decodeWords 0b1100110_010_11001000_00000100_000001#32 0b00000101_0011_0001001_001110_0101_1_00#32 = .ok (.acopMulrow ⟨2, 200, 4, 5, 3, 9, 14, 5, 1, 0⟩) ∧
    decodeWords 0b1100110_010_11001000_00000100_000010#32 0b00000101_0011_0001001_001110_0101_1_00#32 = .ok (.acopAddrow ⟨2, 200, 4, 5, 3, 9, 14, 5, 1, 0⟩) ∧
    decodeWords 0b1100110_010_11001000_00000100_000011#32 0b00000101_0011_0001001_001110_0101_1_00#32 = .ok (.acopFold ⟨2, 200, 4, 5, 3, 9, 14, 5, 1, 0⟩) ∧
    decodeWords 0b1100110_010_11001000_00000100_000100#32 0b00000101_0011_0001001_001110_0101_1_00#32 = .ok (.acopMaxrow ⟨2, 200, 4, 5, 3, 9, 14, 5, 1, 0⟩) := by
  and_intros <;> rfl

/-- Words written out field by field from the formats of R25 and R26 and the opcode map of R38. -/
theorem test_decode_package :
    decodeWords 0b1101111_000_00000001_00000100_000000#32 0b01111100_0000_0000000_000111_0101_1_00#32 = .ok (.qpush ⟨0, 1, 4, 124, 0, 0, 7, 5, 1, 0⟩) ∧
    decodeWords 0b1110000_000_00000001_00000100_000000#32 0b01111100_0000_0000000_000111_0101_1_00#32 = .ok (.qpop ⟨0, 1, 4, 124, 0, 0, 7, 5, 1, 0⟩) ∧
    decodeWords 0b1110001_010100_010110_011000_0000000#32 0x12345 = .ok (.fput ⟨20, 22, 24, 0x12345⟩) ∧
    decodeWords 0b1110010_010100_010110_011000_0000000#32 0x12345 = .ok (.fget ⟨20, 22, 24, 0x12345⟩) ∧
    decodeWords 0b1110011_010100_000000_000000_0000000#32 0x12345 = .ok (.fcollAllreduce ⟨20, 0, 0, 0x12345⟩) ∧
    decodeWords 0b1110011_010100_000000_000000_0000001#32 0x12345 = .ok (.fcollReduce ⟨20, 0, 0, 0x12345⟩) ∧
    decodeWords 0b1110011_010100_000000_000000_0000010#32 0x12345 = .ok (.fcollBcast ⟨20, 0, 0, 0x12345⟩) ∧
    decodeWords 0b1110011_010100_000000_000000_0000011#32 0x12345 = .ok (.fcollMcast ⟨20, 0, 0, 0x12345⟩) ∧
    decodeWords 0b1110011_010100_000000_000000_0000100#32 0x12345 = .ok (.fcollAllgather ⟨20, 0, 0, 0x12345⟩) ∧
    decodeWords 0b1110100_010100_000000_011000_0000000#32 0x5 = .ok (.dbgSetbrk ⟨20, 0, 24, 0x5⟩) ∧
    decodeWords 0b1110100_010100_000000_011000_0000001#32 0x5 = .ok (.dbgClrbrk ⟨20, 0, 24, 0x5⟩) ∧
    decodeWords 0b1110100_010100_000000_011000_0000010#32 0x0 = .ok (.dbgHalt ⟨20, 0, 24, 0x0⟩) ∧
    decodeWords 0b1110100_010100_000000_011000_0000011#32 0x0 = .ok (.dbgResume ⟨20, 0, 24, 0x0⟩) ∧
    decodeWords 0b1110100_010100_000000_011000_0000100#32 0x11 = .ok (.dbgStep ⟨20, 0, 24, 0x11⟩) ∧
    decodeWords 0b1110100_010100_010110_011000_0000101#32 0x3 = .ok (.dbgWatch ⟨20, 22, 24, 0x3⟩) ∧
    decodeWords 0b1110100_010100_000000_011000_0000110#32 0x3 = .ok (.dbgUnwatch ⟨20, 0, 24, 0x3⟩) ∧
    decodeWords 0b1110100_010100_000000_011000_0000111#32 0x10011 = .ok (.dbgRdreg ⟨20, 0, 24, 0x10011⟩) ∧
    decodeWords 0b1110100_010100_010110_011000_0001000#32 0x10011 = .ok (.dbgWrreg ⟨20, 22, 24, 0x10011⟩) ∧
    decodeWords 0b1110101_010100_010110_011000_0000000#32 0x0 = .ok (.trcOn ⟨20, 22, 24, 0x0⟩) ∧
    decodeWords 0b1110101_000000_010110_011000_0000001#32 0x0 = .ok (.trcOff ⟨0, 22, 24, 0x0⟩) ∧
    decodeWords 0b1110101_000000_010110_011000_0000010#32 0x0 = .ok (.trcAnchor ⟨0, 22, 24, 0x0⟩) ∧
    decodeWords 0b1110101_000000_010110_000000_0000011#32 0x12345 = .ok (.trcMark ⟨0, 22, 0, 0x12345⟩) ∧
    decodeWords 0b1110110_010100_000000_011000_0000000#32 0x0 = .ok (.sampCfg ⟨20, 0, 24, 0x0⟩) ∧
    decodeWords 0b1110110_000000_000000_011000_0000001#32 0x0 = .ok (.sampStart ⟨0, 0, 24, 0x0⟩) ∧
    decodeWords 0b1110110_000000_000000_011000_0000010#32 0x0 = .ok (.sampStop ⟨0, 0, 24, 0x0⟩) ∧
    decodeWords 0b1110111_010100_010110_000000_0000000#32 0x0 = .ok (.sysTlbinv ⟨20, 22, 0, 0x0⟩) ∧
    decodeWords 0b1110111_010100_000000_000000_0000001#32 0x2 = .ok (.sysFeat ⟨20, 0, 0, 0x2⟩) := by
  and_intros <;> rfl

/-- Encodings that the entries of the instructions give as worked examples. -/
theorem test_decode_examples_1 :
    decodeWords 0x02189FF9 0 = .ok (.addImm 3 4 0xFF9) ∧
    decodeWords 0x0E30C007 0 = .ok (.divuReg 6 6 7) ∧
    decodeWords 0x80380000 0x12345678 = .ok (.sli 7 0x12345678) ∧
    decodeWords 0x3C181000 0 = .ok (.rdsr 3 0) ∧
    decodeWords 0x3E009001 0 = .ok (.wrsr 4 1) ∧
    decodeWords 0x78500000 0 = .ok (.clk 10) ∧
    decodeWords 0x54001012 0 = .ok (.trap 0x12) ∧
    decodeWords 0x5E001007 0 = .ok (.brk 7) ∧
    decodeWords 0x58001001 0 = .ok (.tmsk 1) ∧
    decodeWords 0x5A014000 0 = .ok (.settmr 10) ∧
    decodeWords 0x868282C3 0x0C000039 = .ok (.vfma ⟨2, 10, 11, 12, 0, 0, 0, 7, 0, 1⟩) ∧
    decodeWords 0x880080C0 0x7F0002B8 = .ok (.vceq ⟨0, 2, 3, 0x7F, 0, 0, 5, 7, 0, 0⟩) ∧
    decodeWords 0x8A851F08 0x15000038 = .ok (.vcvt 8 ⟨2, 20, 0x7C, 21, 0, 0, 0, 7, 0, 0⟩) ∧
    decodeWords 0x9481C246 0x7C000038 = .ok (.vrfadd ⟨2, 7, 9, 0x7C, 0, 0, 0, 7, 0, 0⟩) ∧
    decodeWords 0x9A00C040 0x02000038 = .ok (.pand ⟨0, 3, 1, 2, 0, 0, 0, 7, 0, 0⟩) ∧
    decodeWords 0x52008000 0 = .ok (.waitm 4) ∧
    decodeWords 0x7A001001 0 = .ok (.hrel 1) ∧
    decodeWords 0xC0518700 0x40004000 = .ok (.mma ⟨10, 12, 14, 16, 0, 0, 1, 0⟩) ∧
    decodeWords 0xB8518700 0x00000005 = .ok (.wbld ⟨10, 12, 14, 5⟩) ∧
    decodeWords 0xC8811F00 0x7C000738 = .ok (.acrd ⟨2, 4, 0x7C, 0x7C, 0, 0, 14, 7, 0, 0⟩) ∧
    decodeWords 0xB2A2CC00 0x00000007 = .ok (.cpyMs ⟨20, 22, 24, 7⟩) ∧
    decodeWords 0xD2A2C000 0x00000003 = .ok (.kapp ⟨20, 22, 0, 3⟩) ∧
    decodeWords 0xD8A2C000 0x00000006 = .ok (.ksum ⟨20, 22, 0, 6⟩) ∧
    decodeWords 0xD4A00000 0x00000004 = .ok (.ksel ⟨20, 0, 0, 4⟩) ∧
    decodeWords 0xD6A00000 0x00000005 = .ok (.katt ⟨20, 0, 0, 5⟩) ∧
    decodeWords 0xEEA2C000 0x00000000 = .ok (.sysTlbinv ⟨20, 22, 0, 0⟩) ∧
    decodeWords 0xEEA00001 0x00000002 = .ok (.sysFeat ⟨20, 0, 0, 2⟩) ∧
    decodeWords 0xEAA30B00 0x00000000 = .ok (.trcOn ⟨20, 24, 22, 0⟩) ∧
    decodeWords 0xEA00A003 0x00000007 = .ok (.trcMark ⟨0, 5, 0, 7⟩) ∧
    decodeWords 0xA3013A00 0x02002038 = .ok (.ld ⟨4, 4, 58, 0, 0, 2, 64, 7, 0⟩) ∧
    decodeWords 0xA301BA22 0x7C004038 = .ok (.ld ⟨4, 6, 58, 0, 0x22, 0x7C, 128, 7, 0⟩) ∧
    decodeWords 0xA5017A24 0x7C004038 = .ok (.st ⟨4, 5, 58, 0, 0x24, 0x7C, 128, 7, 0⟩) ∧
    decodeWords 0xA701C000 0x02010038 = .ok (.lds ⟨4, 7, 0, 0, 0, 2, 0x200, 7, 0⟩) := by
  and_intros <;> rfl

/-- Encodings that the entries of the instructions give as worked examples. -/
theorem test_decode_examples_2 :
    decodeWords 0xAB023A00 0x03000038 = .ok (.atomAdd ⟨4, 8, 58, 0, 0, 3, 0, 7, 0⟩) ∧
    decodeWords 0xAF027A00 0x7C008038 = .ok (.mon ⟨4, 9, 58, 0, 0, 0x7C, 256, 7, 0⟩) ∧
    decodeWords 0xB01F3A00 0x02000038 = .ok (.pref ⟨0, 0x7C, 58, 0, 0, 2, 0, 7, 0⟩) ∧
    decodeWords 0x60001002 0 = .ok (.fenceRel 2) ∧
    decodeWords 0x60001006 0 = .ok (.fenceAcq 2) ∧
    decodeWords 0x6000100B 0 = .ok (.fenceFull 3) ∧
    decodeWords 0x6000102C 0 = .ok (.fencePath 0 2) ∧
    decodeWords 0x6A001020 0 = .ok (.vgrow 32) ∧
    decodeWords 0x6C001010 0 = .ok (.vshrk 16) ∧
    decodeWords 0x6E281003 0 = .ok (.crd 5 3) ∧
    decodeWords 0x7000D003 0 = .ok (.cwr 6 3) ∧
    decodeWords 0x7228D003 0 = .ok (.cadd 5 6 3) ∧
    decodeWords 0x7428D003 0 = .ok (.ccas 5 6 3) ∧
    decodeWords 0x50001001 0 = .ok (.bar 1) ∧
    decodeWords 0x50001004 0 = .ok (.barArrive 0) ∧
    decodeWords 0x50001009 0 = .ok (.barWait 1) ∧
    decodeWords 0x5C001003 0 = .ok (.perf 3) ∧
    decodeWords 0xA01F1F00 0x03000038 = .ok (.vperf ⟨0, 0x7C, 0x7C, 3, 0, 0, 0, 7, 0, 0⟩) ∧
    decodeWords 0xCC9F1F01 0x01000A38 = .ok (.acopMulrow ⟨2, 0x7C, 0x7C, 1, 0, 0, 20, 7, 0, 0⟩) ∧
    decodeWords 0xC6E00A01 0x78000000 = .ok (.acst 1 ⟨28, 0, 20, 30, 0, 0, 0, 0⟩) ∧
    decodeWords 0x92008081 0x7F000BB8 = .ok (.vsel ⟨0, 2, 2, 0x7F, 0, 0, 23, 7, 0, 0⟩) ∧
    decodeWords 0x9C200000 0x00070015 = .ok (.vbr 1 0 7 21) ∧
    decodeWords 0xA9010000 0x03010038 = .ok (.sts ⟨4, 4, 0, 0, 0, 3, 0x200, 7, 0⟩) ∧
    decodeWords 0xAB40BA00 0x7C040038 = .ok (.atomAdd ⟨5, 2, 58, 0, 0, 0x7C, 0x800, 7, 0⟩) ∧
    decodeWords 0x456FFFF8 0 = .ok (.bnz 45 0x7FFF8) ∧
    decodeWords 0xB6A00001 0x00000008 = .ok (.dmot ⟨20, 0, 0, 8⟩) ∧
    decodeWords 0xDAA00000 0x80000003 = .ok (.spawn ⟨20, 0, 0, 0x80000003⟩) ∧
    decodeWords 0xDE004100 0x7C0003B8 = .ok (.qpush ⟨0, 1, 4, 0x7C, 0, 0, 7, 7, 0, 0⟩) ∧
    decodeWords 0xE2A2CC00 0x00000009 = .ok (.fput ⟨20, 22, 24, 9⟩) ∧
    decodeWords 0xE8C34B05 0x00000000 = .ok (.dbgWatch ⟨24, 26, 22, 0⟩) ∧
    decodeWords 0xECA00B00 0x00000000 = .ok (.sampCfg ⟨20, 0, 22, 0⟩) := by
  and_intros <;> rfl

/-! ### Witnesses: states and operands that meet the hypotheses of each statement -/

/-- A warp of context 0 on core 0, at the first of the words of a run. -/
def resting : State := State.reset.withFetchWord 32 0

/-- The same with the warp changed. -/
def put (f : Warp → Warp) : State := resting.updWarp 0 f

/-- One thread in the mask, s10:s11 at the page 0x10000, and a handler installed. -/
def oneThread (w : Warp) : Warp := { (w.setPair 10 0x10000).setMask 1 with tvec := 0x100 }

/-- A warp with its page in the TLB of its core. -/
def mapped (f : Warp → Warp) (leaf : DWord) : State :=
  (put fun w => f (oneThread w)).updCore 0 fun c => { c with tlb := [⟨0, 0x10000, 65536, leaf, 0⟩] }

/-- The leaf of a writable page at 0x20000. -/
def plainLeaf : DWord := 0x20003

/-- A V-format instruction's fields, for v2 and v3 into v1. -/
def vf (ty : BitVec 3) : VForm := ⟨ty, 1, 2, 3, 0, 0, 0, 7, 0, 0⟩

def mf (sz : BitVec 3) (qual : BitVec 6) : MForm := ⟨sz, 4, 10, 0, qual, 0x7C, 0, 7, 0⟩

def withHandler (w : Warp) : Warp := { w with tvec := 0x100 }

/-- A warp at the offset 0 of a code section that holds the words, its page in the TLB of its core. -/
def coded (f : Warp → Warp) (ws : List Word) : State :=
  let s := put fun w => f { withHandler w with phase := .fetch, resume := none, next := 0, run := none }
  { s.updCore 0 fun c => { c with tlb := [⟨0, 0, 65536, 0x20007, 0⟩] } with
    mem := Memory.writeBytes [] 0x20000 (ws.flatMap fun w => natBytes 4 w.toNat) }

/-- A header of a run of one instruction, with every engine class and all temporaries, and `sub s5, s6, -1`. -/
def oneSub : List Word := [0b000000000000_10110_100_0_111111_00001#32, 0b0000010_000101_000110_1_111111111111#32]

theorem test_witness_ScalarArithmetic : ∃ w, resting.curWarp = some w := ⟨_, rfl⟩

theorem test_witness_ScalarWide : ∃ w, resting.curWarp = some w ∧ (10 : BitVec 6).getLsbD 0 = false := ⟨_, rfl, rfl⟩

theorem test_witness_SpecialRegisters : ∃ w c, resting.curWarp = some w ∧ resting.caravan? w.caravan = some c ∧ w.lastOfRun = true :=
  ⟨_, _, rfl, rfl, rfl⟩

theorem test_witness_Branches :
    (∃ w, (put fun w => withHandler (w.setS 5 2)).curWarp = some w ∧ HandlerFree w ∧ (w.sreg 5).toNat % 4 ≠ 0) ∧
    ∃ w, resting.curWarp = some w ∧ (w.sreg 60).toNat % 4 = 0 :=
  ⟨⟨_, rfl, ⟨by decide, rfl⟩, by decide⟩, _, rfl, rfl⟩

theorem test_witness_Divergence :
    (∃ w, resting.curWarp = some w ∧ isNever 7 0 = false ∧ w.depth + 1 ≤ 1024 ∧ w.stack = []) ∧
    (∃ w, (put fun w => { withHandler w with spilled := 1024 }).curWarp = some w ∧ HandlerFree w ∧ 1024 < w.depth + 1) ∧
    isNever 7 1 = true ∧ ∃ w e rest, (put fun w => { w with stack := [⟨.join, 8, 1⟩] }).curWarp = some w ∧ w.stack = e :: rest :=
  ⟨⟨_, rfl, rfl, by decide, rfl⟩, ⟨_, rfl, ⟨by decide, rfl⟩, by decide⟩, rfl, _, _, _, rfl, rfl⟩

/-- The warp of `coded` at an instruction of thread 0. -/
def codedAt (f : Warp → Warp) (ws : List Word) : State :=
  coded (fun w => f { (w.setMask 1) with phase := .issuing }) ws

/-- The ways an extent answers: the run at offset 0 has one, a word of zeros has none, and a page without a translation is waited for. -/
def extents (f : Warp → Warp) : Prop :=
  (∃ w n, (codedAt f oneSub).curWarp = some w ∧ (codedAt f oneSub).extentOf w 0 = .behind n) ∧
  (∃ w, (codedAt f []).curWarp = some w ∧ (codedAt f []).extentOf w 0 = .none) ∧
  ∃ w u, (State.updCore (codedAt f []) 0 fun c => { c with tlb := [] }).curWarp = some w
    ∧ (State.updCore (codedAt f []) 0 fun c => { c with tlb := [] }).extentOf w 0 = .waits u

theorem test_witness_ExitPath :
    (∃ w, resting.curWarp = some w ∧ (w.stack = [] → w.spilled = 0) ∧ w.depth ≤ 1024) ∧
    (∃ w, (put fun w => { w.setMask 1 with stack := [⟨.join, 8, 1⟩, ⟨.pending, 8, 2⟩] }).curWarp = some w ∧ w.depth ≤ 1024 ∧
      (w.stack.map fun e => e.mask &&& ~~~w.mask) = [0, 2]) ∧
    extents fun w => { w with stack := [⟨.join, 0, 2⟩] } :=
  ⟨⟨_, rfl, fun _ => rfl, by decide⟩, ⟨_, rfl, by decide, by decide⟩, ⟨_, _, rfl, rfl⟩, ⟨_, rfl, rfl⟩, _, _, rfl, rfl⟩

theorem test_witness_TrapEntry :
    (∃ w, (put withHandler).curWarp = some w ∧ HandlerFree w ∧ (put withHandler).brkClaimed w = false) ∧
    (∃ w, resting.curWarp = some w ∧ resting.brkClaimed w = false ∧ w.tvec = 0 ∧ NoHaltOnFault resting w) ∧
    ∃ c, Tbl.find (resting.setContext 0 { standInContext with haltOnFault := true }).contexts 0 = some c ∧ c.haltOnFault = true :=
  ⟨⟨_, rfl, ⟨by decide, rfl⟩, rfl⟩, ⟨_, rfl, rfl, rfl, fun _ h => by cases h; rfl⟩, _, rfl, rfl⟩

theorem test_witness_OperandTraps :
    (∃ w r, (put withHandler).curWarp = some w ∧ rawOf (.vaddInteger { vf 0 with vd := 0x7F }) = some r
      ∧ operandsOk r ((put withHandler).tracksOf w) = false ∧ HandlerFree w) ∧
    (∃ w r, (put fun w => { withHandler w with quota := 2 }).curWarp = some w ∧ rawOf (.vaddInteger (vf 0)) = some r
      ∧ operandsOk r ((put withHandler).tracksOf w) = true ∧ rawNever r = false ∧ overQuota r w.quota = true ∧ HandlerFree w) ∧
    ∃ w r, (resting.updCaravan 0 fun c => c.markWrote 0 0).curWarp = some w ∧ rawOf (.vaddInteger { vf 0 with vd := 0x80 }) = some r
      ∧ operandsOk r (resting.tracksOf w) = true ∧ rawNever r = false ∧ overQuota r w.quota = false
      ∧ (resting.updCaravan 0 fun c => c.markWrote 0 0).hazard w r = false
      ∧ (resting.updCaravan 0 fun c => c.markWrote 0 0).rewrites w r = true :=
  ⟨⟨_, _, rfl, rfl, rfl, ⟨by decide, rfl⟩⟩, ⟨_, _, rfl, rfl, rfl, rfl, rfl, ⟨by decide, rfl⟩⟩, _, _, rfl, rfl, rfl, rfl, rfl, rfl, rfl⟩

theorem test_witness_TrapReturn :
    (∃ w, (put withHandler).curWarp = some w ∧ HandlerFree w) ∧
    (∃ w, (put fun w => { withHandler w with handlerActive := true, tcause := 7 }).curWarp = some w ∧ w.handlerActive = true) ∧
    (∃ x, (put fun w => { w with phase := .fetch, timer := 0 }).warp? 0 = some x ∧ x.phase = .fetch ∧ x.resume = none) ∧
    (extents fun w => { w with handlerActive := true, tcause := 0x13 }) ∧
    ∃ w, (put fun w => { withHandler w with handlerActive := true, tcause := 7 }).curWarp = some w
      ∧ NoHaltOnFault (put fun w => { withHandler w with handlerActive := true, tcause := 7 }) w :=
  ⟨⟨_, rfl, ⟨by decide, rfl⟩⟩, ⟨_, rfl, rfl⟩, ⟨_, rfl, rfl, rfl⟩, ⟨⟨_, _, rfl, rfl⟩, ⟨_, rfl, rfl⟩, _, _, rfl, rfl⟩,
    _, rfl, fun _ h => by cases h; rfl⟩

/-- The instruction may begin, on a warp with nothing under way. -/
def begins (i : Instr) : Prop := ∃ w, resting.curWarp = some w ∧ Ready resting w i

theorem begins_of {i : Instr} {r : Raw} (h : rawOf i = some r)
    (k : (match resting.curWarp with | some w => resting.ready w r | none => false) = true) : begins i := by
  cases hw : resting.curWarp with
  | none => simp [hw] at k
  | some w => exact ⟨w, hw, r, h, by simpa [hw] using k⟩

theorem test_witness_VectorInteger : begins (.vaddInteger (vf 0)) ∧ begins (.vmulh (vf 7)) ∧ begins (.vadds (vf 6)) :=
  ⟨begins_of rfl rfl, begins_of rfl rfl, begins_of rfl rfl⟩

theorem test_witness_VectorWords : begins (.vand (vf 0)) ∧ begins (.vbfe (vf 0)) ∧ begins (.vnot { vf 0 with va := 0x7C }) :=
  ⟨begins_of rfl rfl, begins_of rfl rfl, begins_of rfl rfl⟩

theorem test_witness_LaneMoves :
    begins (.vrdl { vf 0 with vb := 0x7C, ppar := 95 }) ∧ begins (.vwrl { vf 0 with va := 0x7C, vb := 0x7F, ppar := 95 }) :=
  ⟨begins_of rfl rfl, begins_of rfl rfl⟩

theorem test_witness_IntegerReductions : begins (.vradd { vf 0 with vb := 0x7C }) ∧ begins (.vscanAdd { vf 0 with vb := 0x7F })
    ∧ begins (.vscanMax { vf 1 with vb := 0x7C }) :=
  ⟨begins_of rfl rfl, begins_of rfl rfl, begins_of rfl rfl⟩

theorem test_witness_PredicatesAndCarryless : begins (.vclmul (vf 0)) ∧ begins (.pand (vf 0)) ∧ begins (.pcnt { vf 0 with vb := 0 })
    ∧ begins (.ptos { vf 0 with vb := 0, vd := 61 }) :=
  ⟨begins_of rfl rfl, begins_of rfl rfl, begins_of rfl rfl, begins_of rfl rfl⟩

theorem test_witness_NumberFormats :
    (0x3F800001 < 2 ^ Fmt.f32.width ∧ Fmt.f32.decode 0x3F800001 = .fin false 8388609 (-23)) ∧
    (1 : ℚ) / 3 * (2 : ℚ) ^ (0 : Int) ≤ (Fmt.f16.maxFinite.1 : ℚ) * (2 : ℚ) ^ Fmt.f16.maxFinite.2 ∧
    isFin (.fin true 3 0) = true :=
  ⟨⟨by decide, rfl⟩, by norm_num [Fmt.maxFinite, Fmt.frac, Fmt.exp, Fmt.bias], rfl⟩

theorem test_witness_VectorFloat : begins (.vfma (vf 2)) ∧ begins (.vaddFloat (vf 4)) ∧ begins (.vclt (vf 2)) ∧ begins (.vceq (vf 1)) :=
  ⟨begins_of rfl rfl, begins_of rfl rfl, begins_of rfl rfl, begins_of rfl rfl⟩

theorem test_witness_VectorConversions : begins (.vqblkE4 { vf 2 with va := 0x7C }) ∧ begins (.vdqblkLg { vf 2 with va := 0x7C })
    ∧ begins (.vlgmul (vf 7)) ∧ begins (.vrnd { vf 3 with va := 0x7C }) ∧ begins (.vcvt 0x28 { vf 2 with va := 0x7C }) :=
  ⟨begins_of rfl rfl, begins_of rfl rfl, begins_of rfl rfl, begins_of rfl rfl, begins_of rfl rfl⟩

theorem test_witness_FloatReductions : begins (.vrfadd { vf 2 with vb := 0x7C }) ∧ begins (.vscanFadd { vf 2 with vb := 0x7F }) :=
  ⟨begins_of rfl rfl, begins_of rfl rfl⟩

theorem test_witness_SpecialFunctions : begins (.vexp2 { vf 2 with va := 0x7C }) ∧ begins (.vlog2 { vf 2 with va := 0x7C })
    ∧ begins (.vrcp { vf 2 with va := 0x7C }) ∧ begins (.vrsqrt { vf 2 with va := 0x7C }) ∧ begins (.vsqrt { vf 2 with va := 0x7C })
    ∧ begins (.vsin { vf 2 with va := 0x7C }) ∧ begins (.vcos { vf 2 with va := 0x7C }) ∧ begins (.vtanh { vf 2 with va := 0x7C })
    ∧ begins (.vtbl 3 { vf 2 with va := 0x7C }) :=
  ⟨begins_of rfl rfl, begins_of rfl rfl, begins_of rfl rfl, begins_of rfl rfl, begins_of rfl rfl, begins_of rfl rfl, begins_of rfl rfl,
    begins_of rfl rfl, begins_of rfl rfl⟩

/-- A memory instruction of the one thread may begin. -/
theorem begins_mem (f : Warp → Warp) (leaf : DWord) (i : Instr) (p : BitVec 4) (n : BitVec 1) (r : Raw) (h : rawOf i = some r)
    (k : (match (mapped f leaf).curWarp with
      | some w => (mapped f leaf).ready w r && (mapped f leaf).takes w p n != 0
      | none => false) = true) : ∃ w, (mapped f leaf).curWarp = some w ∧ Begins (mapped f leaf) w i p n := by
  cases hw : (mapped f leaf).curWarp with
  | none => simp [hw] at k
  | some w =>
    simp only [hw, Bool.and_eq_true, bne_iff_ne] at k
    exact ⟨w, rfl, hw, ⟨r, h, k.1⟩, k.2⟩

/-- The access of thread 0 decides: it takes part, has the property, and no thread comes before it. -/
def firstHas (s : State) (f : MForm) (p : Warp → Nat → Bool) : Bool :=
  match s.curWarp with
  | some w => (s.takes w f.pred f.pneg).getLsbD 0 && p w 0
  | none => false

theorem decides_of {s : State} {w : Warp} {f : MForm} {p : Warp → Nat → Bool} (hw : s.curWarp = some w) (h : firstHas s f p = true) :
    Decides (s.takes w f.pred f.pneg) (fun u => p w u = true) 0 := by
  simp only [firstHas, hw, Bool.and_eq_true] at h
  exact ⟨by decide, h.1, h.2, fun u hu => absurd hu (by omega)⟩

theorem test_witness_AccessTraps :
    (∃ w, (mapped (fun w => w) plainLeaf).curWarp = some w ∧ Begins (mapped (fun w => w) plainLeaf) w (.ld (mf 4 0)) 7 0) ∧
    (∃ w, (mapped (fun w => w) plainLeaf).curWarp = some w ∧ Begins (mapped (fun w => w) plainLeaf) w (.sts (mf 4 0)) 7 0) ∧
    firstHas (mapped (fun w => w.setPair 10 0x10002) plainLeaf) (mf 4 0)
      (fun w u => (mapped (fun w => w.setPair 10 0x10002) plainLeaf).memAddr w 10 0x7C 0 u % 4 != 0) = true ∧
    firstHas (mapped (fun w => w.setPair 10 0x80000000000000) plainLeaf) (mf 4 0)
      (fun w u => decide (2 ^ 55 ≤ (mapped (fun w => w.setPair 10 0x80000000000000) plainLeaf).memAddr w 10 0x7C 0 u)) = true ∧
    firstHas (mapped (fun w => w) 0x20203) (mf 4 0)
      (fun w u => ((mapped (fun w => w) 0x20203).translated w.core w.ctx ((mapped (fun w => w) 0x20203).memAddr w 10 0x7C 0 u) false).any
        fun e => leafPoison e.leaf) = true ∧
    firstHas (mapped (fun w => w) 0x20001) (mf 4 0)
      (fun w u => ((mapped (fun w => w) 0x20001).translated w.core w.ctx ((mapped (fun w => w) 0x20001).memAddr w 10 0x7C 0 u) false).any
        fun e => (protectDetail false true e.leaf).isSome && protectDetail false true e.leaf != some 3) = true ∧
    firstHas (mapped (fun w => w.setPair 10 65536) plainLeaf) (mf 4 0)
      (fun w u => decide ((mapped (fun w => w.setPair 10 65536) plainLeaf).allotment w
        < (mapped (fun w => w.setPair 10 65536) plainLeaf).scratchAddr w 10 0x7C 0 u + 4)) = true :=
  ⟨begins_mem _ _ _ _ _ _ rfl rfl, begins_mem _ _ _ _ _ _ rfl rfl, rfl, rfl, rfl, rfl, rfl⟩

/-- A write lock of another operation on the granule that thread 0 reads. -/
def lockedMemory : State := State.updCluster (mapped (fun w => w) plainLeaf) 0 fun k => { k with locks := [⟨.memory 0, 256, 256, true, 7⟩] }

theorem test_witness_access_locks :
    (∃ w, lockedMemory.curWarp = some w ∧ Ready lockedMemory w (.ld (mf 4 0)) ∧ w.mayLoad = true) ∧
    firstHas lockedMemory (mf 4 0) (fun w u =>
      lockConflict (lockedMemory.cluster (clusterOf w.core)).locks (.memory w.ctx) (lockedMemory.memAddr w 10 0x7C 0 u) 4 false) = true :=
  ⟨⟨_, rfl, ⟨_, rfl, rfl⟩, rfl⟩, rfl⟩

/-- A load of v4 in thread 0 from the byte address 0x20000, served next. -/
def aLoad : PendingLoad :=
  { id := 9, vd := 4, sz := 4, path := 0, fresh := false, stream := false, acquire := false, horizon := false, monitor := false,
    lines := [0x400], waiting := [⟨0, 0x10000, 0x20000⟩], got := [] }

theorem test_witness_Loads :
    (∃ w addrs, (mapped (fun w => w) plainLeaf).curWarp = some w ∧ Begins (mapped (fun w => w) plainLeaf) w (.ld (mf 4 0)) 7 0
      ∧ w.mayLoad = true ∧ (mapped (fun w => w) plainLeaf).checkMemory w (threadsOf ((mapped (fun w => w) plainLeaf).takes w 7 0))
        ((mapped (fun w => w) plainLeaf).memAddr w 10 0x7C 0) 4 false = .ok addrs) ∧
    ∃ w, (put fun w => { w with loads := [aLoad] }).warp? 0 = some w ∧ w.loads.find? (fun x => x.id == aLoad.id) = some aLoad
      ∧ aLoad.waiting = [⟨0, 0x10000, 0x20000⟩] ∧ codeOf aLoad.vd = .v 4 ∧ w.storing (0x20000 / 128) = false := by
  obtain ⟨w, hw, hb⟩ := begins_mem (fun w => w) plainLeaf (.ld (mf 4 0)) 7 0 _ rfl rfl
  refine ⟨⟨w, [⟨0, 0x10000, 0x20000⟩], hw, hb, ?_, ?_⟩, _, rfl, rfl, rfl, rfl, rfl⟩ <;> (cases hw; rfl)

/-- A store of one byte to 0x20000 on its way, or arrived. -/
def aStore (done : Option Nat) : PendingStore := ⟨7, 0x20000, [1], done⟩

theorem test_witness_Stores :
    (∃ w addrs, (mapped (fun w => w) plainLeaf).curWarp = some w ∧ Begins (mapped (fun w => w) plainLeaf) w (.st (mf 4 4)) 7 0
      ∧ w.mayStore = true ∧ (mapped (fun w => w) plainLeaf).checkMemory w (threadsOf ((mapped (fun w => w) plainLeaf).takes w 7 0))
        ((mapped (fun w => w) plainLeaf).memAddr w 10 0x7C 0) 4 true = .ok addrs
      ∧ (mapped (fun w => w) plainLeaf).released w 0 0 = true) ∧
    (∃ w, (put fun w => { w with stores := [aStore none] }).warp? 0 = some w
      ∧ w.stores.find? (fun x => x.id == 7) = some (aStore none) ∧ w.storeBehind (aStore none) = false) ∧
    ∃ w, (put fun w => { w with stores := [aStore (some 3)] }).warp? 0 = some w
      ∧ w.stores.find? (fun x => x.id == 7) = some (aStore (some 3)) := by
  obtain ⟨w, hw, hb⟩ := begins_mem (fun w => w) plainLeaf (.st (mf 4 4)) 7 0 _ rfl rfl
  refine ⟨⟨w, [⟨0, 0x10000, 0x20000⟩], hw, hb, ?_, ?_, ?_⟩, ⟨_, rfl, rfl, rfl⟩, _, rfl, rfl⟩ <;> (cases hw; rfl)

/-- The one thread, with a scratchpad offset of 64 in s10. -/
def scratched : State := mapped (fun w => w.setPair 10 64) plainLeaf

theorem test_witness_Scratchpad :
    (∃ w c, scratched.curWarp = some w ∧ Begins scratched w (.lds (mf 4 2)) 7 0 ∧ scratched.caravan? w.caravan = some c ∧ w.mayLoad = true
      ∧ scratched.checkScratch w (threadsOf (scratched.takes w 7 0)) (scratched.scratchAddr w 10 0x7C 0) 4 false = .ok ()) ∧
    ∃ w c, scratched.curWarp = some w ∧ Begins scratched w (.sts (mf 4 4)) 7 0 ∧ scratched.caravan? w.caravan = some c ∧ w.mayStore = true
      ∧ scratched.checkScratch w (threadsOf (scratched.takes w 7 0)) (scratched.scratchAddr w 10 0x7C 0) 4 true = .ok ()
      ∧ scratched.released w 0 0 = true := by
  obtain ⟨w, hw, hb⟩ := begins_mem (fun w => w.setPair 10 64) plainLeaf (.lds (mf 4 2)) 7 0 _ rfl rfl
  obtain ⟨x, hx, hc⟩ := begins_mem (fun w => w.setPair 10 64) plainLeaf (.sts (mf 4 4)) 7 0 _ rfl rfl
  refine ⟨⟨w, Option.get (scratched.caravan? 0) rfl, hw, hb, ?_, ?_, ?_⟩, x, Option.get (scratched.caravan? 0) rfl, hx, hc, ?_, ?_, ?_, ?_⟩
  all_goals first | (cases hw; rfl) | (cases hx; rfl)

theorem test_witness_Atomics :
    (∃ w c addrs, (mapped (fun w => w) plainLeaf).curWarp = some w ∧ (mapped (fun w => w) plainLeaf).caravan? w.caravan = some c
      ∧ Begins (mapped (fun w => w) plainLeaf) w (.atomCas ⟨4, 4, 10, 0, 6, 0x7C, 0, 7, 0⟩) 7 0 ∧ w.mayStore = true
      ∧ (mapped (fun w => w) plainLeaf).checkMemory w (threadsOf ((mapped (fun w => w) plainLeaf).takes w 7 0))
        ((mapped (fun w => w) plainLeaf).memAddr w 10 0x7C 0) 4 true = .ok addrs ∧ ∀ a ∈ addrs, w.storing (a.pa / 128) = false) ∧
    ∃ w, scratched.curWarp = some w ∧ Begins scratched w (.atomsAdd ⟨5, 4, 10, 0, 4, 0x7C, 0, 7, 0⟩) 7 0 ∧ w.mayStore = true
      ∧ scratched.checkScratch w (threadsOf (scratched.takes w 7 0)) (scratched.scratchAddr w 10 0x7C 0) 8 true = .ok () := by
  obtain ⟨w, hw, hb⟩ := begins_mem (fun w => w) plainLeaf (.atomCas ⟨4, 4, 10, 0, 6, 0x7C, 0, 7, 0⟩) 7 0 _ rfl rfl
  obtain ⟨x, hx, hc⟩ := begins_mem (fun w => w.setPair 10 64) plainLeaf (.atomsAdd ⟨5, 4, 10, 0, 4, 0x7C, 0, 7, 0⟩) 7 0 _ rfl rfl
  refine ⟨⟨w, Option.get ((mapped (fun w => w) plainLeaf).caravan? 0) rfl, [⟨0, 0x10000, 0x20000⟩], hw, ?_, hb, ?_, ?_, ?_⟩, x, hx, hc, ?_, ?_⟩
  all_goals first | (cases hw; rfl) | (cases hx; rfl) | (cases hw; decide)

theorem test_witness_Fences :
    (∃ w, resting.curWarp = some w ∧ resting.released w 0 2 = true ∧ w.mayLoad = true) ∧
    (∃ w, (put fun w => { w with stores := [aStore none] }).curWarp = some w
      ∧ (put fun w => { w with stores := [aStore none] }).released w 0 2 = false) ∧
    ∃ w, (put fun w => { w with loads := [{ aLoad with acquire := true }] }).curWarp = some w ∧ w.mayLoad = false :=
  ⟨⟨_, rfl, rfl, rfl⟩, ⟨_, rfl, rfl⟩, _, rfl, rfl⟩

theorem test_witness_LineWaitsAndPrefetch :
    (∃ w, resting.curWarp = some w ∧ (∀ l ∈ w.loads, l.monitor = false) ∧ w.watches = [] ∧ w.sreg 5 = 0
      ∧ Ready resting w (.pref ⟨0, 0x7C, 10, 0, 0, 0x7C, 0, 7, 0⟩) ∧ w.stores = []) ∧
    (∃ w, (put fun w => { w with watches := [⟨0, true⟩] }).curWarp = some w ∧ ∃ y ∈ w.watches, y.fired = true) ∧
    (∃ w, (put fun w => w.setS 5 9).curWarp = some w ∧ (∀ y ∈ w.watches, y.fired = false) ∧ (put fun w => w.setS 5 9).halted w = false
      ∧ w.sreg 5 ≠ 0) ∧
    ∃ x, (put fun w => { w with phase := .waiting (.waitm (some 0)) }).warp? 0 = some x ∧ x.phase = .waiting (.waitm (some 0)) :=
  ⟨⟨_, rfl, (by decide), rfl, rfl, ⟨_, rfl, rfl⟩, rfl⟩, ⟨_, rfl, _, List.mem_singleton.mpr rfl, rfl⟩,
    ⟨_, rfl, (by decide), rfl, by decide⟩, _, rfl, rfl⟩

theorem test_witness_Batches :
    (∃ w, resting.warp? 0 = some w ∧ resting.cur = 0 ∧ (∀ b ∈ w.batches, b.ops ≠ [])) ∧
    (∃ w, (put fun w => { w with batches := [⟨1, [4], [4], 0⟩], batch := 1 }).warp? 0 = some w ∧ (∀ b ∈ w.batches, b.ops ≠ [])
      ∧ ∃ b ∈ w.batches, (w.batch - b.number).toNat < 2 ^ 31) ∧
    ∃ w, (put fun w => { w with phase := .waiting (.mwait 0) }).warp? 0 = some w ∧ w.phase = .waiting (.mwait 0) ∧ w.batches = []
      ∧ (put fun w => { w with phase := .waiting (.mwait 0) }).stopping w = false :=
  ⟨⟨_, rfl, rfl, by decide⟩, ⟨_, rfl, (by decide), _, List.mem_singleton.mpr rfl, by decide⟩, _, rfl, rfl, rfl, rfl⟩

theorem test_witness_RecordsAndChildren :
    (∃ w, resting.warp? 0 = some w ∧ w.inFlight = 0 ∧ w.recChildren = 0 ∧ w.children = 0 ∧ Ready resting w (.join ⟨0, 0, 0, 0⟩)) ∧
    (∃ w, (put fun w => { w with inFlight := 1, children := 1 }).warp? 0 = some w ∧ w.records = [] ∧ w.inFlight ≠ 0 ∧ w.children ≠ 0) ∧
    (∃ w, (put fun w => { w with phase := .waiting (.evwait 10), records := [⟨1, 1, 0, 1⟩] }).warp? 0 = some w
      ∧ w.phase = .waiting (.evwait 10) ∧ w.records ≠ []
      ∧ (put fun w => { w with phase := .waiting (.evwait 10), records := [⟨1, 1, 0, 1⟩] }).stopping w = false) ∧
    ∃ w, (put fun w => { w with phase := .waiting .join }).warp? 0 = some w ∧ w.phase = .waiting .join ∧ w.children = 0
      ∧ (put fun w => { w with phase := .waiting .join }).stopping w = false ∧ w.spilledRegs = false
      ∧ ((put fun w => { w with phase := .waiting .join }).core w.core).claims = [] :=
  ⟨⟨_, rfl, rfl, rfl, rfl, ⟨_, rfl, rfl⟩⟩, ⟨_, rfl, rfl, (by decide), by decide⟩, ⟨_, rfl, rfl, (by simp), rfl⟩, _, rfl, rfl, rfl, rfl,
    rfl, rfl⟩

/-- A warp whose caravan has party 0 of the cluster in slot 0, which 2 warps are members of and `arrived` have come to. -/
def atParty (f : Warp → Warp) (arrived : BitVec 8) (last : Option (Int × Word) := none) : State :=
  State.updCluster ((put f).updCaravan 0 fun c => { c with partyBase := [0], record := { c.record with parties := 1 } }) 0
    fun k => { k with parties := [(0, ⟨0, 0, 2, arrived, 5, last⟩)] }

theorem test_witness_Parties :
    (∃ w p, (atParty (fun w => w) 0).warp? 0 = some w ∧ (atParty (fun w => w) 0).party? w 0 = some p
      ∧ p.inTurn ((atParty (fun w => w) 0).cycleOf w.core) w.ordinal = true
      ∧ (atParty (fun w => w) 0).usesSlot w 0 = true ∧ w.arrival.getD 0 none ≠ some p.phase ∧ (atParty (fun w => w) 0).released w 0 0 = true) ∧
    (∃ w, (atParty (fun w => { w with arrival := [some 5] }) 1).warp? 0 = some w ∧ w.arrival.getD 0 none = some 5
      ∧ w.loads = []) ∧
    (∃ w p, (atParty (fun w => w) 1 (some (0, 7))).warp? 0 = some w ∧ (atParty (fun w => w) 1 (some (0, 7))).party? w 0 = some p
      ∧ p.inTurn ((atParty (fun w => w) 1 (some (0, 7))).cycleOf w.core) w.ordinal = false) ∧
    (∃ w p, (atParty (fun w => { w with phase := .waiting (.bar 0 4) }) 0).warp? 0 = some w ∧ w.phase = .waiting (.bar 0 4)
      ∧ (atParty (fun w => { w with phase := .waiting (.bar 0 4) }) 0).party? w 0 = some p ∧ p.phase ≠ 4) ∧
    (∃ w p, (atParty withHandler 0).warp? 0 = some w ∧ (atParty withHandler 0).party? w 0 = some p ∧ HandlerFree w
      ∧ w.arrival.getD 0 none = none) ∧
    ∃ w p, ((atParty withHandler 0).updCaravan 0 fun c => { c with record := { c.record with parties := 0 } }).warp? 0 = some w
      ∧ ((atParty withHandler 0).updCaravan 0 fun c => { c with record := { c.record with parties := 0 } }).party? w 0 = some p
      ∧ HandlerFree w
      ∧ ((atParty withHandler 0).updCaravan 0 fun c => { c with record := { c.record with parties := 0 } }).usesSlot w 0 = false :=
  ⟨⟨_, _, rfl, rfl, rfl, rfl, by decide, rfl⟩, ⟨_, rfl, rfl, rfl⟩, ⟨_, _, rfl, rfl, by decide⟩, ⟨_, _, rfl, rfl, rfl, by decide⟩,
    ⟨_, _, rfl, rfl, ⟨by decide, rfl⟩, rfl⟩, _, _, rfl, rfl, ⟨by decide, rfl⟩, rfl⟩

/-- The caravan of `resting` with the shared register 3 given the value 8 in cycle 0, and an operation of that cycle already made. -/
def shared (last : Option (Int × Word)) : State :=
  resting.updCaravan 0 fun c => { c with updates := [⟨3, 8, 0, -4⟩], lastShared := last }

theorem test_witness_SharedAndRequests :
    (∃ w c, resting.curWarp = some w ∧ resting.caravan? w.caravan = some c ∧ c.record.stages = 1 ∧ Ready resting w (.hrel 1)
      ∧ c.sharedTurn (resting.cycleOf w.core) w.ordinal = true
      ∧ c.wroteTrack w.pass 1 = false ∧ Ready resting w (.vperf { vf 0 with vd := 0x7C, va := 0x7C })
      ∧ resting.takes w 7 0 ≠ 0 ∧ resting.takes w 7 1 = 0) ∧
    (∃ w c, (shared (some (0, 7))).curWarp = some w ∧ (shared (some (0, 7))).caravan? w.caravan = some c
      ∧ c.sharedTurn ((shared (some (0, 7))).cycleOf w.core) w.ordinal = false) ∧
    (∃ c, (resting.updCaravan 0 fun c => { c with record := { c.record with stages := 2 } }).caravan? 0 = some c ∧ c.record.stages ≠ 1) ∧
    (∃ c, (shared none).caravan? 0 = some c
      ∧ (c.updates.filter fun u => u.index == 3 && decide (u.cycle + 4 ≤ (shared none).cycleOf (c.core.getD 0))) ≠ []) ∧
    ∃ c, (resting.updCaravan 0 fun c => c.setSlot 1 0 { c.slot 1 0 with relayPending := true, tag := 0 }).caravan? 0 = some c
      ∧ (c.slot 1 0).relayPending = true ∧ (c.slot 1 0).tag = 0 ∧ c.met 1 0 1 = true :=
  ⟨⟨_, _, rfl, rfl, rfl, ⟨_, rfl, rfl⟩, rfl, rfl, ⟨_, rfl, rfl⟩, by decide, by decide⟩, ⟨_, _, rfl, rfl, by decide⟩, ⟨_, rfl, by decide⟩,
    ⟨_, rfl, by decide⟩, _, rfl, rfl, rfl, rfl⟩

/-- A warp of quota 8 that waits in a `vgrow` to 16. -/
def growing : State := put fun w => { w with quota := 8, phase := .waiting (.vgrow 16) }

/-- A warp of quota 8 at an instruction, and so many registers free. -/
def growingAt (n : Nat) : State := (put fun w => { w with quota := 8 }).updCore 0 fun k => { k with free := n }

/-- Beside the waiting warp another of the core, which has not issued for 5,000 cycles. -/
def crowded : State :=
  let s := growing.updCore 0 fun k => { k with lastIssue := -5000 }
  { s with warps := s.warps ++ [(1, { (Option.get (growing.warp? 0) rfl) with ordinal := 1, phase := .fetch, frame := 0x100000 })] }

theorem test_witness_QuotaChanges :
    (∃ w, resting.curWarp = some w ∧ Ready resting w (.vgrow 120) ∧ Ready resting w (.vshrk 120) ∧ w.quota = 120) ∧
    (∃ w, (put fun w => { w with quota := 8 }).curWarp = some w ∧ w.quota < 16 ∧ (resting.core 0).claims = []
      ∧ 16 - w.quota ≤ (resting.core 0).free) ∧
    (∃ w, (growingAt 0).curWarp = some w ∧ w.quota < 16 ∧ ((growingAt 0).core 0).free < 16 - w.quota ∧ w.loads = []
      ∧ Ready (growingAt 0) w (.vgrow 16)) ∧
    (∃ w, resting.curWarp = some w ∧ 8 < w.quota ∧ ∀ l ∈ w.loads, l.above 8 = false) ∧
    (∃ w x, crowded.warp? 0 = some w ∧ w.phase = .waiting (.vgrow 16) ∧ w.spilledRegs = false ∧ crowded.warp? 1 = some x ∧ x.core = 0
      ∧ x.phase = .fetch ∧ 4096 ≤ crowded.cycleOf 0 - (crowded.core 0).lastIssue ∧ (crowded.warps.map fun p => p.1).Nodup) ∧
    ∃ w, growing.warp? 0 = some w ∧ (growing.warps.map fun p => p.1).Nodup ∧ w.core = 0 ∧ w.phase = .waiting (.vgrow 16)
      ∧ w.spilledRegs = false ∧ (growing.warps.map fun p => p.1) = [0] :=
  ⟨⟨_, rfl, ⟨_, rfl, rfl⟩, ⟨_, rfl, rfl⟩, rfl⟩, ⟨_, rfl, by decide, rfl, by decide⟩, ⟨_, rfl, by decide, by decide, rfl, ⟨_, rfl, rfl⟩⟩,
    ⟨_, rfl, by decide, fun _ h => by cases h⟩, ⟨_, _, rfl, rfl, rfl, rfl, rfl, rfl, by decide, by decide⟩, _, rfl, by decide, rfl, rfl, rfl, rfl⟩

/-- A core whose one claim is the one given. -/
def claiming (f : Warp → Warp) (kind : ClaimKind) : State := (put f).updCore 0 fun c => { c with claims := [⟨0, 8, kind⟩] }

theorem test_witness_Claims :
    (∃ c w, ((claiming (fun w => { w with quota := 8, phase := .waiting (.vgrow 16) }) (.grow 0 16)).core 0).claims = [c] ∧ c.kind = .grow 0 16
      ∧ c.size ≤ ((claiming (fun w => w) (.grow 0 16)).core 0).free
      ∧ (claiming (fun w => { w with quota := 8, phase := .waiting (.vgrow 16) }) (.grow 0 16)).warp? 0 = some w) ∧
    (∃ w, (claiming (fun w => { w with phase := .fetch, spilledRegs := true }) (.restore 0)).warp? 0 = some w ∧ w.phase = .fetch) ∧
    ∃ x frame ctx, (claiming (fun w => w) (.launch 0 0)).caravan? 0 = some x ∧ x.core = some 0
      ∧ ((claiming (fun w => w) (.launch 0 0)).setContext 0 { standInContext with nframes := 4 }).freeFrame x.ctx = some frame
      ∧ Tbl.find ((claiming (fun w => w) (.launch 0 0)).setContext 0 { standInContext with nframes := 4 }).contexts x.ctx = some ctx :=
  ⟨⟨_, _, rfl, rfl, by decide, rfl⟩, ⟨_, rfl, rfl⟩, _, _, _, rfl, rfl, rfl, rfl⟩

/-- A warp at the boundary of that run, with enough in its bucket. -/
def atBoundary : State :=
  State.updCluster (put fun w => { w with phase := .boundary, active := true, run := some (runOf 0 oneSub 0) }) 0 fun k =>
    { k with power := { k.power with levels := [(0, 1000000000)] } }

/-- The warp of `coded` in a core where it is current and whose next header has one instruction that fails predecode, or is no header. -/
def badRun (ws : List Word) : State := coded (fun w => w) ws

set_option maxRecDepth 4000 in
theorem test_witness_RunsBegin :
    (∃ x c ws, (coded (fun w => w) oneSub).warp? 0 = some x ∧ (coded (fun w => w) oneSub).caravan? x.caravan = some c ∧ x.phase = .fetch
      ∧ x.debugHalted = false ∧ (coded (fun w => w) oneSub).mustStop x = false ∧ x.resume = none
      ∧ fetchWords ((coded (fun w => w) oneSub).codeWord x.core c) c.codeSize x.next = .words ws
      ∧ predecode (runOf x.next ws 0) c.record.tracks 0 = none) ∧
    (∃ x c ws, (badRun [oneSub.getD 0 0, 0]).warp? 0 = some x ∧ (badRun [oneSub.getD 0 0, 0]).caravan? x.caravan = some c ∧ HandlerFree x
      ∧ (badRun [oneSub.getD 0 0, 0]).cur = 0 ∧ x.phase = .fetch ∧ x.resume = none
      ∧ fetchWords ((badRun [oneSub.getD 0 0, 0]).codeWord x.core c) c.codeSize x.next = .words ws
      ∧ predecode (runOf x.next ws 0) c.record.tracks 0 = some (0, .illegalInstruction)
      ∧ (badRun [oneSub.getD 0 0, 0]).boundary 0 x (runOf x.next ws 0) = none) ∧
    (∃ x c, (badRun []).warp? 0 = some x ∧ (badRun []).caravan? x.caravan = some c ∧ HandlerFree x ∧ (badRun []).cur = 0
      ∧ (badRun []).boundary 0 x ((badRun []).headerRun x c) = none
      ∧ fetchWords ((badRun []).codeWord x.core c) c.codeSize x.next = .bad) ∧
    ∃ x run, atBoundary.warp? 0 = some x ∧ x.phase = .boundary ∧ x.run = some run ∧ x.active = true ∧ atBoundary.eligible x = true
      ∧ atBoundary.onSched x.core 0 = [(0, x)] ∧ x.core < 576 ∧ atBoundary.boundary 0 x run = none
      ∧ (atBoundary.cluster (x.core / 2)).power.mayTest (4 * (x.core % 2) + 0) = true ∧ atBoundary.bucketHolds (x.core / 2) x.ctx run = true :=
  ⟨⟨_, _, _, rfl, rfl, rfl, rfl, rfl, rfl, rfl, rfl⟩, ⟨_, _, _, rfl, rfl, ⟨by decide, rfl⟩, rfl, rfl, rfl, rfl, rfl, rfl⟩,
    ⟨_, _, rfl, rfl, ⟨by decide, rfl⟩, rfl, rfl, rfl⟩, _, _, rfl, rfl, rfl, rfl, rfl, rfl, by decide, rfl, rfl, rfl⟩

/-- The same under a raised halt line, 25 microseconds after its rise. -/
def haltRaised (f : Warp → Warp) : State :=
  { put f with partitions := [(0, { Partition.initial with halt := some 0 })], time := 25000 }

/-- The warp of `coded` under a raised halt line, at a header that is a safe point, not yet fetched. -/
def haltAtPoint : State :=
  let s := coded (fun w => w) [0b000000000101_10110_100_1_111111_00001#32, 0]
  { s with partitions := [(0, { Partition.initial with halt := some 0 })], time := 25000,
           objects := [⟨0, 0, 0, 8, [0], [⟨5, 0, 3, 1, 0, 0⟩]⟩] }

set_option maxRecDepth 4000 in
theorem test_witness_WarpStops :
    (∃ w, (haltRaised fun w => { w with phase := .fetch }).warp? 0 = some w ∧ (haltRaised fun w => { w with phase := .fetch }).halted w = true
      ∧ w.phase = .fetch ∧ w.resume = none ∧ w.handlerActive = false ∧ w.loads = []
      ∧ (haltRaised fun w => { w with phase := .fetch }).safePointOf w = none) ∧
    (∃ w, haltAtPoint.warp? 0 = some w ∧ haltAtPoint.halted w = true ∧ w.phase = .fetch ∧ w.resume = none ∧ w.handlerActive = false
      ∧ w.loads = [] ∧ haltAtPoint.safePointOf w = some ⟨5, 0, 3, 1, 0, 0⟩) ∧
    ∃ w, (haltRaised fun w => { w with handlerActive := true, trapMask := true }).warp? 0 = some w
      ∧ (haltRaised fun w => { w with handlerActive := true, trapMask := true }).halted w = true ∧ w.handlerActive = true ∧ w.trapMask = true :=
  ⟨⟨_, rfl, rfl, rfl, rfl, rfl, rfl, rfl⟩, ⟨_, rfl, rfl, rfl, rfl, rfl, rfl, rfl⟩, _, rfl, rfl, rfl, rfl⟩

/-- A warp with a writable page at 0, of a caravan changed so. -/
def paged (f : Warp → Warp) (g : Caravan → Caravan) : State :=
  State.updCaravan ((put f).updCore 0 fun c => { c with tlb := [⟨0, 0, 65536, 0x20003, 0⟩] }) 0 g

/-- A caravan of one pass that the die 0 may place on core 2. -/
def placing : State :=
  let c := { Caravan.fresh 0 0 none 1 standInRecord ⟨0, 0, 0, 8, [0], []⟩ [] [] with stage := .die 0 }
  let s := { resting with
    partitions := [(0, { Partition.initial with clusters := [1] })], nextId := 2, caravans := Tbl.put resting.caravans 1 c }
  State.updDie (s.setContext 0 { standInContext with nframes := 4, headroom := true }) 0 fun d => { d with waiting := [1] }

set_option maxRecDepth 8000 in
theorem test_witness_PassesAndCaravansEnd :
    (∃ w c, (paged (fun w => { w with phase := .retiring 0 }) fun c => c).warp? 0 = some w
      ∧ (paged (fun w => { w with phase := .retiring 0 }) fun c => c).caravan? w.caravan = some c ∧ w.trace = none
      ∧ (paged (fun w => { w with phase := .retiring 0 }) fun c => c).drained 0 w = true ∧ w.spilledRegs = false ∧ w.step = none
      ∧ w.watchHits = [none, none, none, none] ∧ (paged (fun w => { w with phase := .retiring 0 }) fun c => c).posting 0 = false
      ∧ c.partyBase = [] ∧ w.phase = .retiring 0
      ∧ ((paged (fun w => { w with phase := .retiring 0 }) fun c => c).writeStatus 0 w { c.relayAll w.pass with ended := [0] } 0 0).2 = true) ∧
    (∃ c pa, (paged (fun w => w) fun c => { c with ended := [0] }).caravan? 0 = some c ∧ c.core = some 0 ∧ c.done = false
      ∧ c.passes ≤ c.ended.length ∧ (∀ t ∈ c.tracks, ∀ x ∈ t, x.relayPending = false)
      ∧ (paged (fun w => w) fun c => { c with ended := [0] }).copiedInto 0 0 = false
      ∧ (paged (fun w => w) fun c => { c with ended := [0] }).partReach (.done 0) 0 c.ctx (c.record.statAddr + 24) true = .go pa
      ∧ c.settled ≤ (paged (fun w => w) fun c => { c with ended := [0] }).time ∧ c.openChildren = 0
      ∧ c.finished = false ∧ c.parent = none ∧ c.parentCaravan = none) ∧
    ∃ c ctx frame, (placing.die 0).waiting = [1] ∧ placing.caravan? 1 = some c ∧ Tbl.find placing.contexts c.ctx = some ctx
      ∧ c.stage = .die 0 ∧ c.record.parties = 0 ∧ placing.seedWaits c = false
      ∧ (Tbl.findD placing.partitions ctx.partition Partition.initial).halt = none ∧ placing.budgetAllows c 0 2 = true ∧ placing.freeFrame c.ctx = some frame
      ∧ ctx.frames.length + ctx.stopFrames.length + 1 ≤ ctx.nframes ∧ placing.coresOf ctx.partition 0 = [2, 3] ∧ placing.fits c 2 = true
      ∧ placing.fits c 3 = true ∧ (placing.core 3).free = (placing.core 2).free :=
  ⟨⟨_, _, rfl, rfl, rfl, rfl, rfl, rfl, rfl, rfl, rfl, rfl, rfl⟩,
    ⟨_, _, rfl, rfl, rfl, by decide, by decide, rfl, rfl, by decide, rfl, rfl, rfl, rfl⟩,
    _, _, _, rfl, rfl, rfl, rfl, rfl, rfl, rfl, rfl, rfl, by decide, rfl, rfl, rfl, rfl⟩

/-- A warp with s10, s12, s14 and s15 as given, and the scratchpad of its caravan written at some places. -/
def engine (a b n k : Word) (l : List (Nat × List Byte)) : State :=
  (put fun w => withHandler ((((((w.setS 10 a).setS 11 0).setS 12 b).setS 13 0).setS 14 n).setS 15 k)).updCaravan 0 fun c =>
    { c with scratch := l.foldl (fun m p => Memory.writeBytes m p.1 p.2) c.scratch }

/-- The operands s10, s12 and s14. -/
def ef : EForm := ⟨10, 12, 14, 7⟩

/-- A selection block: one query of 16 elements at 256. -/
def aSelection : List (Nat × List Byte) := [(1024, natBytes 4 256 ++ natBytes 2 1 ++ natBytes 2 16), (1044, [1]), (1048, [8])]

/-- A request block at 1024: one query of 16 elements of format 5 at 0x10000, one sequence of no pages. -/
def aRequest : List (Nat × List Byte) :=
  [(1024, natBytes 8 0x10000 ++ natBytes 4 1 ++ natBytes 2 16 ++ natBytes 1 5), (1044, natBytes 4 1 ++ natBytes 4 2048 ++ natBytes 4 4096),
   (1058, [5]), (1072, natBytes 8 0x20000), (1088, natBytes 8 0x30000), (2052, [1])]

/-- A convoy of the partition with two members, and a collective block of one sum. -/
def aConvoy (s : State) : State := { s with fabric := { s.fabric with convoys := [(0, [(0, ⟨0, 0, 2, 0, false, [1], [1]⟩)])] } }

def aCollective : List (Nat × List Byte) := [(1028, [1]), (1032, natBytes 8 0x10000 ++ natBytes 8 0x20000)]

def aPeer (s : State) : State := { s with fabric := { s.fabric with peers := [(0, [(0, ⟨0, 0, true, false⟩)])] } }

set_option maxRecDepth 8000 in
theorem test_witness_TransfersAndRequests :
    (∃ w, (engine 1024 64 128 0 []).curWarp = some w ∧ HandlerFree w
      ∧ (∀ i ∈ [Instr.cpyMs ef, .cpySm ef, .cpyMm ef, .cpyPp ef], Ready (engine 1024 64 128 0 []) w i)
      ∧ 64 + 128 ≤ (engine 1024 64 128 0 []).allotment w
      ∧ RoomFor (engine 1024 64 128 0 []) w (.copy w.core) 8 [⟨w.memorySpace, 1024, 128, false⟩, ⟨w.scratchSpace, 64, 128, true⟩]) ∧
    (∃ w, (engine 1024 64 128 1 []).curWarp = some w ∧ Ready (engine 1024 64 128 1 []) w (.gath ef)
      ∧ listOf ((engine 1024 64 128 1 []).operandMem w) 1024 1 = [0]
      ∧ lockConflict ((engine 1024 64 128 1 []).cluster (w.core / 2)).locks w.scratchSpace 1024 8 false = false
      ∧ RoomFor (engine 1024 64 128 1 []) w (.copy w.core) 8 [⟨w.memorySpace, 0, 128, false⟩, ⟨w.scratchSpace, 64, 128, true⟩]) ∧
    (∃ w, (engine 0x10000 64 128 0 []).curWarp = some w
      ∧ (∀ i ∈ [Instr.prom ef, .dmot ef, .tblld 3 ef, .ksum ef, .kapp ef], Ready (engine 0x10000 64 128 0 []) w i)
      ∧ RoomFor (engine 0x10000 64 128 0 []) w (.copy w.core) 8 []
      ∧ RoomFor (engine 0x10000 64 128 0 []) w (.table w.core) 1 [⟨w.memorySpace, 0x10000, 4112, false⟩]
      ∧ Memory.readBytes ((engine 0x10000 64 128 0 []).scratchOf w.caravan) 64 64 = List.replicate 64 0
      ∧ RoomFor (engine 0x10000 64 128 0 []) w (.selection (w.core / 2)) 8 [⟨w.scratchSpace, 64, 64, true⟩]) ∧
    (∃ w e, (aPeer (engine 1024 64 128 0 [])).curWarp = some w
      ∧ (aPeer (engine 1024 64 128 0 [])).peerEntry ((aPeer (engine 1024 64 128 0 [])).partitionOf w.ctx) 0 = some e ∧ e.valid = true
      ∧ e.secure = false ∧ Ready (aPeer (engine 1024 64 128 0 [])) w (.fput ef) ∧ Ready (aPeer (engine 1024 64 128 0 [])) w (.fget ef)
      ∧ RoomFor (aPeer (engine 1024 64 128 0 [])) w (.fabric (w.core / 2)) 16 [⟨w.memorySpace, 1024, 128, false⟩]) ∧
    (∃ w, (engine 1024 64 0 0 aSelection).curWarp = some w ∧ Ready (engine 1024 64 0 0 aSelection) w (.ksel ef)
      ∧ (let m := (engine 1024 64 0 0 aSelection).operandMem w
         Memory.readNat m 1024 4 = 256 ∧ Memory.readNat m 1028 2 = 1 ∧ Memory.readNat m 1030 2 = 16 ∧ Memory.readNat m 1044 1 = 1
         ∧ Memory.readNat m 1048 4 = 8 ∧ Memory.readNat m 1056 8 = 0)
      ∧ RoomFor (engine 1024 64 0 0 aSelection) w (.selection (w.core / 2)) 8
          [⟨w.scratchSpace, 256, 64, false⟩, ⟨w.scratchSpace, 1024, 64, true⟩, ⟨w.memorySpace, 0, 4096, true⟩]) ∧
    (∃ w, (engine 1024 64 0 0 aRequest).curWarp = some w ∧ Ready (engine 1024 64 0 0 aRequest) w (.katt ef)
      ∧ (let m := (engine 1024 64 0 0 aRequest).operandMem w
         let r := { requestAt m 1024 with seqs := sequencesAt m 2048 4096 1 }
         requestBad (Memory.readBytes m 1024 128) r 1 = false ∧ keyFormat r.qfmt = true ∧ r.outfmt = 5 ∧ r.qscratch = false
         ∧ sequencesBad m 2048 4096 1 r.nq = false)) ∧
    ∃ w e, (aConvoy (engine 1024 64 0 0 aCollective)).curWarp = some w
      ∧ (aConvoy (engine 1024 64 0 0 aCollective)).convoyEntry ((aConvoy (engine 1024 64 0 0 aCollective)).partitionOf w.ctx) 0 = some e
      ∧ e.ctx = w.ctx ∧ (∀ i ∈ [Instr.fcollAllreduce ef, .fcollReduce ef, .fcollBcast ef, .fcollMcast ef, .fcollAllgather ef],
        Ready (aConvoy (engine 1024 64 0 0 aCollective)) w i)
      ∧ (let m := (aConvoy (engine 1024 64 0 0 aCollective)).operandMem w
         Memory.readNat m 1028 4 = 1 ∧ Memory.readNat m 1032 8 = 0x10000 ∧ Memory.readNat m 1040 8 = 0x20000 ∧ Memory.readNat m 1026 2 = 0
         ∧ Memory.readNat m 1048 8 = 0 ∧ Memory.readNat m 1080 8 = 0) := by
  refine ⟨⟨_, rfl, ⟨by decide, rfl⟩, ?_, by decide, ⟨rfl, by decide, rfl⟩⟩, ⟨_, rfl, ⟨_, rfl, rfl⟩, rfl, rfl, ⟨rfl, by decide, rfl⟩⟩,
    ⟨_, rfl, ?_, ⟨rfl, by decide, rfl⟩, ⟨rfl, by decide, rfl⟩, rfl, ⟨rfl, by decide, rfl⟩⟩,
    ⟨_, _, rfl, rfl, rfl, rfl, ⟨_, rfl, rfl⟩, ⟨_, rfl, rfl⟩, ⟨rfl, by decide, rfl⟩⟩,
    ⟨_, rfl, ⟨_, rfl, rfl⟩, ⟨rfl, rfl, rfl, rfl, rfl, rfl⟩, ⟨rfl, by decide, rfl⟩⟩,
    ⟨_, rfl, ⟨_, rfl, rfl⟩, rfl, rfl, rfl, rfl, rfl⟩, _, _, rfl, rfl, rfl, ?_, rfl, rfl, rfl, rfl, rfl, rfl⟩
  all_goals
    intro i hi
    simp only [List.mem_cons, List.not_mem_nil, or_false] at hi
    rcases hi with rfl | rfl | rfl | rfl | rfl <;> exact ⟨_, rfl, rfl⟩

/-- A copy on which another operation's lock stands. -/
def lockedCopy : State := (engine 1024 64 128 0 []).updCluster 0 fun k => { k with locks := [⟨.memory 0, 4, 4, true, 7⟩] }

theorem test_witness_transfer_traps :
    (∃ w, (engine 1026 64 128 0 []).curWarp = some w ∧ HandlerFree w ∧ Ready (engine 1026 64 128 0 []) w (.cpyMs ef)
      ∧ (w.spair 10).toNat % 4 ≠ 0) ∧
    (∃ w, (engine 1024 64 0 0 []).curWarp = some w ∧ HandlerFree w ∧ Ready (engine 1024 64 0 0 []) w (.cpyMs ef) ∧ (w.sreg 14).toNat = 0) ∧
    (∃ w, (engine 1024 64 0x1000004 0 []).curWarp = some w ∧ HandlerFree w ∧ Ready (engine 1024 64 0x1000004 0 []) w (.cpyMs ef)
      ∧ 2 ^ 24 < (w.sreg 14).toNat) ∧
    (∃ w, (engine 1024 65536 128 0 []).curWarp = some w ∧ HandlerFree w ∧ Ready (engine 1024 65536 128 0 []) w (.cpyMs ef)
      ∧ (engine 1024 65536 128 0 []).allotment w < (w.sreg 12).toNat + 128) ∧
    ∃ w, lockedCopy.curWarp = some w ∧ HandlerFree w ∧ Ready lockedCopy w (.cpyMs ef)
      ∧ spanConflict (lockedCopy.cluster 0).locks [⟨w.memorySpace, 1024, 128, false⟩, ⟨w.scratchSpace, 64, 128, true⟩] ≠ none :=
  ⟨⟨_, rfl, ⟨by decide, rfl⟩, ⟨_, rfl, rfl⟩, by decide⟩, ⟨_, rfl, ⟨by decide, rfl⟩, ⟨_, rfl, rfl⟩, rfl⟩,
    ⟨_, rfl, ⟨by decide, rfl⟩, ⟨_, rfl, rfl⟩, by decide⟩, ⟨_, rfl, ⟨by decide, rfl⟩, ⟨_, rfl, rfl⟩, by decide⟩,
    _, rfl, ⟨by decide, rfl⟩, ⟨_, rfl, rfl⟩, by decide⟩

/-- A format block of two halves of format 1 at 0, a row of 16 elements at 256 under the record at 32, and its B of 16 rows at 64. -/
def aProduct : List (Nat × List Byte) :=
  [(0, [1]), (16, [1]), (32, natBytes 8 256 ++ natBytes 4 1 ++ natBytes 4 16 ++ natBytes 4 1 ++ natBytes 4 16 ++ natBytes 4 16 ++ natBytes 4 4),
   (64, natBytes 8 0 ++ natBytes 4 16 ++ natBytes 4 1 ++ natBytes 4 16 ++ natBytes 4 1 ++ natBytes 4 0 ++ natBytes 4 10)]

/-- The same with the region that the B record names entered on core 0, and a tile of one row and `n` columns. -/
def product (n : Nat) : State :=
  (engine 32 64 (BitVec.ofNat 32 (32 + 4096 * n)) 0 aProduct).updCore 0 fun c =>
    { c with regions := [⟨0, 16, 1, 1, 0, false, 0, regionBytes 1 16 1 0 false, true, 5⟩] }

def xf : XForm := ⟨10, 12, 14, 16, 17, 0, 0, 0⟩

set_option maxRecDepth 8000 in
theorem test_witness_MatrixIssue :
    (∃ w d, (product 1).curWarp = some w ∧ Ready (product 1) w (.mma xf) ∧ tileOf (w.spair 14) = some d
      ∧ (let m := (product 1).operandMem w
         let a := shapeAt m 32
         let b := shapeAt m 64
         let fa := halfAt m 0
         let fb := halfAt m 16
         halfBad m 0 = false ∧ halfBad m 16 = false ∧ formatsBad fa fb = false ∧ fb.scale = 0 ∧ a.base % 4 = 0 ∧ a.stride % 4 = 0 ∧ b.stride % 4 = 0
         ∧ mmaShapesBad (shapeReserved m 32) (shapeReserved m 64) a b (fmtBits fa.fmt) (some d) false false ((product 1).coupled w) = false
         ∧ ((product 1).core w.core).loading b.base (regionBytes 1 16 1 0 false) = false
         ∧ (product 1).regionsMatch w b fb false false (w.sreg 17) = true)
      ∧ spanConflict ((product 1).cluster (w.core / 2)).locks [⟨w.scratchSpace, 256, 16, false⟩] = none
      ∧ (product 1).lockRoom (w.core / 2) [⟨w.scratchSpace, 256, 16, false⟩] = true ∧ (∀ k ∈ d.cores w.core, (product 1).held (.matrix k) < 8)
      ∧ Ready (product 1) w (.acopZero { vf 0 with vd := 0x7C, va := 0x7C, vb := 0x7C, sb := 14 }) ∧ (product 1).takes w 7 0 ≠ 0 ∧ (product 1).takes w 7 1 = 0) ∧
    (∃ w d, (product 16).curWarp = some w ∧ Ready (product 16) w (.acld 1 xf) ∧ Ready (product 16) w (.acst 1 xf)
      ∧ tileOf (w.spair 14) = some d ∧ d.rows = 1 ∧ d.cols = 16 ∧ d.cmp = false ∧ d.pairt = false
      ∧ (product 16).unsettledOn w.core d true = false
      ∧ (let a := shapeAt ((product 16).operandMem w) 32
         a.inRange 8 = true ∧ a.space = 1 ∧ a.layout = 0 ∧ a.rows = 1 ∧ a.cols = 16)) ∧
    ∃ w, (engine 32 0 256 0 aProduct).curWarp = some w ∧ Ready (engine 32 0 256 0 aProduct) w (.wbld ⟨10, 12, 14, 0⟩)
      ∧ (let m := (engine 32 0 256 0 aProduct).operandMem w
         let x := shapeAt m 32
         halfBad m 16 = false ∧ (halfAt m 16).fmt = 1 ∧ shapeReserved m 32 = false ∧ x.inRange 8 = true ∧ x.space = 1 ∧ x.layout = 0
         ∧ x.cols = 16 ∧ 256 + regionBytes x.cols x.rows 1 0 false ≤ 786432)
      ∧ RoomFor (engine 32 0 256 0 aProduct) w (.loader w.core) 4 [⟨w.scratchSpace, 256, 16, false⟩] :=
  ⟨⟨_, _, rfl, ⟨_, rfl, rfl⟩, rfl, ⟨rfl, rfl, rfl, rfl, rfl, rfl, rfl, rfl, rfl, rfl⟩, rfl, rfl, by decide, ⟨_, rfl, rfl⟩, by decide, by decide⟩,
    ⟨_, _, rfl, ⟨_, rfl, rfl⟩, ⟨_, rfl, rfl⟩, rfl, rfl, rfl, rfl, rfl, rfl, rfl, rfl, rfl, rfl, rfl⟩,
    _, rfl, ⟨_, rfl, rfl⟩, ⟨rfl, rfl, rfl, rfl, rfl, rfl, rfl, by decide⟩, ⟨rfl, by decide, rfl⟩⟩

set_option maxRecDepth 8000 in
theorem test_witness_Accumulators :
    (∃ w d, (product 1).curWarp = some w ∧ (product 1).takes w 7 0 ≠ 0 ∧ tileOf (w.spair 14) = some d
      ∧ (product 1).unsettledOn w.core d true = false ∧ Ready (product 1) w (.acrd { vf 0 with va := 0x7C, vb := 0x7C, sb := 14 }) ∧ 0 < d.localCols w.core
      ∧ Ready (product 1) w (.acopFold { vf 0 with va := 0x7C, vb := 0x7C, sb := 14 }) ∧ Ready (product 1) w (.acopMaxrow { vf 0 with va := 0x7C, vb := 0x7C, sb := 14 })
      ∧ Ready (product 1) w (.acwr { vf 0 with vd := 0x7C, vb := 0x7C, sb := 14 }) ∧ (product 1).unsettledOn w.core d false = false
      ∧ Ready (product 1) w (.tblsw 2 ⟨0, 0, 0, 0⟩) ∧ ((product 1).core w.core).tableQueue = []) ∧
    ∃ w d, ((product 1).updCore 0 fun c => { c with unsettled := [⟨0, 9, 0, true, none, true⟩] }).curWarp = some w ∧ HandlerFree w
      ∧ tileOf (w.spair 14) = some d
      ∧ ((product 1).updCore 0 fun c => { c with unsettled := [⟨0, 9, 0, true, none, true⟩] }).unsettledOn w.core d true = true :=
  ⟨⟨_, _, rfl, by decide, rfl, rfl, ⟨_, rfl, rfl⟩, by decide, ⟨_, rfl, rfl⟩, ⟨_, rfl, rfl⟩, ⟨_, rfl, rfl⟩, rfl, ⟨_, rfl, rfl⟩, rfl⟩,
    _, _, rfl, ⟨by decide, rfl⟩, rfl, rfl⟩

/-- An engine operation of the warp 0. -/
def anOp (kind : OpKind) (state : OpState) : EngineOp :=
  { id := 77, warp := 0, ctx := 0, core := 0, caravan := 0, pass := 0, tag := 7, kind := kind, state := state, progress := 0, status := 0,
    settled := 0, flags := 0, batch := none, data := [], pages := [], lost := 0, stopped := false, cursor := 0, result := 0, blocks := 0,
    rows := [], source := [], walk := none }

/-- The state in which some operations stand in a unit's queue, and the page at 0x10000 is in the TLB of core 0. -/
def queued (u : EngineUnit) (l : List EngineOp) (leaf : DWord) : State := (mapped (fun w => w) leaf).setQueue u l

def aTile : Tile := ⟨0, 1, 1, false, false⟩

/-- A record of 16 rows and 2 columns of bytes in the scratchpad. -/
def aShape : Shape := ⟨256, 16, 2, 16, 2, 4, 0, 1⟩

def aHalf : FmtHalf := ⟨1, 0, false, false, 0, 0⟩

set_option maxRecDepth 8000 in
theorem test_witness_ArrayRuns :
    (∃ o, (queued (.matrix 0) [anOp (.acop 1 aTile 1 []) .queued] plainLeaf).headOp (.matrix 0) = some o
      ∧ (queued (.matrix 0) [anOp (.acop 1 aTile 1 []) .queued] plainLeaf).arrayHeld 0 = false
      ∧ (queued (.matrix 0) [anOp (.acop 1 aTile 1 []) .queued] plainLeaf).atHeads o = true
      ∧ (queued (.matrix 0) [anOp (.acop 1 aTile 1 []) .queued] plainLeaf).mayWork o = true ∧ o.state = .queued) ∧
    (∃ o w, (queued (.matrix 0) [anOp (.acop 1 aTile 1 []) .running] plainLeaf).headOp (.matrix 0) = some o
      ∧ (queued (.matrix 0) [anOp (.acop 1 aTile 1 []) .running] plainLeaf).arrayHeld 0 = false
      ∧ (queued (.matrix 0) [anOp (.acop 1 aTile 1 []) .running] plainLeaf).atHeads o = true
      ∧ (queued (.matrix 0) [anOp (.acop 1 aTile 1 []) .running] plainLeaf).mayWork o = true ∧ o.state = .running
      ∧ (queued (.matrix 0) [anOp (.acop 1 aTile 1 []) .running] plainLeaf).warp? o.warp = some w ∧ o.core / 2 = 0) ∧
    ∃ o, (queued (.loader 0) [anOp (.wbld aShape aHalf 0 0 false false) .queued] plainLeaf).headOp (.loader 0) = some o
      ∧ o.core = 0 ∧ (queued (.loader 0) [anOp (.wbld aShape aHalf 0 0 false false) .queued] plainLeaf).mayWork o = true ∧ aShape.space = 1
      ∧ aHalf.blk = 0 ∧ (queued (.loader 0) [anOp (.wbld aShape aHalf 0 0 false false) .queued] plainLeaf).regionRead (loadTarget 0 false) o.id 0
        (regionBytes aShape.cols aShape.rows aHalf.fmt aHalf.blk false) = false ∧ o.progress + 1 < aShape.cols * blocksOf aShape.rows :=
  ⟨⟨_, rfl, rfl, rfl, rfl, rfl⟩, ⟨_, _, rfl, rfl, rfl, rfl, rfl, rfl, rfl⟩, _, rfl, rfl, rfl, rfl, rfl, rfl, by decide⟩

set_option maxRecDepth 8000 in
theorem test_witness_CopiesAndRecords :
    (∃ o c, (queued (.copy 0) [anOp (.cpy 0 0x10000 64 128 0) .queued] plainLeaf).headOp (.copy 0) = some o ∧ o.core = 0
      ∧ (queued (.copy 0) [anOp (.cpy 0 0x10000 64 128 0) .queued] plainLeaf).mayWork o = true
      ∧ (queued (.copy 0) [anOp (.cpy 0 0x10000 64 128 0) .queued] plainLeaf).caravan? o.caravan = some c ∧ o.progress < 128
      ∧ (queued (.copy 0) [anOp (.cpy 0 0x10000 64 128 0) .queued] plainLeaf).meet o 0x10000 false false = .at_ 0x20000 plainLeaf
      ∧ (queued (.copy 0) [anOp (.cpy 0 0x10000 64 128 0) .queued] plainLeaf).meet o 0x10000 true false = .at_ 0x20000 plainLeaf) ∧
    (∃ o pieces, (queued (.table 0) [anOp (.tblld 3 1 0x10000) .queued] plainLeaf).readyLoad 0 []
        ((queued (.table 0) [anOp (.tblld 3 1 0x10000) .queued] plainLeaf).core 0).tableQueue = some o ∧ o.state ≠ .finished ∧ o.core = 0
      ∧ (queued (.table 0) [anOp (.tblld 3 1 0x10000) .queued] plainLeaf).meetSpan o 0x10000 4112 false false = .go pieces) ∧
    ∃ o w, ((queued (.copy 0) [anOp (.cpy 0 0x10000 64 128 0) .finished] plainLeaf).queueOf (.copy 0))[0]? = some o ∧ o.state = .finished
      ∧ o.settled ≤ (queued (.copy 0) [anOp (.cpy 0 0x10000 64 128 0) .finished] plainLeaf).time ∧ o.kind.code ≠ 0
      ∧ (o.kind.code = 5 ∨ o.kind.code = 6 → o.batch.isSome = true)
      ∧ (queued (.copy 0) [anOp (.cpy 0 0x10000 64 128 0) .finished] plainLeaf).warp? o.warp = some w ∧ w.records.length < 64
      ∧ (queued (.copy 0) [anOp (.cpy 0 0x10000 64 128 0) .finished] plainLeaf).recordsOn w.core < 256 :=
  ⟨⟨_, _, rfl, rfl, rfl, rfl, by decide, rfl, rfl⟩, ⟨_, _, rfl, by decide, rfl, rfl⟩, _, _, rfl, rfl, by decide, by decide, by decide, rfl, by decide, by decide⟩

/-- A request without rows. -/
def noRows : KattReq := ⟨0, 0, 0, 16, 5, false, false, false, 0, 0, 2, 5, 0, 0, 0, 0, 0, 0, []⟩

/-- Holds at the heads of both arrays of cluster 0. -/
def holds : State := (queued (.matrix 0) [anOp .hold .queued] plainLeaf).setQueue (.matrix 1) [anOp .hold .queued]

/-- A request with one page of its source before it, in far memory. -/
def walking : State := queued (.attention 0) [{ anOp (.katt noRows) .running with source := [⟨0x10000, 1, 0, 0, 5, 5⟩, ⟨0x10000, 1, 0, 0, 5, 5⟩] }] 0x20023

/-- A demotion at the head of the copy engine, a free frame at 0x30000 in one frame ring of its context and room in the other. -/
def demoting : State :=
  let s := (queued (.copy 0) [anOp (.move 0x10000 false) .queued] plainLeaf).setContext 0
    { standInContext with lring := 0x100000, hring := 0x120000 }
  { s with mem := [(0x100000, natBytes 8 0x110000 ++ natBytes 4 16), (0x100018, natBytes 8 1), (0x110000, natBytes 8 0x30000),
      (0x120000, natBytes 8 0x130000 ++ natBytes 4 16)].foldl (fun m p => Memory.writeBytes m p.1 p.2) s.mem }

set_option maxRecDepth 8000 in
theorem test_witness_PageEngines :
    (∃ o c, (queued (.selection 0) [anOp (.ksum 0x10000 64) .queued] 0x20023).caravan? o.caravan = some c
      ∧ (queued (.selection 0) [anOp (.ksum 0x10000 64) .queued] 0x20023).headOp (.selection 0) = some o
      ∧ (queued (.selection 0) [anOp (.ksum 0x10000 64) .queued] 0x20023).mayWork o = true
      ∧ (queued (.selection 0) [anOp (.ksum 0x10000 64) .queued] 0x20023).meet o 0x10000 true true = .at_ 0x20000 0x20023
      ∧ headerOf (List.replicate 4096 0) = none) ∧
    (∃ x y, holds.headOp (.matrix 0) = some x ∧ holds.headOp (.matrix 1) = some y ∧ x.kind = .hold ∧ y.kind = .hold ∧ x.state = .queued
      ∧ y.state = .queued) ∧
    (∃ o p u e, walking.headOp (.attention 0) = some o ∧ walking.mayWork o = true ∧ noRows.tiles.length ≤ o.progress
      ∧ o.source[(match (keyBlocks o.source)[o.blocks]? with | some b => b.place | none => o.source.length) + 1]? = some p
      ∧ walking.peek o.core o.ctx p.va = (u, some e) ∧ leafPoison e.leaf = false
      ∧ protectDetail (walking.ctxSecure o.ctx) false e.leaf = none ∧ leafTier e.leaf = false) ∧
    (∃ o e, (queued (.copy 0) [anOp (.move 0x10000 true) .queued] plainLeaf).headOp (.copy 0) = some o
      ∧ (queued (.copy 0) [anOp (.move 0x10000 true) .queued] plainLeaf).mayWork o = true ∧ o.pages = []
      ∧ (queued (.copy 0) [anOp (.move 0x10000 true) .queued] plainLeaf).walking (.engine o.id) = false
      ∧ (queued (.copy 0) [anOp (.move 0x10000 true) .queued] plainLeaf).translated o.core o.ctx 0x10000 false = some e
      ∧ leafSecure e.leaf = false ∧ leafSize e.leaf = 0 ∧ leafPoison e.leaf = false ∧ leafTier e.leaf = (!true)) ∧
    ∃ o e k, demoting.headOp (.copy 0) = some o ∧ demoting.mayWork o = true ∧ o.pages = [] ∧ demoting.walking (.engine o.id) = false
      ∧ demoting.translated o.core o.ctx 0x10000 false = some e ∧ leafTier e.leaf = false ∧ Tbl.find demoting.contexts o.ctx = some k
      ∧ Memory.wf demoting.mem = true ∧ ringFrame demoting.mem (k.ringOf false) = some 0x30000
      ∧ ringRoom demoting.mem (k.ringOf true) = true :=
  ⟨⟨_, _, rfl, rfl, rfl, rfl, rfl⟩, ⟨_, _, rfl, rfl, rfl, rfl, rfl, rfl⟩, ⟨_, _, _, _, rfl, rfl, by decide, rfl, rfl, rfl, rfl, rfl⟩,
    ⟨_, _, rfl, rfl, rfl, rfl, rfl, rfl, rfl, rfl, rfl⟩, _, _, _, rfl, rfl, rfl, rfl, rfl, rfl, rfl, by decide, by decide, by decide⟩

/-- Context 0 debugs the context 1, whose warp 5 is pass 0 of the caravan 9, changed so; s10:s11 names that warp. -/
def debugging (me : Context → Context) (x : Warp → Warp) : State :=
  let s := engine 9 0 64 0 []
  let t := (s.setContext 0 (me { standInContext with target := some 1 })).setContext 1 { standInContext with debug := true }
  match s.curWarp with
  | some w => t.setWarp 5 (x { w.setMask 1 with ctx := 1, caravan := 9, phase := .boundary })
  | none => t

/-- The registers of `dbg`, with an operand. -/
def df (imm : Word) : EForm := ⟨10, 12, 16, imm⟩

set_option maxRecDepth 8000 in
theorem test_witness_Debugger :
    (∃ w me, (debugging (fun k => { k with target := none }) fun x => x).curWarp = some w
      ∧ Tbl.find (debugging (fun k => { k with target := none }) fun x => x).contexts w.ctx = some me ∧ me.target = none
      ∧ Ready (debugging (fun k => { k with target := none }) fun x => x) w (.dbgSetbrk (df 0))) ∧
    (∃ w me n c, (debugging (fun k => k) fun x => x).curWarp = some w ∧ Tbl.find (debugging (fun k => k) fun x => x).contexts w.ctx = some me
      ∧ me.target = some n ∧ Tbl.find (debugging (fun k => k) fun x => x).contexts n = some c ∧ c.breakpoints = []
      ∧ (Tbl.findD (debugging (fun k => k) fun x => x).partitions ((debugging (fun k => k) fun x => x).partitionOf n) Partition.initial).holders = []
      ∧ Ready (debugging (fun k => k) fun x => x) w (.dbgHalt (df 1)) ∧ Ready (debugging (fun k => k) fun x => x) w (.dbgResume (df 1))
      ∧ Ready (debugging (fun k => k) fun x => x) w (.dbgClrbrk (df 0))) ∧
    (∃ w x, (debugging (fun k => k) fun x => { x with debugHalted := true }).curWarp = some w
      ∧ (debugging (fun k => k) fun x => { x with debugHalted := true }).warps.find? (fun p => p.2.ctx == 1 && p.2.caravan == (w.spair 10).toNat % 2 ^ 32
        && p.2.pass == (w.spair 10).toNat / 2 ^ 32) = some (5, x) ∧ x.debugHalted = true ∧ x.resume = none ∧ x.mask.getLsbD 0 = true
      ∧ x.depth < 1024 ∧ x.inFrame = false
      ∧ (debugging (fun k => k) fun x => { x with debugHalted := true }).posting 5 = false
      ∧ ((debugging (fun k => k) fun x => { x with debugHalted := true }).warps.map fun p => p.1).Nodup
      ∧ Ready (debugging (fun k => k) fun x => { x with debugHalted := true }) w (.dbgStep (df 0))
      ∧ Ready (debugging (fun k => k) fun x => { x with debugHalted := true }) w (.dbgRdreg (df 0))
      ∧ Ready (debugging (fun k => k) fun x => { x with debugHalted := true }) w (.dbgWrreg (df 0))) ∧
    ∃ w, (debugging (fun k => k) fun x => { x with caravan := 0 }).curWarp = some w
      ∧ (debugging (fun k => k) fun x => { x with caravan := 0 }).warps.find? (fun p => p.2.ctx == 1 && p.2.caravan == (w.spair 10).toNat % 2 ^ 32
        && p.2.pass == (w.spair 10).toNat / 2 ^ 32) = none
      ∧ Ready (debugging (fun k => k) fun x => { x with caravan := 0 }) w (.dbgWatch (df 4))
      ∧ Ready (debugging (fun k => k) fun x => { x with caravan := 0 }) w (.dbgUnwatch (df 0)) := by
  refine ⟨⟨_, _, rfl, rfl, rfl, ⟨_, rfl, rfl⟩⟩, ⟨_, _, _, _, rfl, rfl, rfl, rfl, rfl, rfl, ⟨_, rfl, rfl⟩, ⟨_, rfl, rfl⟩, ⟨_, rfl, rfl⟩⟩,
    ⟨_, _, rfl, rfl, rfl, rfl, rfl, by decide, rfl, rfl, by decide, ⟨_, rfl, rfl⟩, ⟨_, rfl, rfl⟩, ⟨_, rfl, rfl⟩⟩, _, rfl, rfl, ⟨_, rfl, rfl⟩, ⟨_, rfl, rfl⟩⟩

/-- The warp debugged stands at a boundary and is not debug-halted: a halt of it, and a watch of 64 bytes from 0 of its caravan. -/
def watched (k : Option Watchpoint) (me : Context → Context) : State :=
  State.updCore ((debugging me fun x => x).updCaravan 0 fun c => c) 0 fun c => { c with watchpoints := [k, none, none, none] }

set_option maxRecDepth 8000 in
theorem test_witness_debugger_warps :
    (∃ w x, (watched none fun k => k).curWarp = some w ∧ (watched none fun k => k).warp? 5 = some x ∧ x.debugHalted = false
      ∧ x.haltPending = false ∧ Ready (watched none fun k => k) w (.dbgHalt (df 0)) ∧ Ready (watched none fun k => k) w (.dbgResume (df 0))
      ∧ Ready (watched none fun k => k) w (.dbgWatch (df 4)) ∧ (w.sreg (12 + 1)).toNat = 0
      ∧ ((watched none fun k => k).core x.core).watchpoints.getD 0 none = none) ∧
    (∃ x q, (watched (some ⟨4, 0, 64, true, false⟩) fun k => k).warp? 5 = some x
      ∧ ((watched (some ⟨4, 0, 64, true, false⟩) fun k => k).core x.core).watchpoints.getD 0 none = some q ∧ q.caravan ≠ x.caravan) ∧
    (∃ x, (debugging (fun k => k) fun x => { x with debugHalted := true, phase := .stopped }).warp? 5 = some x ∧ x.inFrame = true
      ∧ x.debugHalted = true) ∧
    ∃ h ∈ (Tbl.findD ({ debugging (fun k => k) fun x => x with partitions := [(0, { Partition.initial with holders := [.preempt] })] } : State).partitions
      0 Partition.initial).holders, h ≠ .fault ∧ h ≠ .debug 0 :=
  ⟨⟨_, _, rfl, rfl, rfl, rfl, ⟨_, rfl, rfl⟩, ⟨_, rfl, rfl⟩, ⟨_, rfl, rfl⟩, rfl, rfl⟩, ⟨_, _, rfl, rfl, by decide⟩, ⟨_, rfl, rfl, rfl⟩,
    .preempt, by decide, by decide, by decide⟩

/-- A sampler block at 1024: an interval of 1024, one counter, a ring of 16 rows. -/
def aSampler : List (Nat × List Byte) := [(1024, natBytes 4 1024 ++ [1]), (1040, natBytes 4 16)]

/-- A sampler of cluster 0 that context 0 owns and that runs. -/
def sampling (pending : List TagRecord) : State :=
  State.updCluster (mapped (fun w => w) plainLeaf) 0 fun k =>
    { k with sampler := { k.sampler with owner := some 0, running := true, ring := 0x10000, rsize := 16, tring := 0x10000, tsize := 16,
                                         pending := pending } }

set_option maxRecDepth 8000 in
theorem test_witness_TraceAndSampler :
    (∃ w, (engine 9 0 64 0 []).curWarp = some w ∧ ((engine 9 0 64 0 []).warps.map fun p => p.1).Nodup
      ∧ (∀ i ∈ [Instr.trcOn (df 1), .trcOff (df 1), .trcAnchor (df 1), .trcMark (df 0)], Ready (engine 9 0 64 0 []) w i)
      ∧ w.trace = none ∧ (df 1).imm.getLsbD 0 = true) ∧
    (∃ w b, (mapped (fun w => w) plainLeaf).curWarp = some w
      ∧ (mapped (fun w => w) plainLeaf).readSpan w.core w.ctx (w.spair 10).toNat 64 = .ok b ∧ b.length = 64) ∧
    (∃ w, (engine 1024 0 0 0 aSampler).curWarp = some w
      ∧ (∀ i ∈ [Instr.sampCfg (df 0), .sampStart (df 0), .sampStop (df 0)], Ready (engine 1024 0 0 0 aSampler) w i) ∧ HandlerFree w
      ∧ (w.sreg 10).toNat + 64 ≤ (engine 1024 0 0 0 aSampler).allotment w
      ∧ (let b := Memory.readBytes ((engine 1024 0 0 0 aSampler).operandMem w) (w.sreg 10).toNat 64
         let x (off n : Nat) : Nat := bytesNat ((b.drop off).take n)
         x 0 4 = 1024 ∧ x 4 1 = 1 ∧ x 5 1 = 0 ∧ x 6 2 = 0 ∧ x 8 8 = 0 ∧ x 0x10 4 = 2 ^ 4 ∧ x 0x24 4 = 0 ∧ x 0x28 1 = 0 ∧ x 0x38 8 = 0)
      ∧ ((engine 1024 0 0 0 aSampler).cluster (w.core / 2)).sampler.owner = none) ∧
    ((sampling []).cluster 0).sampler.owner = some 0 ∧ ((sampling []).cluster 0).sampler.running = true
      ∧ ((sampling []).cluster 0).sampler.start ≤ (sampling []).time ∧ (sampling []).partReach (.sampler 0) 0 0 0x10000 true = .go 0x20000 ∧
    ∃ r, ((sampling [⟨List.replicate 34 0, 0, none, false, none⟩]).cluster 0).sampler.pending = [r] ∧ r.head.length = 34
      ∧ (sampling [⟨List.replicate 34 0, 0, none, false, none⟩]).writtenBack r = true := by
  refine ⟨⟨_, rfl, by decide, ?_, rfl, rfl⟩, ⟨_, _, rfl, rfl, rfl⟩,
    ⟨_, rfl, ?_, ⟨by decide, rfl⟩, by decide, ⟨rfl, rfl, rfl, rfl, rfl, rfl, rfl, rfl, rfl⟩, rfl⟩, rfl, rfl, by decide, rfl, _, rfl, rfl, rfl⟩
  all_goals
    intro i hi
    simp only [List.mem_cons, List.not_mem_nil, or_false] at hi
    rcases hi with rfl | rfl | rfl | rfl <;> exact ⟨_, rfl, rfl⟩

/-- A context with a mailbox of 16 slots in the page at 0x10000, and one report. -/
def reporting (slot : Option Nat) : State :=
  (mapped (fun w => w) plainLeaf).setContext 0 { standInContext with mbase := 0x10000, msize := 16, reports := [⟨[], slot, none⟩] }

theorem test_witness_SystemInstructions :
    (∃ w, (engine 0x10000 3 0 0 []).curWarp = some w ∧ Ready (engine 0x10000 3 0 0 []) w (.sysTlbinv (df 0)) ∧ HandlerFree w
      ∧ (w.spair 10).toNat % 65536 = 0 ∧ (w.sreg 12).toNat = 3 ∧ Ready (engine 0x10000 3 0 0 []) w (.sysFeat ⟨10, 0, 0, 2⟩)) ∧
    (∃ w, (engine 0x10001 0 0 0 []).curWarp = some w ∧ HandlerFree w ∧ (w.spair 10).toNat % 65536 ≠ 0) ∧
    ∃ c r, Tbl.find (reporting (some 0)).contexts 0 = some c ∧ c.reports = [r] ∧ r.slot = some 0
      ∧ (reporting (some 0)).partReach (.post 0) 0 0 c.mbase true = .go 0x20000
      ∧ (0 : Nat) - Memory.readNat (reporting (some 0)).mem (0x20000 + 8) 8 < c.msize
      ∧ (reporting (some 0)).partReach (.post 0) 0 0 (c.mbase + 64) true = .go 0x20040 :=
  ⟨⟨_, rfl, ⟨_, rfl, rfl⟩, ⟨by decide, rfl⟩, by decide, by decide, ⟨_, rfl, rfl⟩⟩, ⟨_, rfl, ⟨by decide, rfl⟩, by decide⟩,
    _, _, rfl, rfl, rfl, rfl, by decide, rfl⟩

/-- A launch record of one pass: a trip of 1, one stage, depth 1, quota 1 and one status slot. -/
def aRecord : List Byte := natBytes 4 1 ++ [1, 1, 0, 1] ++ List.replicate 52 0 ++ [1] ++ List.replicate 67 0

def anObject : CodeObject := ⟨0, 0, 0, 64, [0], []⟩

/-- A warp whose scratchpad holds that record at 1024, with the code object it names, and a task queue 3 that holds some tasks. -/
def tasked (tasks : List Task) (ring : List (Nat × Nat × Nat) := []) : State :=
  { engine 1024 3 0 0 [(1024, aRecord)] with
    objects := [anObject], taskQueues := [(3, ⟨0, 0x10000, 256, recordOf aRecord, tasks, ring, ring.length, 0, []⟩)] }

/-- A `qpush` or `qpop` into p1 of the pair v2:v3, at the queue that s12 numbers. -/
def qf : VForm := { vf 0 with vd := 1, va := 2, vb := 0x7C, sb := 12 }

set_option maxRecDepth 8000 in
theorem test_witness_SpawnAndTaskQueues :
    (∃ w parent args init, (tasked []).curWarp = some w ∧ (tasked []).caravan? w.caravan = some parent ∧ (tasked []).caravans.length < 2 ^ 32
      ∧ Ready (tasked []) w (.spawn ⟨10, 0, 0, 0x80000005⟩) ∧ Memory.readBytes parent.scratch 1024 128 = aRecord
      ∧ (tasked []).objects.find? (fun o => o.ctx == w.ctx && o.objId == (recordOf aRecord).objId) = some anObject
      ∧ (∀ x ∈ recordChecks aRecord (some anObject), x.2 = false)
      ∧ ((tasked []).caravans.filter fun p => p.2.stage == .pool).length < 16384 ∧ (tasked []).released w (tasked []).cur 2 = true
      ∧ (tasked []).partGet (.child (tasked []).cur) w.ctx 0 0 = .got args
      ∧ (tasked []).partGet (.child (tasked []).cur) w.ctx 0 (2688 * 0) = .got init) ∧
    (∃ x ∈ recordChecks aRecord none, x.2 = true) ∧
    ∃ w c k, (tasked [⟨7, 0, 0⟩]).curWarp = some w ∧ (tasked [⟨7, 0, 0⟩]).caravan? w.caravan = some c ∧ isNever qf.pred qf.pneg = false
      ∧ Ready (tasked [⟨7, 0, 0⟩]) w (.qpush qf) ∧ (tasked [⟨7, 0, 0⟩]).released w (tasked [⟨7, 0, 0⟩]).cur 2 = true
      ∧ Ready (tasked [⟨7, 0, 0⟩]) w (.qpop qf) ∧ Tbl.find (tasked [⟨7, 0, 0⟩]).taskQueues (w.sreg 12).toNat = some k ∧ k.ctx = w.ctx
      ∧ k.ringTasks = [] ∧ k.saved = [] ∧ k.onDie.length + 96 ≤ 256 ∧ c.launch = 0 := by
  refine ⟨⟨_, _, _, _, rfl, rfl, by decide, ⟨_, rfl, rfl⟩, rfl, rfl, by decide, by decide, rfl, rfl, rfl⟩, ⟨(0x10, true), by decide, rfl⟩,
    _, _, _, rfl, rfl, rfl, ⟨_, rfl, rfl⟩, rfl, ⟨_, rfl, rfl⟩, rfl, rfl, rfl, rfl, by decide, rfl⟩

/-- One thread, the page of the ring in the TLB of its core, a task in entry 0 of the ring and none on the die. -/
def ringed : State :=
  let s := tasked [] [(0, 0, 0)]
  { (mapped (fun w => w.setS 12 3) plainLeaf) with taskQueues := s.taskQueues, objects := s.objects }

set_option maxRecDepth 8000 in
theorem test_witness_ring :
    (∃ w c k pa, ringed.curWarp = some w ∧ ringed.caravan? w.caravan = some c ∧ Ready ringed w (.qpush qf)
      ∧ ringed.released w ringed.cur 2 = true ∧ Tbl.find ringed.taskQueues (w.sreg 12).toNat = some k ∧ k.ctx = w.ctx ∧ k.ringTasks ≠ []
      ∧ ((List.range 96).filter fun th => (ringed.takes w qf.pred qf.pneg).getLsbD th) = [0] ∧ k.ringTasks.length < k.rsize
      ∧ (k.ring + 8 * (k.nextEntry % k.rsize)) % 65536 ≤ 65528
      ∧ ringed.partReach (.ring 3) w.core w.ctx (k.ring + 8 * (k.nextEntry % k.rsize)) true = .go pa) ∧
    (∃ w k b, ringed.curWarp = some w ∧ Ready ringed w (.qpop qf) ∧ Tbl.find ringed.taskQueues (w.sreg 12).toNat = some k ∧ k.ctx = w.ctx
      ∧ k.saved = [] ∧ k.ringTasks.map (fun x => x.1) = [0] ∧ ringed.partGet (.ring 3) k.ctx k.ring 8 = .got b) ∧
    ∃ w, (put fun w => w.setS 12 5000).curWarp = some w ∧ 4096 ≤ (w.sreg 12).toNat :=
  ⟨⟨_, _, _, _, rfl, rfl, ⟨_, rfl, rfl⟩, rfl, rfl, rfl, by decide, by decide, by decide, by decide, rfl⟩,
    ⟨_, _, _, rfl, ⟨_, rfl, rfl⟩, rfl, rfl, rfl, rfl, rfl⟩, _, rfl, by decide⟩

/-- A packet of a type and its fields from 0x10 on, which writes its completion word at 0x10080. -/
def aPacket (type opc : Nat) (fields : List Byte) : Packet :=
  ⟨0, true, natBytes 1 type ++ [2] ++ natBytes 2 opc ++ natBytes 4 0 ++ natBytes 8 0x10080 ++ fields
    ++ List.replicate (48 - fields.length) 0⟩

/-- The packet in the lane of queue 0, whose control block lies at 0x10000, in a part changed so. -/
def laned (p : Packet) (f : State → State) : State :=
  f { mapped (fun w => w) plainLeaf with
    security := { Security.reset with powered := true, started := true, acceptWritten := true }
    queues := [(0, { HostQueue.initial with bound := true, ctx := 0, control := 0x10000, tail := 1, lane := some p })] }

/-- What PacketEnds and PacketOpens ask besides. -/
theorem test_witness_packets_lane : (aPacket 0 0 []).ring = true ∧ ((laned (aPacket 0 0 []) fun s => s).hostQueue 0).bound = true
    ∧ (aPacket 0 0 []).notify = true ∧ (laned (aPacket 0 0 []) fun s => s).loaded 0 = true := ⟨rfl, rfl, rfl, rfl⟩

theorem test_witness_packets_head : (laned (aPacket 0 0 []) fun s => s).partReach (.head 0) 0 0 (0x10000 + 16) true = .go 0x20010 := rfl

theorem test_witness_packets_done :
    ((laned (aPacket 0 0 []) fun s => s).homeWrite 0x20010 (natBytes 8 1)).partReach (.word 0 0) 0 0 (aPacket 0 0 []).doneVa true = .go 0x20080 := rfl

/-- A TQBIND of queue 3 for context 0, its ring of 256 places, its template at 0x10000. -/
def aBind : Packet := aPacket 4 4 (natBytes 2 3 ++ natBytes 2 0 ++ natBytes 4 256 ++ natBytes 8 0 ++ natBytes 8 0x10000)

/-- The template in memory. -/
def withTemplate (s : State) : State := { s with mem := Memory.writeBytes s.mem 0x20000 aRecord, objects := [anObject] }

set_option maxRecDepth 8000 in
theorem test_witness_Dispatcher :
    LanePacket (laned aBind withTemplate) 0 aBind .tqbind ∧ (∃ b, (laned aBind withTemplate).partGet (.packet 0 0) 0 0x10000 128 = .got b ∧ b.length = 128) ∧
    (∀ n ∈ [5, 6], ((aPacket 4 n (natBytes 4 3)).kind = .tqflush ∨ (aPacket 4 n (natBytes 4 3)).kind = .tqunbind)) ∧
    ∃ q head args init, Tbl.find (tasked [⟨7, 0, 0⟩]).taskQueues 3 = some q ∧ q.onDie = [head] ∧ (tasked [⟨7, 0, 0⟩]).loaded q.ctx = true
      ∧ ((tasked [⟨7, 0, 0⟩]).objects.find? fun o => o.ctx == q.ctx && o.objId == q.template.objId) = some anObject
      ∧ (Tbl.findD (tasked [⟨7, 0, 0⟩]).partitions ((tasked [⟨7, 0, 0⟩]).partitionOf q.ctx) Partition.initial).halt = none
      ∧ (tasked [⟨7, 0, 0⟩]).partGet (.ring 3) q.ctx q.template.argAddr (4 * q.template.argN) = .got args
      ∧ (tasked [⟨7, 0, 0⟩]).partGet (.ring 3) q.ctx q.template.initAddr 0 = .got init ∧ head.time + 2000 ≤ 2000 :=
  ⟨⟨rfl, by decide, rfl, rfl, rfl, ⟨rfl, rfl, rfl⟩, .inl rfl⟩, ⟨_, rfl, rfl⟩, by decide, _, _, _, _, rfl, rfl, rfl, rfl, rfl, rfl, rfl, by decide⟩

/-- A walk of the page at 0x10000 for the warp 0, the root of its context at 0x40000, and three entries of the tree in memory. -/
def walked (leaf : DWord) : State :=
  let s := resting.updDie 0 fun d => { d with requests := [⟨0, 0, 0x10000, .read, .warp 0⟩] }
  { s.setContext 0 { standInContext with root := 0x40000 } with
    mem := Memory.writeBytes (Memory.writeBytes (Memory.writeBytes [] 0x40000 (natBytes 8 0x50001)) 0x50000 (natBytes 8 0x60001)) 0x60008
      (natBytes 8 leaf.toNat) }

set_option maxRecDepth 8000 in
theorem test_witness_TableWalks :
    (∃ r c, ((walked plainLeaf).die 0).requests.filter (fun q => q.ctx == 0 && q.va / 65536 == 1) = [r] ∧ r.core / 144 = 0
      ∧ Tbl.find (walked plainLeaf).contexts 0 = some c ∧ ((walked plainLeaf).core 0).tlb = [] ∧ ((walked plainLeaf).cluster 0).tlb = []
      ∧ ((walked plainLeaf).die 0).tlb = [] ∧ Memory.readDWord (walked plainLeaf).mem (c.root + 8 * (r.va / 2 ^ 42 % 8192)) = 0x50001
      ∧ Memory.readDWord (walked plainLeaf).mem (0x50000 + 8 * (r.va / 2 ^ 29 % 8192)) = 0x60001
      ∧ Memory.readDWord (walked plainLeaf).mem (0x60000 + 8 * (r.va / 2 ^ 16 % 8192)) = plainLeaf ∧ r.kind ≠ .fetch) ∧
    Memory.readDWord (walked 0).mem 0x60008 = 0 ∧ ((walked 0).die 0).faults = [] :=
  ⟨⟨_, _, rfl, rfl, rfl, rfl, rfl, rfl, rfl, rfl, rfl, by decide⟩, rfl, rfl⟩

/-- A part that has started. -/
def started : State := { State.reset with security := { Security.reset with powered := true, started := true } }

/-- An `acop` queued on array 0 while the halt line of its partition is raised. -/
def arraysStop : State :=
  { queued (.matrix 0) [anOp (.acop 1 aTile 1 []) .queued] plainLeaf with partitions := [(0, { Partition.initial with halt := some 0 })] }

/-- A `cpy` that runs while the halt line of its partition is raised. -/
def stopping : State :=
  { queued (.copy 0) [anOp (.cpy 0 0x10000 64 128 0) .running] plainLeaf with
    partitions := [(0, { Partition.initial with halt := some 0 })] }

theorem test_witness_TokensAndPower :
    (∃ c, Tbl.find resting.contexts 0 = some c ∧ resting.time < Tbl.findD (resting.die 0).lastToken 0 0 + 1000) ∧
    Tbl.findD ({ resting with time := 1000 } : State).dies 0 Die.initial = Die.initial ∧
    (∃ o w, (stopping.queueOf (.copy 0)).find? (fun x => x.state != .finished && !x.stopped && x.kind.stops x.state) = some o
      ∧ (stopping.queueOf (.copy 0)).length = 1 ∧ stopping.warp? o.warp = some w
      ∧ (Tbl.findD stopping.partitions (stopping.partitionOf o.ctx) Partition.initial).halt.isSome = true) ∧
    ({ resting with time := 1000 } : State).time = (({ resting with time := 1000 } : State).cluster 0).power.lastRate + 1000 ∧
    resting.time < resting.lastHeadroom + 100000 ∧ resting.security.started = false ∧
    (∃ o, (arraysStop.queueOf (.matrix 0)).find? (fun x => x.state != .finished && !x.stopped && x.kind.stops x.state) = some o
      ∧ o.state = .queued ∧ 0 ∈ o.arrays ∧ (∀ x ∈ arraysStop.queueOf (.matrix 0), x.id = o.id → x = o)
      ∧ (Tbl.findD arraysStop.partitions (arraysStop.partitionOf o.ctx) Partition.initial).halt.isSome = true) ∧
    -- the events of power in a part that has started, at a boundary of each of their times
    ({ started with time := 1000 } : State).security.started = true
      ∧ (({ started with time := 1000 } : State).cluster 287).power.lastRate + 1000 = ({ started with time := 1000 } : State).time
      ∧ ({ started with time := 100000 } : State).lastHeadroom + 100000 = ({ started with time := 100000 } : State).time :=
  ⟨⟨_, rfl, by decide⟩, rfl, ⟨_, _, rfl, rfl, rfl, rfl⟩, rfl, by decide, rfl,
    ⟨_, rfl, rfl, by decide, fun x hx _ => List.mem_singleton.mp hx, rfl⟩, rfl, rfl, rfl⟩

theorem test_witness_SecurityRules :
    State.reset.security.powered = false ∧ started.security.powered = true ∧ (started.partitions.map fun k => k.1).Nodup
    ∧ started.security.started = true ∧ started.security.acceptWritten = false ∧ started.security.alarm < 3
    ∧ (PowerOnInput.mk 0xFF ⟨[1], [2]⟩ ⟨[], []⟩ 0x7F).trained = 0xFF ∧ (PowerOnInput.mk 0xFE ⟨[1], [2]⟩ ⟨[], []⟩ 0x7F).trained ≠ 0xFF
    ∧ started.security.failedStarts < 2 ∧ 2 ≤ ({ started.security with failedStarts := 2 } : Security).failedStarts
    ∧ (¬ 3 ≤ started.security.alarm) ∧ 3 ≤ ({ started.security with alarm := 3 } : Security).alarm :=
  ⟨rfl, rfl, by decide, rfl, rfl, by decide, rfl, by decide, by decide, by decide, by decide, by decide⟩

/-- A ring of one packet: its control block at 0x10000 with TAIL 1, and the queue's lane empty. -/
def ringing : State :=
  let s := laned (aPacket 0 0 []) fun s => s
  { s.setHostQueue 0 { HostQueue.initial with bound := true, ctx := 0, control := 0x10000 } with
    mem := Memory.writeBytes (Memory.writeBytes [] 0x20000 (natBytes 8 0x10100 ++ natBytes 4 16)) 0x20018 [1] }

/-- A `LAUNCH` of the record at 0x10000. -/
def aLaunch : Packet := aPacket 1 0 (natBytes 8 0x10000)

/-- A `COPY` of 8 bytes, and a `SIGNAL`. -/
def aCopy : Packet := aPacket 2 0 (natBytes 8 0x10000 ++ natBytes 8 0x10040 ++ natBytes 8 8)
def aSignal : Packet := aPacket 3 0 (natBytes 8 0x10000 ++ natBytes 8 5)

/-- A launch of queue 0 whose counter is at zero, its packet open. -/
def launched : State :=
  let s := laned (aPacket 0 0 []) fun s => s
  { s.setHostQueue 0 { HostQueue.initial with bound := true, ctx := 0, control := 0x10000, inFlight := [⟨aLaunch, none, 0⟩] } with
    launches := [(3, ⟨0, 0, 0, 1, 0, 0, false⟩)] }

/-- A caravan of queue 0 in the pending pool. -/
def pooled : State :=
  { resting with
    partitions := [(0, { Partition.initial with clusters := [1] })]
    caravans := Tbl.put resting.caravans 1 { Caravan.fresh 0 0 (some 0) 1 standInRecord anObject [] [] with stage := .pool } }

set_option maxRecDepth 8000 in
theorem test_witness_FrontEnd :
    ((∃ b, (ringing.hostQueue 0).bound = true ∧ (ringing.hostQueue 0).ctx = 0 ∧ ringing.security.started = true
      ∧ (ringing.hostQueue 0).headDue = false ∧ ringing.partGet (.head 0) 0 (0x10000 + 24) 8 = .got b ∧ bytesNat b = 1 ∧ (ringing.hostQueue 0).lane = none)
      ∧ (∃ block bytes, ringing.partGet (.packet 0 0) 0 0x10000 16 = .got block ∧ bytesNat (block.take 8) = 0x10100
        ∧ ringing.partGet (.packet 0 0) 0 0x10100 64 = .got bytes)) ∧
    LanePacket (laned (aPacket 0 0 []) fun s => s) 0 (aPacket 0 0 []) .nop ∧
    (LanePacket (laned aCopy fun s => s) 0 aCopy .copy ∧ (laned aCopy fun s => s).partReach (.packet 0 0) 0 0 0x10000 false = .go 0x20000
      ∧ (laned aCopy fun s => s).partReach (.packet 0 0) 0 0 0x10040 true = .go 0x20040) ∧
    (LanePacket (laned aSignal fun s => s) 0 aSignal .signal ∧ (laned aSignal fun s => s).partReach (.packet 0 0) 0 0 0x10000 true = .go 0x20000
      ∧ ((laned aSignal fun s => s).hostQueue 0).inFlight = []) ∧
    (LanePacket (laned aLaunch withTemplate) 0 aLaunch .launch ∧ ∃ b, (laned aLaunch withTemplate).partGet (.packet 0 0) 0 0x10000 128 = .got b) ∧
    (∃ l, Tbl.find launched.launches 3 = some l ∧ l.counter = 0 ∧ l.aborted = false
      ∧ (launched.hostQueue l.queue).inFlight = [⟨aLaunch, none, 0⟩] ∧ aLaunch.index = l.packet ∧ aLaunch.notify = true
      ∧ launched.loaded 0 = true ∧ launched.partReach (.word 0 aLaunch.index) 0 0 aLaunch.doneVa true = .go 0x20080) ∧
    ∃ id c, pooled.firstReady ((pooled.arbiter + 0) % 64) = some (id, c) ∧ c.home = none ∧ pooled.dieAllowed c 0 = true :=
  ⟨⟨⟨_, rfl, rfl, rfl, rfl, rfl, rfl, rfl⟩, _, _, rfl, rfl, rfl⟩, ⟨rfl, by decide, rfl, rfl, rfl, ⟨rfl, rfl, rfl⟩, .inr rfl⟩,
    ⟨⟨rfl, by decide, rfl, rfl, rfl, ⟨rfl, rfl, rfl⟩, .inr rfl⟩, rfl, rfl⟩, ⟨⟨rfl, by decide, rfl, rfl, rfl, ⟨rfl, rfl, rfl⟩, .inr rfl⟩, rfl, rfl⟩,
    ⟨⟨rfl, by decide, rfl, rfl, rfl, ⟨rfl, rfl, rfl⟩, .inr rfl⟩, _, rfl⟩, ⟨_, rfl, rfl, rfl, rfl, rfl, rfl, rfl, rfl⟩,
    _, _, rfl, rfl, rfl⟩

/-- A `COPY` of queue 0 that is acknowledged, or not yet, with a `SIGNAL` behind it. -/
def behindCopy (due : Nat) : State :=
  (laned aSignal fun s => s).setHostQueue 0 { HostQueue.initial with
    bound := true, ctx := 0, control := 0x10000, head := 1, tail := 2, inFlight := [⟨aCopy, some (0, 0), due⟩, ⟨aSignal, none, 0⟩] }

theorem test_witness_packets_open :
    (∃ x ∈ ((behindCopy 9).hostQueue 0).inFlight.takeWhile fun x => decide (x.packet ≠ aSignal),
      x.packet.kind = .copy ∧ (behindCopy 9).time < x.due) ∧
    (∀ x ∈ ((behindCopy 0).hostQueue 0).inFlight.takeWhile fun x => decide (x.packet ≠ aSignal),
      x.result = some (0, 0) ∧ x.due ≤ (behindCopy 0).time) ∧
    (launched.hostQueue 0).inFlight = [⟨aLaunch, none, 0⟩] ∧ (0 : Nat) ≤ launched.time ∧ launched.time < 1 ∧
    aLaunch.doneVa % 8 = 0 ∧ (launched.hostQueue 0).bound = true :=
  ⟨⟨⟨aCopy, some (0, 0), 9⟩, by decide, by decide, by decide⟩, by decide, rfl, by decide, by decide, by decide, rfl⟩

/-- A context record of the partition 0. -/
def aContext : List Byte := natBytes 4 0 ++ natBytes 4 1024 ++ natBytes 12 0 ++ natBytes 2 1 ++ natBytes 2 0 ++ natBytes 4 1

/-- A CONFIG packet with two words and an address. -/
def aConfig (opc n m : Nat) : Packet := aPacket 4 opc (natBytes 4 n ++ natBytes 4 m ++ natBytes 8 0x10000 ++ natBytes 4 1)

/-- The part with a record at 0x20000 in memory, a partition 0 and a debug context 1. -/
def configuring (record : List Byte) (s : State) : State :=
  { s.setContext 1 { standInContext with debug := true } with
    mem := Memory.writeBytes s.mem 0x20000 record, partitions := [(0, { Partition.initial with clusters := [1] })] }

/-- The same with a fault entry on which the warp 0 waits. -/
def faulted (who : Requester) (s : State) : State :=
  (s.updWarp 0 fun w => { w with phase := .waiting (.translation 7) }).updDie 0 fun d =>
    { d with faults := [⟨7, 0, 0x30000, 65536, 0, [⟨0, 0, 0x30000, .read, who⟩]⟩] }

set_option maxRecDepth 8000 in
theorem test_witness_Configuration :
    (LanePacket (laned (aConfig 0 2 0) (configuring aContext)) 0 (aConfig 0 2 0) .ctxload
      ∧ (∃ b, (laned (aConfig 0 2 0) (configuring aContext)).queueGet 0 (aConfig 0 2 0) ((laned (aConfig 0 2 0) (configuring aContext)).hostQueue 0) 0x10000 128 = .got b)
      ∧ (laned (aConfig 0 2 0) (configuring aContext)).loaded 2 = false
      ∧ (laned (aConfig 0 2 0) (configuring aContext)).refusesContext false = false) ∧
    recordBad aContext = false ∧
    (LanePacket (laned (aConfig 1 1 0) (configuring [])) 0 (aConfig 1 1 0) .ctxfree
      ∧ (laned (aConfig 1 1 0) (configuring [])).loaded 1 = true ∧ ∀ x ∈ (laned (aConfig 1 1 0) (configuring [])).caravans, x.2.ctx ≠ 1) ∧
    LanePacket (laned (aConfig 2 5 1) (configuring [])) 0 (aConfig 2 5 1) .qbind ∧
    (LanePacket (laned (aConfig 3 2 0) (configuring [4])) 0 (aConfig 3 2 0) .partition
      ∧ ∃ b, (laned (aConfig 3 2 0) (configuring [4])).queueGet 0 (aConfig 3 2 0) ((laned (aConfig 3 2 0) (configuring [4])).hostQueue 0) 0x10000 36 = .got b
        ∧ b.length = 36) ∧
    (LanePacket (laned (aConfig 7 0 7) (faulted (.warp 0))) 0 (aConfig 7 0 7) .resolve ∧ ∃ f r w,
      ((laned (aConfig 7 0 7) (faulted (.warp 0))).die 0).faults.find? (fun f => f.seq == 7) = some f ∧ f.waiters = [r] ∧ r.who = .warp 0
      ∧ (laned (aConfig 7 0 7) (faulted (.warp 0))).warp? 0 = some w ∧ w.phase = .waiting (.translation 7) ∧ w.run.isSome = true) ∧
    (∀ who ∈ [Requester.part (.post 0), .engine 77], ((faulted who resting).die 0).faults.find? (fun f => f.seq == 7)
      = some ⟨7, 0, 0x30000, 65536, 0, [⟨0, 0, 0x30000, .read, who⟩]⟩) ∧
    LanePacket (laned (aConfig 10 1 0) (configuring [])) 0 (aConfig 10 1 0) .attach ∧
    ∃ c k, Tbl.find (laned (aConfig 10 1 0) (configuring [])).contexts 1 = some c ∧ c.debug = true
      ∧ Tbl.find (laned (aConfig 10 1 0) (configuring [])).contexts 0 = some k ∧ k.secure = false :=
  ⟨⟨⟨rfl, by decide, rfl, rfl, rfl, ⟨rfl, rfl, rfl⟩, .inl rfl⟩, ⟨_, rfl⟩, rfl, rfl⟩, rfl,
    ⟨⟨rfl, by decide, rfl, rfl, rfl, ⟨rfl, rfl, rfl⟩, .inl rfl⟩, rfl, by decide⟩, ⟨rfl, by decide, rfl, rfl, rfl, ⟨rfl, rfl, rfl⟩, .inl rfl⟩,
    ⟨⟨rfl, by decide, rfl, rfl, rfl, ⟨rfl, rfl, rfl⟩, .inl rfl⟩, _, rfl, rfl⟩,
    ⟨⟨rfl, by decide, rfl, rfl, rfl, ⟨rfl, rfl, rfl⟩, .inl rfl⟩, _, _, _, rfl, rfl, rfl, rfl, rfl, rfl⟩, by decide,
    ⟨rfl, by decide, rfl, rfl, rfl, ⟨rfl, rfl, rfl⟩, .inl rfl⟩, _, _, rfl, rfl, rfl, rfl⟩

/-- A stopped context 1 of the partition 0, whose halt line is up, and its record with another number of frames. -/
def enlarging (s : State) : State :=
  let c := configuring (natBytes 4 0 ++ natBytes 4 1024 ++ natBytes 12 0 ++ natBytes 2 1 ++ natBytes 2 0 ++ natBytes 4 1) s
  { c with partitions := [(0, { Partition.initial with halt := some 0, holders := [.preempt] })], warps := [], caravans := [] }

theorem test_witness_enlarging : LanePacket (laned (aConfig 0 1 0) enlarging) 0 (aConfig 0 1 0) .ctxload
    ∧ (∃ old, Tbl.find (laned (aConfig 0 1 0) enlarging).contexts 1 = some old ∧ old.partition = 0 ∧ old.save = 0)
    ∧ (∃ k, Tbl.find (laned (aConfig 0 1 0) enlarging).partitions 0 = some k ∧ k.halt ≠ none ∧ k.secure = false)
    ∧ (laned (aConfig 0 1 0) enlarging).allStopped 0 = true :=
  ⟨⟨rfl, by decide, rfl, rfl, rfl, ⟨rfl, rfl, rfl⟩, .inl rfl⟩, ⟨_, rfl, rfl, rfl⟩, ⟨_, rfl, by decide, rfl⟩, rfl⟩

/-- The warp 0 waits in a fetch for a page, its context not halted on faults: with its partition's halt line up, and without. -/
def fetching (halt : Option Nat) : State :=
  { (coded (fun w => { w with phase := .waiting (.translation 7) }) []) with partitions := [(0, { Partition.initial with halt := halt })] }

theorem test_witness_fetching :
    (∃ w, (fetching (some 0)).warp? 0 = some w ∧ w.run = none ∧ (fetching (some 0)).mustStop { w with phase := .fetch } = true
      ∧ ((fetching (some 0)).caravan? w.caravan).isSome = true) ∧
    ∃ w c, (fetching none).warp? 0 = some w ∧ w.run = none ∧ (fetching none).mustStop { w with phase := .fetch } = false
      ∧ (fetching none).caravan? w.caravan = some c
      ∧ (fetching none).boundary 0 { w with phase := .fetch } ((fetching none).headerRun { w with phase := .fetch } c) = none :=
  ⟨⟨_, rfl, rfl, rfl, rfl⟩, _, _, rfl, rfl, rfl, rfl, rfl⟩

/-- A part with a partition 1 of one cluster, its halt line raised, and nothing on it. -/
def secondPartition (s : State) : State :=
  { s with partitions := [(1, { Partition.initial with clusters := [5], halt := some 0, holders := [.preempt] })] }

/-- A packet of partition 1. -/
def aStop : Packet := aPacket 4 8 (natBytes 4 1)
def aResume : Packet := aPacket 4 9 (natBytes 4 1)

/-- The PREEMPT has left its lane and is open. -/
def preempted : State :=
  let s := secondPartition (laned aStop fun s => s)
  s.setHostQueue 0 { HostQueue.initial with bound := true, ctx := 0, control := 0x10000, head := 1, tail := 1, inFlight := [⟨aStop, none, 0⟩] }

/-- An ABORT of the launch of packet 5. -/
def anAbort : Packet := aPacket 5 0 (natBytes 8 5)

/-- A launch of packet 5 of queue 0, its packet open, in the place of the number `n`; the ABORT in the lane or open. -/
def aborting (n : Nat) (lane : Option Packet) (open_ : List OpenPacket) : State :=
  let s := laned anAbort fun s => s
  { s.setHostQueue 0 { HostQueue.initial with
      bound := true, ctx := 0, control := 0x10000, head := 1, tail := 1, lane := lane, inFlight := ⟨{ aLaunch with index := 5 }, none, 0⟩ :: open_ } with
    launches := [(n, ⟨0, 5, 0, 1, 1, 0, false⟩)] }

set_option maxRecDepth 8000 in
theorem test_witness_StopsAndAborts :
    (LanePacket (laned aStop secondPartition) 0 aStop .preempt ∧ LanePacket (laned aResume secondPartition) 0 aResume .resume
      ∧ (laned aResume secondPartition).preempting 1 = false ∧ LanePacket (laned anAbort fun s => s) 0 anAbort .abort
      ∧ (laned anAbort fun s => s).launches = []) ∧
    (aStop.kind = .preempt ∧ (preempted.hostQueue 0).inFlight = [⟨aStop, none, 0⟩]
      ∧ (Tbl.findD preempted.partitions 1 Partition.initial).halt = some 0 ∧ preempted.stopReady 1 = true
      ∧ (preempted.savePartition 1).loaded 0 = true ∧ (preempted.savePartition 1).hostQueue 0 = preempted.hostQueue 0
      ∧ (preempted.savePartition 1).partReach (.word 0 aStop.index) 0 0 aStop.doneVa true = .go 0x20080) ∧
    (∃ l c w, (aborting 0 (some anAbort) []).launches.find? (fun x => x.2.queue == 0 && x.2.packet == 5) = some (0, l)
      ∧ (aborting 0 (some anAbort) []).caravans.filter (fun x => x.2.launch == 0) = [(0, c)] ∧ c.stage = .placed
      ∧ (aborting 0 (some anAbort) []).caravan? 0 = some c ∧ (aborting 0 (some anAbort) []).warps.filter (fun x => x.2.caravan == 0) = [(0, w)]
      ∧ w.phase = .issuing ∧ anAbort.kind = .abort ∧ anAbort.fence = false ∧ (aborting 0 (some anAbort) []).firstInOrder 0 anAbort = true
      ∧ ((aborting 0 (some anAbort) []).abortLaunch 0 l).partReach (.head 0) 0 0 (0x10000 + 16) true = .go 0x20010) ∧
    ∃ l, (aborting 3 none [⟨anAbort, none, 0⟩]).launches.find? (fun x => x.2.queue == 0 && x.2.packet == 5) = some (3, l)
      ∧ (∀ x ∈ (aborting 3 none [⟨anAbort, none, 0⟩]).caravans, x.2.launch ≠ 3)
      ∧ (aborting 3 none [⟨anAbort, none, 0⟩]).partReach (.word 0 5) 0 0 aLaunch.doneVa true = .go 0x20080
      ∧ ((aborting 3 none [⟨anAbort, none, 0⟩]).homeWrite 0x20080 (natBytes 4 3 ++ natBytes 4 0)).partReach (.word 0 anAbort.index) 0 0 anAbort.doneVa true = .go 0x20080 :=
  ⟨⟨⟨rfl, by decide, rfl, rfl, rfl, ⟨rfl, rfl, rfl⟩, .inl rfl⟩, ⟨rfl, by decide, rfl, rfl, rfl, ⟨rfl, rfl, rfl⟩, .inl rfl⟩, rfl,
      ⟨rfl, by decide, rfl, rfl, rfl, ⟨rfl, rfl, rfl⟩, .inr rfl⟩, rfl⟩, ⟨rfl, rfl, rfl, rfl, rfl, rfl, rfl⟩,
    ⟨_, _, _, rfl, rfl, rfl, rfl, rfl, rfl, rfl, rfl, rfl, rfl⟩, _, rfl, by decide, rfl, rfl⟩

/-- A stopped warp of partition 0 that a RESUME goes on with. -/
def resuming : State :=
  let s := laned (aPacket 4 9 (natBytes 4 0)) fun s => s
  { s.updWarp 0 fun w => { w with phase := .stopped } with
    partitions := [(0, { Partition.initial with clusters := [0], halt := some 0, holders := [.preempt] })] }

theorem test_witness_resume : LanePacket resuming 0 (aPacket 4 9 (natBytes 4 0)) .resume ∧ resuming.preempting 0 = false ∧
    (∃ k, Tbl.find resuming.partitions 0 = some k ∧ k.secure = false ∧ k.saved = [] ∧ k.holders ≠ []) ∧
    (resuming.warps.map fun x => x.1).Nodup ∧ resuming.warps.length ≤ 1024 ∧
    ∃ w c, resuming.warp? 0 = some w ∧ Tbl.find resuming.contexts w.ctx = some c ∧ c.partition = 0 ∧ w.core < 576 ∧ w.phase = .stopped
      ∧ w.stopWait = none ∧ w.spilledRegs = false :=
  ⟨⟨rfl, by decide, rfl, rfl, rfl, ⟨rfl, rfl, rfl⟩, .inl rfl⟩, rfl, ⟨_, rfl, rfl, rfl, by decide⟩, by decide, by decide,
    _, _, rfl, rfl, rfl, by decide, rfl, rfl, rfl⟩

/-- A part that has started, with the page at 0x10000 of context 0 in the TLB of core 0. -/
def porting (leaf : DWord) : State :=
  { mapped (fun w => w) leaf with security := { Security.reset with powered := true, started := true, keysPresent := true } }

theorem test_witness_FabricPorts :
    (porting plainLeaf).security.started = true ∧ (porting plainLeaf).security.keysPresent = true ∧ (porting plainLeaf).loaded 3 = false
    ∧ (porting plainLeaf).loaded 0 = true ∧ (porting plainLeaf).ctxSecure 0 = false
    ∧ ((porting plainLeaf).setContext 3 { standInContext with secure := true }).ctxSecure 3 = true
    ∧ (porting plainLeaf).dropped = [] ∧ (porting plainLeaf).walking (.part (.fabric 0)) = false
    ∧ ((PartAccess.fabric 0, 0, 1) : PartAccess × Nat × Nat) ∈ ({ porting plainLeaf with dropped := [(.fabric 0, 0, 1)] } : State).dropped
    ∧ (porting plainLeaf).reach 0 0 0x10000 true false = .at_ plainLeaf 0x20000
    ∧ (porting plainLeaf).reach 0 0 0x10000 false false = .at_ plainLeaf 0x20000
    ∧ (porting 0x20203).reach 0 0 0x10000 false false = .poisoned ∧ (porting 0x20001).reach 0 0 0x10000 true false = .refused false
    ∧ started.contexts = [] ∧ started.caravans = []
    ∧ (let b := (List.replicate 8 (0 : Word)).flatMap fun w => natBytes 4 w.toNat; ∀ y ∈ b.drop 0x13, y = 0)
    ∧ bytesNat ((((([0, 2] ++ List.replicate 18 0 : List Word)).flatMap fun w => natBytes 4 w.toNat).drop 4).take 2) = 2 :=
  ⟨rfl, rfl, rfl, rfl, rfl, rfl, rfl, rfl, by decide, rfl, rfl, rfl, rfl, rfl, rfl, by decide, rfl⟩

/-- A contribution of one word to a sum. -/
def aSum (v : Nat) : Contribution := ⟨0, 0, 1, 0, false, false, natBytes 4 v⟩

/-- A convoy of the members 0 and 1 of which this package is the member 0, with its own contribution made. -/
def collecting (sent : Bool) : State :=
  let s := aConvoy (mapped (fun w => w) plainLeaf)
  { s with
    security := { Security.reset with powered := true, started := true, keysPresent := true }
    fabric := { s.fabric with collectives := [⟨0, 0, some (aSum 1), [], sent, none, 0, 0⟩] } }

/-- The same as the member 1, whose parent is the peer 1 and marked down, in a secure context. -/
def collectingBelow : State :=
  let s := (collecting false).setContext 0 { standInContext with secure := true }
  { s with fabric := { s.fabric with convoys := [(0, [(0, ⟨0, 1, 2, 1, false, [2], [2]⟩)])], down := [(0, 1)] } }

/-- Two collectives of a convoy whose times are known, a context without samples. -/
def timing : State := { resting with fabric := { resting.fabric with tout := [⟨0, 4, 10, 20, false⟩] } }

/-- An operation at the head of the fabric engine's queue. -/
def crossing (o : EngineOp) : State := aPeer (queued (.fabric 0) [o] plainLeaf)

/-- An allreduce that has its result. -/
def answered : State :=
  let s := collecting true
  let t := s.setQueue (.fabric 0) [{ anOp (.fcoll ⟨1024, 0, 0, 0, 1, 0, 0x10000, 0, 0, 0⟩) .running with cursor := 1 }]
  { t with fabric := { t.fabric with collectives := [⟨0, 0, some (aSum 1), [(0, aSum 2)], true, some (aSum 3), 0, 0⟩] } }

set_option maxRecDepth 8000 in
theorem test_witness_FabricTraffic :
    ((aSum 1).fn = 0 ∧ (aSum 1).oper < 4 ∧ (aSum 1).bytes.length = 4 * (aSum 1).count) ∧
    (∃ e x own, (collecting false).fabric.notes = [] ∧ (∀ k ∈ (collecting false).clusters, ∀ o ∈ k.2.fabric, o.state ≠ .running)
      ∧ (collecting false).convoyEntry 0 0 = some e ∧ 0 < e.children.length ∧ (collecting false).collective? 0 0 = some x ∧ x.sent = false
      ∧ x.own = some own ∧ own.fn ≠ 1 ∧ (collecting false).security.started = true ∧ (collecting false).ctxSecure e.ctx = false
      ∧ e.member = 0 ∧ (∀ p ∈ e.children, (0, p) ∉ (collecting false).fabric.down)) ∧
    (∃ e, collectingBelow.convoyEntry 0 0 = some e ∧ collectingBelow.ctxSecure e.ctx = true ∧ collectingBelow.security.keysPresent = true
      ∧ e.member ≠ 0 ∧ 0 < e.children.length ∧ (0, e.parent) ∈ collectingBelow.fabric.down) ∧
    (∃ y c, (timing.fabric.tout.find? fun z => z.convoy == 0 && z.seq == 5 - 1) = some y ∧ y.seq + 1 = 5
      ∧ (timing.fabric.tout.find? fun z => z.convoy == 0 && z.seq == 5 + 1) = none ∧ y.tout ≤ 20
      ∧ Tbl.find timing.contexts 0 = some c ∧ c.samples.length < 7) ∧
    (∃ x, (collecting true).collective? 0 0 = some x ∧ x.sent = true ∧ x.result = none
      ∧ (collecting true).loaded 0 = true ∧ (collecting true).dropped = [] ∧ (collecting true).walking (.part (.fabric 0)) = false
      ∧ ({ collecting true with contexts := [] } : State).loaded 0 = false
      ∧ (collecting true).reach 0 0 0x10000 true false = .at_ plainLeaf 0x20000) ∧
    (∃ o e, ((crossing (anOp (.fput 0x10000 0 128 0 false) .queued)).cluster 0).fabric = [o] ∧ o.state ≠ .finished
      ∧ (crossing (anOp (.fput 0x10000 0 128 0 false) .queued)).mayWork o = true ∧ o.cursor = 0
      ∧ (crossing (anOp (.fput 0x10000 0 128 0 false) .queued)).peerEntry 0 0 = some e ∧ e.secure = false
      ∧ (crossing (anOp (.fput 0x10000 0 128 0 false) .queued)).ctxSecure o.ctx = false
      ∧ (0, 0) ∉ (crossing (anOp (.fput 0x10000 0 128 0 false) .queued)).fabric.down
      ∧ (crossing (anOp (.fput 0x10000 0 128 0 false) .queued)).meet o 0x10000 false false = .at_ 0x20000 plainLeaf
      ∧ (crossing (anOp (.fput 0x10000 0 128 0 false) .queued)).meet o 0x10000 true false = .at_ 0x20000 plainLeaf) ∧
    ∃ o e c x k, (answered.cluster 0).fabric = [o] ∧ o.cursor = 1 ∧ answered.convoyEntry 0 0 = some e ∧ answered.ctxSecure o.ctx = false
      ∧ answered.caravan? o.caravan = some k ∧ answered.collective? 0 0 = some c ∧ c.result = some x ∧ c.sent = true ∧ x.mismatch = false
      ∧ x.bytes ≠ [] ∧ answered.meet o 0x10000 true false = .at_ 0x20000 plainLeaf :=
  ⟨⟨rfl, by decide, rfl⟩, ⟨_, _, _, rfl, by decide, rfl, by decide, rfl, rfl, rfl, by decide, rfl, rfl, rfl, by decide⟩,
    ⟨_, rfl, rfl, rfl, by decide, by decide, by decide⟩, ⟨_, _, rfl, rfl, rfl, by decide, rfl, by decide⟩, ⟨_, rfl, rfl, rfl, rfl, rfl, rfl, rfl, rfl⟩,
    ⟨_, _, rfl, by decide, rfl, rfl, rfl, rfl, rfl, by decide, rfl, rfl⟩,
    _, _, _, _, _, rfl, rfl, rfl, rfl, rfl, rfl, rfl, rfl, rfl, by decide, rfl⟩

/-- An operation of the array of core 0, in progress there. -/
def working (kind : OpKind) (leaf : DWord) : State := queued (.matrix 0) [anOp kind .running] leaf

def arrayWorks (s : State) : Prop := ∃ o, s.headOp (.matrix 0) = some o ∧ s.arrayHeld 0 = false ∧ s.atHeads o = true ∧ s.mayWork o = true
  ∧ o.state = .running ∧ o.progress = 0 ∧ o.core = 0

/-- Integers, for integer-exact mode, and a matrix of one row in memory. -/
def anInt : FmtHalf := ⟨0, 0, false, false, 0, 0⟩

def aRow : Shape := ⟨0x10000, 1, 1, 1, 1, 4, 0, 0⟩

set_option maxRecDepth 8000 in
theorem test_witness_products :
    arrayWorks (working (.mma aTile aShape aShape aHalf aHalf false false false 0) plainLeaf) ∧ exactMode aHalf aHalf = false ∧
    arrayWorks (working (.mma aTile aShape aShape anInt anInt true false true 5) plainLeaf) ∧ exactMode anInt anInt = true ∧
    (aTile.rows ≤ 96 ∧ aTile.cols ≤ 128 ∧ aTile.pairt = false ∧ 0 < blocksOf aShape.cols ∧ blocksOf aShape.cols ≤ 4096) ∧
    arrayWorks (working (.acld aTile aShape aHalf 0x3F800000) plainLeaf) ∧ (aShape.layout ≤ 1 ∧ fmtBits aHalf.fmt ∈ [8, 16, 32] ∧ aShape.space = 1) ∧
    (∀ kind ∈ [OpKind.acld aTile aRow aHalf 0x3F800000, .acst aTile aRow aHalf 0x3F800000], arrayWorks (working kind plainLeaf)
      ∧ (working kind plainLeaf).meet (anOp kind .running) 0x10000 true false = .at_ 0x20000 plainLeaf
      ∧ (working kind plainLeaf).meet (anOp kind .running) 0x10000 false false = .at_ 0x20000 plainLeaf) ∧
    (aRow.lines = 1 ∧ aRow.base % 65536 + aRow.lineBytes 8 ≤ 65536 ∧ aRow.space = 0) ∧
    arrayWorks (working (.acst aTile aShape aHalf 0x3F800000) plainLeaf) :=
  ⟨⟨_, rfl, rfl, rfl, rfl, rfl, rfl, rfl⟩, rfl, ⟨_, rfl, rfl, rfl, rfl, rfl, rfl, rfl⟩, rfl, by decide, ⟨_, rfl, rfl, rfl, rfl, rfl, rfl, rfl⟩, by decide,
    fun kind h => by
      rcases List.mem_cons.mp h with rfl | h
      · exact ⟨⟨_, rfl, rfl, rfl, rfl, rfl, rfl, rfl⟩, rfl, rfl⟩
      · obtain rfl := List.mem_singleton.mp h
        exact ⟨⟨_, rfl, rfl, rfl, rfl, rfl, rfl, rfl⟩, rfl, rfl⟩,
    by decide, ⟨_, rfl, rfl, rfl, rfl, rfl, rfl, rfl⟩⟩

/-- A block of 16 elements that a cell operand is made of: the largest is 1.0 in E4M3, 0x38. -/
theorem test_witness_groups : ((List.range 16).map fun i => if i = 0 then some 0x38 else (none : Option Nat)).length = 16
    ∧ ((Fmt.e4).read 0 0x38).1 = .fin false 8 (-3) ∧ aHalf.fmt ≠ 0 ∧ aHalf.oneExp = false ∧ anInt.fmt = 0 :=
  ⟨rfl, rfl, by decide, rfl, rfl⟩

/-- Two pages of the context 0 beside each other in the TLB of core 0. -/
def twoPages (u : EngineUnit) (l : List EngineOp) : State :=
  (queued u l plainLeaf).updCore 0 fun c => { c with tlb := c.tlb ++ [⟨0, 0x20000, 65536, 0x50003, 0⟩] }

set_option maxRecDepth 8000 in
theorem test_witness_lists :
    (∃ o c, (queued (.copy 0) [anOp (.gath [0x10000] 64 4) .queued] plainLeaf).headOp (.copy 0) = some o ∧ o.core = 0
      ∧ (queued (.copy 0) [anOp (.gath [0x10000] 64 4) .queued] plainLeaf).mayWork o = true ∧ o.progress < 1
      ∧ (queued (.copy 0) [anOp (.gath [0x10000] 64 4) .queued] plainLeaf).caravan? o.caravan = some c
      ∧ (queued (.copy 0) [anOp (.gath [0x10000] 64 4) .queued] plainLeaf).meetSpan o 0x10000 4 false false = .go [(0x20000, 4)]) ∧
    (∃ o, (queued (.copy 0) [anOp (.scat [0x10000] 64 4) .queued] plainLeaf).headOp (.copy 0) = some o
      ∧ (queued (.copy 0) [anOp (.scat [0x10000] 64 4) .queued] plainLeaf).mayWork o = true
      ∧ (queued (.copy 0) [anOp (.scat [0x10000] 64 4) .queued] plainLeaf).meetSpan o 0x10000 4 true false = .go [(0x20000, 4)]) ∧
    (∃ o, (twoPages (.copy 0) [anOp (.scat [0x1FF80] 64 256) .queued]).headOp (.copy 0) = some o
      ∧ (twoPages (.copy 0) [anOp (.scat [0x1FF80] 64 256) .queued]).mayWork o = true
      ∧ (twoPages (.copy 0) [anOp (.scat [0x1FF80] 64 256) .queued]).meetSpan o 0x1FF80 256 true false = .go [(0x2FF80, 128), (0x50000, 128)]) ∧
    (∃ o, (queued (.copy 0) [anOp (.cpy 2 0x10000 0x10100 128 0) .queued] plainLeaf).headOp (.copy 0) = some o
      ∧ (queued (.copy 0) [anOp (.cpy 2 0x10000 0x10100 128 0) .queued] plainLeaf).mayWork o = true
      ∧ (queued (.copy 0) [anOp (.cpy 2 0x10000 0x10100 128 0) .queued] plainLeaf).meet o 0x10000 false false = .at_ 0x20000 plainLeaf
      ∧ (queued (.copy 0) [anOp (.cpy 2 0x10000 0x10100 128 0) .queued] plainLeaf).meet o 0x10100 true false = .at_ 0x20100 plainLeaf) ∧
    clusterOfUnit (.copy 575) < 288 :=
  ⟨⟨_, _, rfl, rfl, rfl, by decide, rfl, rfl⟩, ⟨_, rfl, rfl, rfl⟩, ⟨_, rfl, rfl, rfl⟩, ⟨_, rfl, rfl, rfl, rfl⟩, by decide⟩

/-- An append of one token of 16 BF16 channels to a fresh page, and with a link. -/
def anAppend (link : Bool) (prev : Nat) : KappReq := ⟨64, 0x10000, 256, 1, true, link, 5, 5, 5, 16, 8, 0, 0, prev⟩

/-- The header of an empty page. -/
def emptyHeader : KeyHeader := ⟨5, 5, true, 16, 0, 8, 0, 0, 0, [], []⟩

/-- An operation of the selection unit on a key page, whose memory holds some bytes at 0x20000. -/
def selecting (kind : OpKind) (l : List Byte) : State :=
  let s := queued (.selection 0) [anOp kind .queued] 0x20023
  { s with mem := Memory.writeBytes s.mem 0x20000 l }

/-- A selection without pages, and one whose table has one entry at 0x10000. -/
def aKsel (addr : Nat) : KselReq := ⟨64, 256, 1, 16, addr, 1, 1, true, 2, 0x10000⟩

set_option maxRecDepth 20000 in
theorem test_witness_selection :
    (∃ o c, (selecting (.kapp (anAppend false 0)) []).headOp (.selection 0) = some o ∧ (selecting (.kapp (anAppend false 0)) []).mayWork o = true
      ∧ (selecting (.kapp (anAppend false 0)) []).caravan? o.caravan = some c
      ∧ (selecting (.kapp (anAppend false 0)) []).meet o 0x10000 true true = .at_ 0x20000 0x20023
      ∧ 0 + (anAppend false 0).n ≤ (anAppend false 0).cap) ∧
    (anAppend true 8).prev % 65536 ≠ 0 ∧ (anAppend true 0x10000).prev % 65536 = 0 ∧
    (∃ o, (selecting (.ksel (aKsel 0x10000)) (natBytes 8 0x10000)).headOp (.selection 0) = some o
      ∧ (selecting (.ksel (aKsel 0x10000)) (natBytes 8 0x10000)).mayWork o = true ∧ ¬ (aKsel 0x10000).n ≤ o.progress
      ∧ (selecting (.ksel (aKsel 0x10000)) (natBytes 8 0x10000)).meetSpan o 0x10000 8 false false = .go [(0x20000, 8)]
      ∧ bytesNat (Memory.readBytes (selecting (.ksel (aKsel 0x10000)) (natBytes 8 0x10000)).mem 0x20000 8) = 0x10000
      ∧ (selecting (.ksel (aKsel 0x10000)) (natBytes 8 0x10000)).meetSpan o 0x10000 4096 false false = .go [(0x20000, 4096)]) ∧
    (∃ o, (selecting (.ksel (aKsel 0)) []).headOp (.selection 0) = some o ∧ (aKsel 0).addr = 0 ∧ selectPages (aKsel 0) (candidatesOf o.data) = []
      ∧ (selecting (.ksel (aKsel 0)) []).meetSpan o 0x10000 0 true false = .go []) ∧
    emptyHeader.svalid = true ∧ (([⟨0x10000, 0, 0⟩, ⟨0x20000, 0, 1⟩] : List Candidate).map fun x => x.index).Nodup ∧ (aKsel 0).top = true
      ∧ 2 ≤ (aKsel 0).limit.toNat ∧ (aKsel 0).limit.toNat ≤ 256 ∧ (aKsel 0).nq = 1 :=
  ⟨⟨_, _, rfl, rfl, rfl, rfl, by decide⟩, by decide, by decide, ⟨_, rfl, rfl, by decide, rfl, rfl, rfl⟩, ⟨_, rfl, rfl, rfl, rfl⟩,
    rfl, by decide, rfl, by decide, by decide, rfl⟩

/-- A field inside the first bytes of a list, and a field of the zeros behind them. -/
theorem field_zeros (l : List Byte) (k off n : Nat) :
    (off + n ≤ l.length → field (l ++ List.replicate k 0#8) off n = field l off n) ∧
    (l.length ≤ off → field (l ++ List.replicate k 0#8) off n = 0) := by
  have zero : ∀ j, bytesNat (List.replicate j 0#8) = 0 := fun j => by
    induction j with
    | zero => rfl
    | succ j ih => simp [List.replicate_succ, bytesNat, ih]
  constructor
  · intro h
    simp [field, List.drop_append, List.take_append, show off - l.length = 0 by omega, show n ≤ l.length - off by omega]
  · intro h
    simp [field, List.drop_append, List.drop_eq_nil_of_le h, zero]

/-- Bytes no cell of the memory lists. -/
theorem readBytes_unlisted (m : Memory) (a n : Nat) (h : ∀ x ∈ m, x.1 < a) : Memory.readBytes m a n = List.replicate n 0#8 := by
  have one : ∀ b, a ≤ b → Memory.read m b = 0#8 := fun b hb => by
    induction m with
    | nil => rfl
    | cons x m ih =>
      have := h x (by simp)
      simp [Memory.read, show x.1 ≠ b by omega, ih fun y hy => h y (by simp [hy])]
  exact List.ext_getElem (by simp [Memory.readBytes]) fun i _ _ => by simp [Memory.readBytes, one]

theorem readBytes_append (m : Memory) (a n k : Nat) :
    Memory.readBytes m a (n + k) = Memory.readBytes m a n ++ Memory.readBytes m (a + n) k := by
  simp [Memory.readBytes, List.range_add, Nat.add_assoc, Function.comp_def]

set_option maxRecDepth 20000 in
/-- Memory that holds the header of an empty page. -/
theorem test_witness_header :
    (headerOf (Memory.readBytes (Memory.writeBytes [] 0x20000 ((emptyHeader.bytes 0).take 64)) 0x20000 4096)).isSome = true := by
  generalize hm : Memory.writeBytes [] 0x20000 ((emptyHeader.bytes 0).take 64) = m
  rw [show Memory.readBytes m 0x20000 4096 = Memory.readBytes m 0x20000 64 ++ Memory.readBytes m 0x20040 4032 from
    readBytes_append m 0x20000 64 4032, readBytes_unlisted m 0x20040 4032 (by subst hm; decide)]
  generalize hl : Memory.readBytes m 0x20000 64 = l
  have len : l.length = 64 := by simp [← hl, Memory.readBytes]
  have near := fun off n (h : off + n ≤ 64) => (field_zeros l 4032 off n).1 (len ▸ h)
  have far := fun off n (h : 64 ≤ off) => (field_zeros l 4032 off n).2 (len ▸ h)
  unfold headerOf
  simp (disch := decide) only [near, far]
  rw [if_pos (by subst hl hm; decide)]
  rfl

/-- A request of one row, whose results go to the page at 0x10000. -/
def oneRow (addr : Nat) : KattReq :=
  ⟨0, 256, 1, 16, 5, true, false, false, 32, 1, 2, 5, 0, 0, 32, 0x10000, 0, 0x10040, [⟨addr, 1, 0, 0, 0, 1⟩]⟩

/-- The request at the head of the attention engine, the cluster changed so. -/
def attending (addr : Nat) (f : EngineOp → EngineOp) (g : Cluster → Cluster) : State :=
  (queued (.attention 0) [f (anOp (.katt (oneRow addr)) .running)] plainLeaf).updCluster 0 g

/-- The walk of a source in which the page at 0x10000 was unusable. -/
def aFailure : Walk := ⟨[], none, some (0x10000, 3), 0, 1, 0⟩

def heldArrays (k : Cluster) : Cluster := { k with holding := true, holdPlaced := true }

/-- The request is there, and some spans of its results can be reached. -/
def attends (s : State) : Prop := ∃ o, s.headOp (.attention 0) = some o ∧ s.mayWork o = true ∧ o.progress = 0
  ∧ s.meetSpan o 0x10000 32 true false = .go [(0x20000, 32)] ∧ s.meetSpan o 0x10040 1 true false = .go [(0x20040, 1)]
  ∧ s.meetSpan o 0x10000 4096 false false = .go [(0x20000, 4096)] ∧ s.meetSpan o 0x11000 32 false false = .go [(0x21000, 32)]

set_option maxRecDepth 8000 in
theorem test_witness_attention :
    (∃ tile, (oneRow 0x10000).tiles[0]? = some tile ∧ tile.first = 0 ∧ tile.last = 1) ∧
    attends (attending 0x10000 (fun o => o) fun k => k) ∧ ((attending 0x10000 (fun o => o) fun k => k).cluster 0).holdPlaced = false ∧
    ((attending 0x10000 (fun o => o) fun k => k).cluster 0).holding = false ∧
    Walk.done ⟨[], none, none, 0, 0, 0x10000⟩ ⟨0x10000, 1, 0, 0, 0, 1⟩ = false ∧ Walk.done ⟨[], none, none, 0, 0, 0⟩ ⟨0, 1, 0, 0, 0, 1⟩ = true ∧
    attends (attending 0x10000 (fun o => { o with walk := some aFailure }) fun k => k) ∧ aFailure.done ⟨0x10000, 1, 0, 0, 0, 1⟩ = true ∧
    ((attending 0x10000 (fun o => o) fun k => { k with holdPlaced := true }).cluster 0).holding = false ∧
    attends (attending 0x10000 (fun o => { o with source := [⟨0x10000, 1, 0, 0x1000, 5, 5⟩] }) heldArrays) ∧
    (keyBlocks [⟨0x10000, 1, 0, 0x1000, 5, 5⟩])[0]? = some ⟨⟨0x10000, 1, 0, 0x1000, 5, 5⟩, 0, 0, 1⟩ ∧
    attends (attending 0x10000 (fun o => o) heldArrays) ∧ (keyBlocks [])[0]? = none ∧ (oneRow 0).qscratch = true ∧ (oneRow 0).partialOut = false :=
  ⟨⟨_, rfl, rfl, rfl⟩, ⟨_, rfl, rfl, rfl, rfl, rfl, rfl, rfl⟩, rfl, rfl, rfl, rfl, ⟨_, rfl, rfl, rfl, rfl, rfl, rfl, rfl⟩, rfl, rfl,
    ⟨_, rfl, rfl, rfl, rfl, rfl, rfl, rfl⟩, rfl, ⟨_, rfl, rfl, rfl, rfl, rfl, rfl, rfl⟩, rfl, rfl, rfl⟩

/-- A move that has made its copy and holds the frame it freed; the ring at 0x120000 with room, or full. -/
def returning (used : Nat) : State :=
  let s := queued (.copy 0) [{ anOp (.move 0x10000 false) .running with progress := 1, pages := [(0x120000, 0x40000)] }] plainLeaf
  { s with mem := Memory.writeBytes (Memory.writeBytes s.mem 0x120000 (natBytes 8 0x130000 ++ natBytes 4 1)) 0x120018 (natBytes 8 used) }

set_option maxRecDepth 8000 in
theorem test_witness_moves :
    (∃ o, (returning 0).headOp (.copy 0) = some o ∧ (returning 0).mayWork o = true ∧ (returning 0).owed = [] ∧ o.progress = 1
      ∧ o.pages = [(0x120000, 0x40000)]) ∧ ringRoom (returning 0).mem 0x120000 = true ∧ ringRoom (returning 1).mem 0x120000 = false ∧
    demoting.owed = [] ∧ demoting.moving 0 0x10000 = false ∧ walking.owed = [] :=
  ⟨⟨_, rfl, rfl, rfl, rfl, rfl⟩, by decide, by decide, rfl, rfl, rfl⟩

/-- A doorbell of a secure context in a part whose keys are erased. -/
def silenced : State := { ringing.setContext 0 { standInContext with secure := true } with security := { ringing.security with keysPresent := false } }

set_option maxRecDepth 8000 in
theorem test_witness_silenced : (silenced.hostQueue 0).bound = true ∧ (silenced.hostQueue 0).ctx = 0 ∧ silenced.security.started = true
    ∧ silenced.ctxSecure 0 = true ∧ silenced.security.keysPresent = false := ⟨rfl, rfl, rfl, rfl, rfl⟩

/-- No thread takes part in a `qpush` or `qpop` under a mask of none; it may begin. -/
theorem test_witness_idle : ∃ w, (tasked []).curWarp = some w ∧ Ready (tasked []) w (.qpush { qf with pneg := 0, pred := 0 })
    ∧ Ready (tasked []) w (.qpop { qf with pred := 0 }) ∧ (tasked []).takes w 0 0 = 0 := ⟨_, rfl, ⟨_, rfl, rfl⟩, ⟨_, rfl, rfl⟩, by decide⟩

/-- A warp of a caravan without parties, and the traffic of a convoy whose peers are reached. -/
theorem test_witness_slots : (∃ w, (put withHandler).curWarp = some w ∧ HandlerFree w ∧ (put withHandler).usesSlot w 3 = false) ∧
    (∀ e, (collecting true).convoyEntry 0 0 = some e → ∀ p ∈ e.children, (0, p) ∉ (collecting true).fabric.down
      ∧ (collecting true).peerEntry 0 p = none) ∧ (collecting true).security.keysPresent = true :=
  ⟨⟨_, rfl, ⟨by decide, rfl⟩, rfl⟩, fun e h => by cases h; decide, rfl⟩

/-- Arguments that special functions have exact values at (127, 1/4 of a turn, 4, −2 and the least subnormal), and integers that
roundings choose of 2.5 and −2.5. -/
theorem test_witness_values :
    (let v (c : Nat) : FVal := (Fmt.f32.read 0 c).1
     Worth (v 0x42FE0000) 127 0 ∧ Worth (v 0x3E800000) 1 (-2) ∧ Worth (v 0x40800000) (2 * 2) (2 * 0) ∧ Worth (v 0x40800000) 1 (2 * 1)
       ∧ Worth (v 0xC0000000) (-1) 1 ∧ Worth (v 1) 1 (-149)) ∧
    NearestInteger 0 false 5 (-1) 2 ∧ NearestInteger 2 false 5 (-1) 3 ∧ NearestInteger 2 true 5 (-1) 2 ∧
    (∀ x ∈ [FVal.fin false 3 0, .fin true 5 0], (∀ n' m' q', FVal.fin n' m' q' = x → exceeds m' q' 5 0 = false)) := by
  refine ⟨⟨⟨_, _, _, rfl, by decide⟩, ⟨_, _, _, rfl, by decide⟩, ⟨_, _, _, rfl, by decide⟩, ⟨_, _, _, rfl, by decide⟩,
    ⟨_, _, _, rfl, by decide⟩, ⟨_, _, _, rfl, by decide⟩⟩, ⟨by decide, by decide, by decide⟩, ⟨by decide, by decide, by decide⟩,
    ⟨by decide, by decide, by decide⟩, ?_⟩
  simp [exceeds]

theorem test_witness_DecodeEncode : (Instr.subImm 5 6 0xFFF).WellFormed ∧ (Instr.vaddInteger (vf 0)).WellFormed
    ∧ decodeWords 0b0000010_000101_000110_1_111111111111#32 0 = .ok (.subImm 5 6 0xFFF) := ⟨rfl, rfl, rfl⟩

theorem test_witness_StepRunsDecoded :
    (∃ w, (State.reset.withFetchWord 32 0b0000010_000101_000110_1_111111111111).curWarp = some w
      ∧ (State.reset.withFetchWord 32 0b0000010_000101_000110_1_111111111111).agenda = []
      ∧ (State.reset.withFetchWord 32 0b0000010_000101_000110_1_111111111111).others = false ∧ w.phase = .issuing
      ∧ w.spilledRegs = false
      ∧ decodeWords w.instrWords.1 w.instrWords.2 = .ok (.subImm 5 6 0xFFF)
      ∧ ((State.reset.withFetchWord 32 0b0000010_000101_000110_1_111111111111).cluster (clusterOf w.core)).sampler.running = false) ∧
    (∃ w r, resting.curWarp = some w ∧ w.phase = .issuing ∧ decodeWords w.instrWords.1 w.instrWords.2 = .error r) ∧
    ∃ s : State, s.agenda = [.event .clockGlitch] ∧ rawOf .clockGlitch = none :=
  ⟨⟨_, rfl, rfl, rfl, rfl, rfl, rfl, rfl⟩, ⟨_, _, rfl, rfl, rfl⟩, { State.reset with agenda := [.event .clockGlitch] }, rfl, rfl⟩

theorem test_witness_MemoryStaysCanonical : Memory.wf State.reset.mem = true ∧ Memory.wf (walked plainLeaf).mem = true := ⟨rfl, rfl⟩

/-! ### Ill-formed terms: one for each check, which the check refuses -/

/-- A V-format instruction's fields with the type 2 (f32) and no second source. -/
def af : VForm := { vf 2 with va := 0x7C }

/-- An accumulator access's fields. -/
def kf : VForm := { vf 2 with va := 0x7C, vb := 0x7C, sb := 14 }

/-- TY outside its group, RM where nothing rounds, SB without a broadcast (R115, R31, R28). -/
theorem test_illformed_vector : ∀ i ∈ [Instr.vaddInteger (vf 2), .vand (vf 1), .vaddFloat (vf 0), .vclt (vf 3), .vexp2 (vf 3),
    .vqblkE4 (vf 0), .vlgmul (vf 0), .vaddInteger { vf 0 with rm := 1 }, .vnot { vf 0 with rm := 2 },
    .vaddInteger { vf 0 with sb := 3 }], ¬ i.WellFormed := by simp only [Instr.WellFormed]; decide

/-- VD past the predicates or the scalar registers, and the fields of predicate operations (R32, R136). -/
theorem test_illformed_destinations : ∀ i ∈ [Instr.vclt { vf 2 with vd := 8 }, .vradd { vf 0 with vd := 64, vb := 0x7C },
    .vrdl { vf 0 with vd := 64, vb := 0x7C }, .pand { vf 0 with vd := 8 }, .pand { vf 0 with va := 8 }, .pnot { vf 0 with vb := 1 },
    .pcnt { vf 0 with vb := 0, va := 8 }, .ptos { vf 0 with vd := 64, vb := 0 }, .pand { vf 0 with sb := 1 }, .pand { vf 0 with ty := 1 }], ¬ i.WellFormed := by simp only [Instr.WellFormed]; decide

/-- Accumulator accesses, task queues and `vcvt` (R38, R352, R124). -/
theorem test_illformed_others : ∀ i ∈ [Instr.acrd { kf with ty := 0 }, .acwr { kf with rm := 1 }, .qpush { qf with perm := 1 },
    .qpop { qf with vb := 0 }, .qpop { qf with vd := 8 }, .vcvt 12 af, .vcvt 0x20 af, .vcvt 0x22 { af with rm := 1 },
    .vcvt 0 { vf 0 with va := 0x7C, rm := 1 }], ¬ i.WellFormed := by simp only [Instr.WellFormed]; decide

/-- SZ, PATH and QUAL of an access (R33, R138, R152), and the paths of a fence (R156). -/
theorem test_illformed_memory : ∀ i ∈ [Instr.ld (mf 7 0), .ld { mf 4 0 with path := 3 }, .ld { mf 4 2 with path := 1 }, .ld (mf 4 4),
    .ld (mf 4 0x10), .st { mf 4 0 with path := 1 }, .st (mf 4 1), .lds (mf 4 8), .sts (mf 4 2), .mon (mf 5 0), .mon (mf 4 2),
    .pref (mf 4 0), .pref ⟨0, 8, 10, 0, 0, 0x7C, 0, 7, 0⟩, .atomAdd ⟨6, 4, 10, 0, 0, 0x7C, 0, 7, 0⟩, .atomAdd ⟨4, 4, 10, 1, 0, 0x7C, 0, 7, 0⟩,
    .atomsAdd ⟨4, 4, 10, 0, 6, 0x7C, 0, 7, 0⟩, .fencePath 0 0], ¬ i.WellFormed := by simp only [Instr.WellFormed]; decide

/-- Fields that an entry of the E and X formats does not use, and the selectors of `dbg` (R34, R35, R315). -/
theorem test_illformed_engines : ∀ i ∈ [Instr.prom ⟨10, 2, 0, 7⟩, .katt ⟨10, 0, 2, 7⟩, .wbld ⟨10, 12, 14, 0x40000⟩, .tblsw 0 ⟨0, 0, 0, 1⟩,
    .ksum ⟨10, 12, 2, 7⟩, .dbgSetbrk ⟨10, 0, 16, 0x1000⟩, .dbgHalt ⟨10, 0, 16, 1⟩, .dbgStep ⟨10, 0, 16, 96⟩, .dbgRdreg ⟨10, 0, 16, 6⟩,
    .dbgRdreg ⟨10, 0, 16, 0x781⟩, .trcMark ⟨2, 12, 0, 0⟩, .sampStart ⟨2, 0, 16, 0⟩, .sysTlbinv ⟨10, 12, 0, 1⟩, .sysFeat ⟨10, 0, 0, 4⟩,
    .mma { xf with ss := 1 }, .acld 1 { xf with zero := 1 }], ¬ i.WellFormed := by simp only [Instr.WellFormed]; decide

/-- An event is no instruction. -/
theorem test_illformed_event : ¬ Instr.clockGlitch.WellFormed := by simp only [Instr.WellFormed]; decide

/-! ### One step each, from the manual's examples -/

/-- A warp with some threads in its mask and v2 and v3 as given, thread by thread, and s4 at 10. -/
def vectors (mask : BitVec 96) (a b : Nat → Word) : State :=
  put fun w => ((((w.setMask (BitVec.ofInt 96 (-1))).setVector 2 0x3F a).setVector 3 0x3F b).setMask mask).setS 4 10

/-- v1 of threads 0 to 5 after an instruction, and FLAGS. -/
def after (i : Instr) (s : State) : Option (List Word × BitVec 11) :=
  match exec i s with
  | .next t => t.curWarp.map fun w => ((List.range 6).map fun th => lane (listGet [] w.vregs 1) th, w.flags)
  | _ => none

/-- The same of thread 0 alone. -/
def firstAfter (i : Instr) (a b : Word) : Option (Word × BitVec 11) :=
  (after i (vectors 1 (fun _ => a) fun _ => b)).map fun x => (x.1.getD 0 0, x.2)

/-- R117's example: *saturated* is FLAGS bit 5. -/
theorem test_vadds : firstAfter (.vadds (vf 6)) 0x7F 0x01 = some (0x7F, 0x20) := by decide

/-- R119's example. -/
theorem test_vbfe : firstAfter (.vbfe (vf 0)) 0x00003C80 (BitVec.ofNat 32 (7 + 4 * 2 ^ 8 + 2 ^ 16)) = some (0xFFFFFFF9, 0) := by decide

/-- R123's examples. -/
theorem test_vrnd_down : (firstAfter (.vrnd { vf 2 with va := 0x7C, vb := 2, rm := 3 }) 0xBF000000 0).map (fun x => x.1) = some 0xBF800000 := by
  decide

theorem test_vrnd_even : (firstAfter (.vrnd { vf 2 with va := 0x7C, vb := 2 }) 0x40200000 0).map (fun x => x.1) = some 0x40000000 := by
  decide

/-- R124's example: 0.3 into E4M3. -/
theorem test_vcvt : (firstAfter (.vcvt 8 { vf 2 with va := 0x7C, vb := 2 }) 0x3E99999A 0).map (fun x => x.1) = some 0x2A := by decide

/-- R134's example. -/
theorem test_vscan_add : (after (.vscanAdd { vf 0 with va := 2, vb := 0x7F, sb := 4 })
    (vectors 0b111011 (fun th => [3, 1, 4, 1, 5, 9].getD th 0) fun _ => 0)).map (fun x => x.1) = some [13, 14, 0, 15, 20, 29] := by decide

theorem test_vscanx_add : (after (.vscanxAdd { vf 0 with va := 2, vb := 0x7F, sb := 4 })
    (vectors 0b111011 (fun th => [3, 1, 4, 1, 5, 9].getD th 0) fun _ => 0)).map (fun x => x.1) = some [10, 13, 0, 14, 15, 20] := by decide

/-- R135's example. -/
theorem test_vpxor : firstAfter (.vpxor { vf 0 with va := 0x7C, vb := 2 }) 0x104 0 = some (0xFC, 0) := by decide

/-- R137's examples. -/
theorem test_vlgadd : firstAfter (.vlgadd (vf 7)) 0x14 0x10 = some (0x16, 0) := by decide

theorem test_vlgmul : firstAfter (.vlgmul (vf 7)) 0x14 0x10 = some (0x14, 0) := by decide

/-- R94's corners. -/
theorem test_divs_corners : (List.map (fun p : Word × Word =>
    match exec (.divsReg 5 6 7) (put fun w => (w.setS 6 p.1).setS 7 p.2) with
    | .next t => t.curWarp.map fun w => w.sreg 5
    | _ => none) [(0x80000000, 0xFFFFFFFF), (7, 0), (0xFFFFFFF9, 2)]) = [some 0x80000000, some 0xFFFFFFFF, some 0xFFFFFFFD] := by decide

/-- R152's example: each thread's atomic sees the one before it. -/
theorem test_atomic : (match exec (.atomAdd ⟨4, 1, 10, 0, 0, 0x7C, 0, 7, 0⟩)
      ({ mapped (fun w => (w.setVector 1 7 fun th => BitVec.ofNat 32 (th + 1)).setMask 7) plainLeaf with
        mem := Memory.writeBytes [] 0x20000 [10] }) with
    | .next t => t.curWarp.map fun w => ((List.range 3).map fun th => lane (listGet [] w.vregs 1) th, Memory.readWord t.mem 0x20000)
    | _ => none) = some ([10, 11, 13], 16) := by decide

/-- A system call: `trap` enters the handler with its code (R108, R163). -/
theorem test_trap : (match exec (.trap 0x12) (put withHandler) with
    | .next t => t.curWarp.map fun w => (w.tcause, w.tinfo, w.next, w.handlerActive)
    | _ => none) = some (0x0E, 0x120000, 0x100, true) := by decide

end Sys2Proof.Tests
end

section
/-! SUPPORT. The two-operand scalar instructions: what each ALU operation of R93 and R94 computes, in numbers, and the rows of their
table. -/

namespace Sys2Proof.Machine

/-! ### The operand b (R92, R93) -/

theorem immS_eq_ofInt (imm : BitVec 12) : immS imm = BitVec.ofInt 32 imm.toInt := rfl

theorem immZ_eq_ofNat (imm : BitVec 12) : immZ imm = BitVec.ofNat 32 imm.toNat := (BitVec.ofNat_toNat 32 imm).symm

theorem shiftAmount_eq_mod (y : Word) : shiftAmount y = y.toNat % 32 := by
  simp [shiftAmount]

/-! ### Sums, differences and products -/

theorem aluAdd_eq (x y : Word) : aluAdd x y = BitVec.ofNat 32 (x.toNat + y.toNat) := by
  simp [aluAdd, BitVec.ofNat_add]

theorem aluSub_eq (x y : Word) : aluSub x y = BitVec.ofInt 32 (x.toInt - y.toInt) :=
  BitVec.eq_of_toInt_eq (by rw [aluSub, BitVec.toInt_sub, BitVec.toInt_ofInt])

theorem aluMul_eq (x y : Word) : aluMul x y = BitVec.ofNat 32 (x.toNat * y.toNat) := by
  simp [aluMul, BitVec.ofNat_mul]

/-- The high half of a 64-bit pattern is that of any integer it stands for. -/
theorem high32_ofInt (p : Int) : (BitVec.ofInt 64 p).extractLsb' 32 32 = BitVec.ofInt 32 (p / 2 ^ 32) := by
  apply BitVec.eq_of_toNat_eq
  simp only [BitVec.extractLsb'_toNat, BitVec.toNat_ofInt, Nat.shiftRight_eq_div_pow]
  omega

theorem high32_ofNat (p : Nat) : (BitVec.ofNat 64 p).extractLsb' 32 32 = BitVec.ofNat 32 (p / 2 ^ 32) := by
  apply BitVec.eq_of_toNat_eq
  simp only [BitVec.extractLsb'_toNat, BitVec.toNat_ofNat, Nat.shiftRight_eq_div_pow]
  omega

theorem aluMulhs_eq (x y : Word) : aluMulhs x y = BitVec.ofInt 32 (x.toInt * y.toInt / 2 ^ 32) := by
  rw [← high32_ofInt, BitVec.ofInt_mul]; rfl

theorem aluMulhu_eq (x y : Word) : aluMulhu x y = BitVec.ofNat 32 (x.toNat * y.toNat / 2 ^ 32) := by
  rw [← high32_ofNat, BitVec.ofNat_mul, BitVec.ofNat_toNat, BitVec.ofNat_toNat]; rfl

/-! ### Division (R94) -/

/-- The case −2³¹ / −1 that R94 names wraps to −2³¹, as the quotient of integers does. -/
theorem divSigned_eq (x y : Word) :
    divSigned x y = if y = 0 then 0xFFFFFFFF else x.sdiv y := by
  unfold divSigned
  split
  · rfl
  · split
    next h => rw [h.1, h.2]; rfl
    · rfl

theorem sdiv_eq_ofInt (x y : Word) : x.sdiv y = BitVec.ofInt 32 (x.toInt.tdiv y.toInt) :=
  BitVec.eq_of_toInt_eq (by rw [BitVec.toInt_sdiv, BitVec.toInt_ofInt])

theorem aluDivs_eq (x y : Word) :
    aluDivs x y = if y = 0 then 0xFFFFFFFF else BitVec.ofInt 32 (x.toInt.tdiv y.toInt) := by
  rw [aluDivs, divSigned_eq, sdiv_eq_ofInt]

theorem udiv_eq_ofNat (x y : Word) : x / y = BitVec.ofNat 32 (x.toNat / y.toNat) := by
  rw [← BitVec.toNat_udiv, BitVec.ofNat_toNat, BitVec.setWidth_eq]

theorem aluDivu_eq (x y : Word) :
    aluDivu x y = if y = 0 then 0xFFFFFFFF else BitVec.ofNat 32 (x.toNat / y.toNat) := by
  rw [aluDivu, divUnsigned, udiv_eq_ofNat]

theorem remSigned_eq (x y : Word) :
    remSigned x y = if y = 0 then x else x - x.sdiv y * y := by
  unfold remSigned
  split
  · rfl
  · split
    next h => rw [h.1, h.2]; rfl
    · rfl

theorem aluRems_eq (x y : Word) :
    aluRems x y = if y = 0 then x else BitVec.ofInt 32 (x.toInt.tmod y.toInt) := by
  rw [aluRems, remSigned_eq]
  have hm : BitVec.ofInt 32 (x.toInt.tmod y.toInt) = x - x.sdiv y * y := by
    rw [Int.tmod_def, sub_eq_add_neg, Int.mul_comm, ← Int.neg_mul]
    simp [BitVec.ofInt_add, BitVec.ofInt_mul, sdiv_eq_ofInt, BitVec.sub_eq_add_neg, BitVec.ofInt_neg]
  rw [hm]

theorem aluRemu_eq (x y : Word) :
    aluRemu x y = if y = 0 then x else BitVec.ofNat 32 (x.toNat % y.toNat) := by
  have hm : x - x / y * y = BitVec.ofNat 32 (x.toNat % y.toNat) := by
    rw [BitVec.sub_eq_iff_eq_add]
    calc x = BitVec.ofNat 32 (x.toNat % y.toNat + x.toNat / y.toNat * y.toNat) := by
          rw [Nat.mod_add_div', BitVec.ofNat_toNat, BitVec.setWidth_eq]
      _ = BitVec.ofNat 32 (x.toNat % y.toNat) + x / y * y := by
          rw [BitVec.ofNat_add, BitVec.ofNat_mul, ← udiv_eq_ofNat, BitVec.ofNat_toNat, BitVec.setWidth_eq]
  rw [aluRemu, remUnsigned, hm]

/-! ### Shifts and the rotation -/

theorem aluShl_eq (x y : Word) : aluShl x y = BitVec.ofNat 32 (x.toNat * 2 ^ (y.toNat % 32)) := by
  apply BitVec.eq_of_toNat_eq
  simp [aluShl, shiftAmount_eq_mod, Nat.shiftLeft_eq]

theorem aluShr_eq (x y : Word) : aluShr x y = BitVec.ofNat 32 (x.toNat / 2 ^ (y.toNat % 32)) := by
  apply BitVec.eq_of_toNat_eq
  have := Nat.lt_of_le_of_lt (Nat.div_le_self x.toNat (2 ^ (y.toNat % 32))) x.isLt
  simp [aluShr, shiftAmount_eq_mod, Nat.shiftRight_eq_div_pow, Nat.mod_eq_of_lt this]

theorem aluSar_eq (x y : Word) : aluSar x y = BitVec.ofInt 32 (x.toInt / 2 ^ (y.toNat % 32)) := by
  rw [aluSar, shiftAmount_eq_mod, BitVec.sshiftRight_eq, Int.shiftRight_eq_div_pow]
  norm_cast

/-- Shifting left by `k` and bringing the bits that fall out in at the right adds them, since the two parts share no bit. -/
theorem toNat_rotateLeft_eq_add (x : Word) {k : Nat} (hk : k < 32) :
    (x.rotateLeft k).toNat = x.toNat * 2 ^ k % 2 ^ 32 + x.toNat * 2 ^ k / 2 ^ 32 := by
  have hpow : 2 ^ 32 = 2 ^ (32 - k) * 2 ^ k := by rw [← Nat.pow_add, Nat.sub_add_cancel hk.le]
  have hq : x.toNat / 2 ^ (32 - k) < 2 ^ k := Nat.div_lt_of_lt_mul (hpow ▸ x.isLt)
  rw [BitVec.toNat_rotateLeft, Nat.mod_eq_of_lt hk, Nat.shiftLeft_eq, Nat.shiftRight_eq_div_pow, hpow, Nat.mul_mod_mul_right,
    Nat.mul_div_mul_right _ _ (Nat.two_pow_pos k), ← Nat.shiftLeft_eq, Nat.shiftLeft_add_eq_or_of_lt hq]

theorem aluRol_eq (x y : Word) : aluRol x y =
    BitVec.ofNat 32 (x.toNat * 2 ^ (y.toNat % 32) + x.toNat * 2 ^ (y.toNat % 32) / 2 ^ 32) := by
  apply BitVec.eq_of_toNat_eq
  rw [aluRol, shiftAmount_eq_mod, BitVec.toNat_ofNat, ← Nat.mod_add_mod,
    ← toNat_rotateLeft_eq_add x (Nat.mod_lt _ (by decide)), Nat.mod_eq_of_lt (BitVec.isLt _)]

/-! ### Comparisons -/

/-- Where two values are equal it makes no difference which one a comparison chooses, so `<` and `≤` choose alike. -/
theorem ite_lt_eq_ite_le {α β γ : Type} [LinearOrder β] {f : α → β} (hf : f.Injective) {x y : α} {a b : γ} (h : x = y → a = b) :
    (if f x < f y then a else b) = if f x ≤ f y then a else b := by
  by_cases he : f x = f y
  · rw [h (hf he), ite_self, ite_self]
  · exact if_congr ⟨le_of_lt, fun hl => lt_of_le_of_ne hl he⟩ rfl rfl

theorem aluMin_eq (x y : Word) : aluMin x y = if x.toInt ≤ y.toInt then x else y := by
  simp only [aluMin, BitVec.slt_iff_toInt_lt]
  exact ite_lt_eq_ite_le (fun _ _ => BitVec.eq_of_toInt_eq) id

theorem aluMax_eq (x y : Word) : aluMax x y = if x.toInt ≤ y.toInt then y else x := by
  simp only [aluMax, BitVec.slt_iff_toInt_lt]
  exact ite_lt_eq_ite_le (fun _ _ => BitVec.eq_of_toInt_eq) Eq.symm

theorem aluMinu_eq (x y : Word) : aluMinu x y = if x.toNat ≤ y.toNat then x else y := by
  simp only [aluMinu, BitVec.ult_iff_toNat_lt]
  exact ite_lt_eq_ite_le BitVec.toNat_injective id

theorem aluMaxu_eq (x y : Word) : aluMaxu x y = if x.toNat ≤ y.toNat then y else x := by
  simp only [aluMaxu, BitVec.ult_iff_toNat_lt]
  exact ite_lt_eq_ite_le BitVec.toNat_injective Eq.symm

theorem aluSlt_eq (x y : Word) : aluSlt x y = if x.toInt < y.toInt then 1 else 0 := by
  simp only [aluSlt, boolWord, BitVec.slt_iff_toInt_lt]

theorem aluSltu_eq (x y : Word) : aluSltu x y = if x.toNat < y.toNat then 1 else 0 := by
  simp only [aluSltu, boolWord, BitVec.ult_iff_toNat_lt]

theorem aluSeq_eq (x y : Word) : aluSeq x y = if x = y then 1 else 0 := by
  simp only [aluSeq, boolWord, beq_iff_eq]

theorem aluSne_eq (x y : Word) : aluSne x y = if x = y then 0 else 1 := by
  simp only [aluSne, boolWord, bne_iff_ne, ite_not]

/-! ### Rows of the table -/

/-- What R92 says of one row of the table of R93: both forms complete, and SD takes `f b`, `b` being register SB in the register form
and the immediate, extended with its sign or with zeros, in the other. -/
def ScalarRow (s : State) (w : Warp) (d b : BitVec 6) (imm : BitVec 12) (p : Instr × Instr × Bool × (Word → Word)) : Prop :=
  (∃ t, exec p.1 s = .next t ∧ ScalarResult s w t d (p.2.2.2 (w.sreg b))) ∧
  ∃ t, exec p.2.1 s = .next t ∧
    ScalarResult s w t d (p.2.2.2 (if p.2.2.1 then BitVec.ofInt 32 imm.toInt else BitVec.ofNat 32 imm.toNat))

/-- The operation codes below that of `addp` name no pair and no track, so that no operand of theirs is refused (R27). -/
theorem operandsOk_alu {op : BitVec 7} (h : op.toNat < 0x1D) (sd sa : BitVec 6) (i : BitVec 1) (lo : BitVec 12) (tracks : Nat) :
    operandsOk (.s op sd sa i lo) tracks = true := by
  change sOperandsOk op.toNat sd sa i lo tracks = true
  generalize op.toNat = n at h
  interval_cases n <;> rfl

section
variable {s : State} {w : Warp} {d a b : BitVec 6} {imm : BitVec 12} {op : BitVec 7} {g : Word → Word → Word} {f : Word → Word}
  {reg im : Instr}

/-- A row whose two instructions run in the ALU frames with the operation `g`, which is the row's function of b. -/
theorem scalarRow_of_alu {ext : BitVec 12 → Word} {signed : Bool} (hw : s.curWarp = some w) (hop : op.toNat < 0x1D)
    (hext : ext imm = if signed then BitVec.ofInt 32 imm.toInt else BitVec.ofNat 32 imm.toNat) (hg : ∀ y, g (w.sreg a) y = f y)
    (hr : exec reg s = aluReg op g d a b s) (hi : exec im s = aluImm op g ext d a imm s) :
    ScalarRow s w d b imm (reg, im, signed, f) := by
  obtain rfl : g (w.sreg a) = f := funext hg
  simp only [ScalarRow, hr, hi, ← hext]
  exact ⟨aluReg_result op g d a b hw (operandsOk_alu hop ..), aluImm_result op g ext d a imm hw (operandsOk_alu hop ..)⟩

theorem scalarRow_signed (hw : s.curWarp = some w) (hg : ∀ y, g (w.sreg a) y = f y) (hr : exec reg s = aluReg op g d a b s)
    (hi : exec im s = aluImm op g immS d a imm s) (hop : op.toNat < 0x1D := by decide) :
    ScalarRow s w d b imm (reg, im, true, f) :=
  scalarRow_of_alu hw hop (immS_eq_ofInt imm) hg hr hi

theorem scalarRow_unsigned (hw : s.curWarp = some w) (hg : ∀ y, g (w.sreg a) y = f y) (hr : exec reg s = aluReg op g d a b s)
    (hi : exec im s = aluImm op g immZ d a imm s) (hop : op.toNat < 0x1D := by decide) :
    ScalarRow s w d b imm (reg, im, false, f) :=
  scalarRow_of_alu hw hop (immZ_eq_ofNat imm) hg hr hi

end

end Sys2Proof.Machine

namespace Sys2Proof

open Machine

/-- Settles O1: each row of the table runs in the ALU frames, whose operation is the row's function. -/
theorem scalarArithmetic : Obligations.ScalarArithmetic := by
  intro s w d a b imm hw x rows
  suffices h : ∀ p ∈ rows, ScalarRow s w d b imm p from h
  simp only [rows, List.forall_mem_cons, List.not_mem_nil, false_imp_iff, implies_true, and_true]
  exact ⟨
    scalarRow_signed hw (aluAdd_eq x) rfl rfl,
    scalarRow_signed hw (aluSub_eq x) rfl rfl,
    scalarRow_signed hw (aluMul_eq x) rfl rfl,
    scalarRow_signed hw (aluMulhs_eq x) rfl rfl,
    scalarRow_signed hw (aluMulhu_eq x) rfl rfl,
    scalarRow_signed hw (aluDivs_eq x) rfl rfl,
    scalarRow_signed hw (aluDivu_eq x) rfl rfl,
    scalarRow_signed hw (aluRems_eq x) rfl rfl,
    scalarRow_signed hw (aluRemu_eq x) rfl rfl,
    scalarRow_unsigned hw (fun _ => rfl) rfl rfl,
    scalarRow_unsigned hw (fun _ => rfl) rfl rfl,
    scalarRow_unsigned hw (fun _ => rfl) rfl rfl,
    scalarRow_unsigned hw (fun _ => rfl) rfl rfl,
    scalarRow_unsigned hw (aluShl_eq x) rfl rfl,
    scalarRow_unsigned hw (aluShr_eq x) rfl rfl,
    scalarRow_unsigned hw (aluSar_eq x) rfl rfl,
    scalarRow_unsigned hw (aluRol_eq x) rfl rfl,
    scalarRow_signed hw (aluMin_eq x) rfl rfl,
    scalarRow_signed hw (aluMax_eq x) rfl rfl,
    scalarRow_signed hw (aluMinu_eq x) rfl rfl,
    scalarRow_signed hw (aluMaxu_eq x) rfl rfl,
    scalarRow_signed hw (aluSlt_eq x) rfl rfl,
    scalarRow_signed hw (aluSltu_eq x) rfl rfl,
    scalarRow_signed hw (aluSeq_eq x) rfl rfl,
    scalarRow_signed hw (aluSne_eq x) rfl rfl⟩

end Sys2Proof
end

section
/-! SUPPORT. The instructions of the vector unit that run in a shared frame: what one row of an instruction table says, and that the frame
proves it (R57, R114). -/

namespace Sys2Proof.Machine

section
variable {s : State} {w : Warp} {f : VForm} {i : Instr} {op : BitVec 7} {fn : BitVec 6}

theorem ready_of_raw {r : Raw} (h : Ready s w i) (hi : rawOf i = some r) : s.ready w r = true := by
  obtain ⟨q, hq, hr⟩ := h
  rwa [Option.some.inj (hi.symm.trans hq)]

/-- One row of a table: the instruction completes, and its vector destination takes values that have a property. -/
def VectorRow (s : State) (w : Warp) (f : VForm) (fl : Nat → Flags) (i : Instr) (P : (Nat → Word) → Prop) : Prop :=
  Ready s w i → ∃ t g, exec i s = .next t ∧ VectorResult s w t f g fl ∧ P g

theorem vectorRow_plain {g : Warp → Nat → Word} {P : (Nat → Word) → Prop} (hw : s.curWarp = some w)
    (hi : rawOf i = some (.v op fn f)) (he : exec i s = vectorPlain (.v op fn f) f g s) (hP : P (g w))
    (hd : (vRoles op.toNat fn.toNat).1 = .dst ∨ (vRoles op.toNat fn.toNat).1 = .dstLocal := by decide) :
    VectorRow s w f (fun _ => 0) i P := fun hr => by
  obtain ⟨t, ht, hres⟩ := vectorPlain_result g hw (ready_of_raw hr hi) hd
  exact ⟨t, g w, he.trans ht, hres, hP⟩

theorem vectorRow_flags {g : Warp → Nat → Word × Flags} {fl : Nat → Flags} {P : (Nat → Word) → Prop} (hw : s.curWarp = some w)
    (hi : rawOf i = some (.v op fn f)) (he : exec i s = vectorOp (.v op fn f) f g s) (hfl : ∀ th, (g w th).2 = fl th)
    (hP : P fun th => (g w th).1)
    (hd : (vRoles op.toNat fn.toNat).1 = .dst ∨ (vRoles op.toNat fn.toNat).1 = .dstLocal := by decide) :
    VectorRow s w f fl i P := fun hr => by
  obtain ⟨t, ht, hres⟩ := vectorOp_result g hw (ready_of_raw hr hi) hd
  obtain rfl : (fun th => (g w th).2) = fl := funext hfl
  exact ⟨t, _, he.trans ht, hres, hP⟩

theorem gatherResult_of (g : Warp → BitVec 96 → Word) {v : Word} (hw : s.curWarp = some w) (hi : rawOf i = some (.v op fn f))
    (he : exec i s = toScalar (.v op fn f) f (fun x take => (g x take, 0)) s) (hv : g w (s.takes w f.pred f.pneg) = v)
    (hr : Ready s w i) : ∃ t, exec i s = .next t ∧ GatherResult s w t f v 0 := by
  obtain ⟨t, ht, hres⟩ := toScalar_result (fun x take => (g x take, 0)) hw (ready_of_raw hr hi)
  exact ⟨t, he.trans ht, hv ▸ hres⟩

theorem predicateRow_of {g : Warp → Nat → Bool} {v : Nat → Bool} (hw : s.curWarp = some w)
    (hi : rawOf i = some (.v op fn f)) (he : exec i s = predicateOp (.v op fn f) f (fun x th => (g x th, 0)) s)
    (hv : ∀ th, g w th = v th) (hr : Ready s w i) : ∃ t, exec i s = .next t ∧ PredicateResult s w t f v (fun _ => 0) := by
  obtain ⟨t, ht, hres⟩ := predicateOp_result (fun x th => (g x th, 0)) hw (ready_of_raw hr hi)
  obtain rfl : g w = v := funext hv
  exact ⟨t, he.trans ht, hres⟩

end

end Sys2Proof.Machine
end

section
/-! SUPPORT. Packed elements (R67): the element-wise integer operations of R117 as operations on bit vectors of the element width. -/

namespace Sys2Proof.Machine

/-- Element `k` of width `n` of a register element. -/
abbrev element (n : Nat) (x : Word) (k : Nat) : BitVec n := x.extractLsb' (n * k) n

/-! ### The word of given elements -/

/-- A sum of digits in base 2^w reads each of them back, and is bounded by the next power of the base. -/
theorem sumDigits_read (w : Nat) (g : Nat → Nat) (m : Nat) :
    (List.range m).foldl (fun acc k => acc + g k % 2 ^ w * 2 ^ (w * k)) 0 < 2 ^ (w * m) ∧
    ∀ k < m, (List.range m).foldl (fun acc k => acc + g k % 2 ^ w * 2 ^ (w * k)) 0 / 2 ^ (w * k) % 2 ^ w = g k % 2 ^ w := by
  induction m with
  | zero => simp
  | succ m ih =>
    obtain ⟨hlt, hread⟩ := ih
    simp only [List.range_succ, List.foldl_append, List.foldl_cons, List.foldl_nil]
    generalize (List.range m).foldl (fun acc k => acc + g k % 2 ^ w * 2 ^ (w * k)) 0 = x at hlt hread ⊢
    have hdigit : g m % 2 ^ w < 2 ^ w := Nat.mod_lt _ (Nat.two_pow_pos w)
    refine ⟨?_, fun k hk => ?_⟩
    · calc x + g m % 2 ^ w * 2 ^ (w * m) < (g m % 2 ^ w + 1) * 2 ^ (w * m) := by rw [Nat.add_one_mul]; omega
        _ ≤ 2 ^ w * 2 ^ (w * m) := Nat.mul_le_mul_right _ hdigit
        _ = 2 ^ (w * (m + 1)) := by rw [← Nat.pow_add]; congr 1; ring
    · rcases Nat.lt_succ_iff_lt_or_eq.mp hk with hk | rfl
      · obtain ⟨d, rfl⟩ := Nat.exists_eq_add_of_lt hk
        rw [show g (k + d + 1) % 2 ^ w * 2 ^ (w * (k + d + 1)) = 2 ^ (w * k) * (2 ^ w * (g (k + d + 1) % 2 ^ w * 2 ^ (w * d))) by ring,
          Nat.add_mul_div_left _ _ (Nat.two_pow_pos _), Nat.add_mul_mod_self_left, hread k hk]
      · rw [Nat.add_mul_div_right _ _ (Nat.two_pow_pos _), Nat.div_eq_of_lt hlt, Nat.zero_add, Nat.mod_mod]

theorem element_packWord (w : Nat) (g : Nat → Nat) {k : Nat} (hk : k < 32 / w) :
    element w (packWord w g) k = BitVec.ofNat w (g k) := by
  apply BitVec.eq_of_toNat_eq
  obtain ⟨hlt, hread⟩ := sumDigits_read w g (32 / w)
  have hfit : 2 ^ (w * (32 / w)) ≤ 2 ^ 32 := Nat.pow_le_pow_right (by decide) (Nat.mul_div_le 32 w)
  rw [element, packWord, BitVec.extractLsb'_toNat, BitVec.toNat_ofNat, Nat.mod_eq_of_lt (hlt.trans_le hfit), Nat.shiftRight_eq_div_pow,
    hread k hk, BitVec.toNat_ofNat]

/-! ### Elements as integers -/

section
variable {n : Nat} (S : Prop) [Decidable S]

/-- The integer that an element stands for, two's complement where `S` holds. -/
def intOf (x : BitVec n) : Int := if S then x.toInt else x.toNat

theorem ofInt_intOf (x : BitVec n) : BitVec.ofInt n (intOf S x) = x := by
  unfold intOf
  split
  · exact BitVec.ofInt_toInt
  · simp

theorem ofInt_add_intOf (x y : BitVec n) : BitVec.ofInt n (intOf S x + intOf S y) = x + y := by
  rw [BitVec.ofInt_add, ofInt_intOf, ofInt_intOf]

theorem ofInt_neg_intOf (x : BitVec n) : BitVec.ofInt n (-intOf S x) = -x := by rw [BitVec.ofInt_neg, ofInt_intOf]

theorem ofInt_sub_intOf (x y : BitVec n) : BitVec.ofInt n (intOf S x - intOf S y) = x - y := by
  rw [sub_eq_add_neg, BitVec.ofInt_add, ofInt_neg_intOf, ofInt_intOf, BitVec.sub_eq_add_neg]

theorem ofInt_mul_intOf (x y : BitVec n) : BitVec.ofInt n (intOf S x * intOf S y) = x * y := by
  rw [BitVec.ofInt_mul, ofInt_intOf, ofInt_intOf]

theorem intOf_le_iff (x y : BitVec n) : intOf S x ≤ intOf S y ↔ if S then x.toInt ≤ y.toInt else x.toNat ≤ y.toNat := by
  unfold intOf
  split <;> simp

theorem intOf_lt_iff (x y : BitVec n) : intOf S x < intOf S y ↔ if S then x.toInt < y.toInt else x.toNat < y.toNat := by
  unfold intOf
  split <;> simp

theorem ofInt_min_intOf (x y : BitVec n) : BitVec.ofInt n (min (intOf S x) (intOf S y)) =
    if (if S then x.toInt ≤ y.toInt else x.toNat ≤ y.toNat) then x else y := by
  rw [min_def, apply_ite (BitVec.ofInt n), ofInt_intOf, ofInt_intOf]
  exact if_congr (intOf_le_iff S x y) rfl rfl

theorem ofInt_max_intOf (x y : BitVec n) : BitVec.ofInt n (max (intOf S x) (intOf S y)) =
    if (if S then x.toInt ≤ y.toInt else x.toNat ≤ y.toNat) then y else x := by
  rw [max_def, apply_ite (BitVec.ofInt n), ofInt_intOf, ofInt_intOf]
  exact if_congr (intOf_le_iff S x y) rfl rfl

theorem ofInt_natAbs_intOf (x : BitVec n) : BitVec.ofInt n (intOf S x).natAbs = if S ∧ x.toInt < 0 then -x else x := by
  by_cases h : S ∧ x.toInt < 0
  · rw [if_pos h, intOf, if_pos h.1, Int.ofNat_natAbs_of_nonpos h.2.le, BitVec.ofInt_neg, BitVec.ofInt_toInt]
  · have h0 : 0 ≤ intOf S x := by
      unfold intOf
      split
      · exact not_lt.mp fun hx => h ⟨‹S›, hx⟩
      · exact Int.natCast_nonneg _
    rw [if_neg h, Int.natAbs_of_nonneg h0, ofInt_intOf]

theorem ofInt_mul_div_intOf (x y : BitVec n) : BitVec.ofInt n (intOf S x * intOf S y / 2 ^ n) =
    if S then BitVec.ofInt n (x.toInt * y.toInt / 2 ^ n) else BitVec.ofNat n (x.toNat * y.toNat / 2 ^ n) := by
  unfold intOf
  split
  · rfl
  · rw [← BitVec.ofInt_natCast]; push_cast; rfl

theorem ofNat_wrapInt (v : Int) : BitVec.ofNat n (wrapInt n v) = BitVec.ofInt n v := by
  apply BitVec.eq_of_toNat_eq
  have hm : wrapInt n v = (BitVec.ofInt n v).toNat := by rw [wrapInt, BitVec.toNat_ofInt]; push_cast; rfl
  rw [hm, BitVec.ofNat_toNat, BitVec.setWidth_eq]

theorem elem_eq_toNat (x : Word) (k : Nat) : elem n x k = (element n x k).toNat := by
  rw [elem, element, BitVec.extractLsb'_toNat, Nat.shiftRight_eq_div_pow]

variable {S} {sgn : Bool}

theorem elemInt_eq_intOf (hn : 0 < n) (hS : sgn = true ↔ S) (x : BitVec n) : elemInt n sgn x.toNat = intOf S x := by
  by_cases h : S
  · have hhalf : 2 ^ n = 2 * 2 ^ (n - 1) := by rw [← Nat.pow_succ', Nat.succ_eq_add_one, Nat.sub_add_cancel hn]
    rw [elemInt, hS.mpr h, Bool.true_and, intOf, if_pos h, BitVec.toInt_eq_toNat_cond]
    by_cases hx : 2 ^ (n - 1) ≤ x.toNat
    · rw [if_pos (decide_eq_true hx), if_neg (by omega)]; push_cast; rfl
    · rw [if_neg (by simpa using hx), if_pos (by omega)]
  · rw [elemInt, Bool.eq_false_iff.mpr (mt hS.mp h), intOf, if_neg h]; rfl

end

/-! ### Element-wise operations -/

theorem intWidth_cases (ty : BitVec 3) : intWidth ty = 8 ∨ intWidth ty = 16 ∨ intWidth ty = 32 := by
  unfold intWidth
  split_ifs <;> simp

theorem intWidth_pos (ty : BitVec 3) : 0 < intWidth ty := by
  rcases intWidth_cases ty with h | h | h <;> omega

theorem intSigned_iff (ty : BitVec 3) : intSigned ty = true ↔ ty = 0 ∨ ty = 5 ∨ ty = 6 := by
  simp [intSigned, or_assoc]

section
variable {ty : BitVec 3} {S : Prop} [Decidable S] (hS : intSigned ty = true ↔ S) (g : Int → Int → Int) (a b d : Word) {k : Nat}
  (hk : k < 32 / intWidth ty)
include hS hk

theorem wrapOp_element : element (intWidth ty) (wrapOp ty g a b) k = BitVec.ofInt _
    (g (intOf S (element (intWidth ty) a k)) (intOf S (element (intWidth ty) b k))) := by
  simp only [wrapOp, element_packWord _ _ hk, ofNat_wrapInt, elem_eq_toNat, elemInt_eq_intOf (intWidth_pos ty) hS]

theorem mulHighOp_element : element (intWidth ty) (mulHighOp ty a b) k = BitVec.ofInt _
    (intOf S (element (intWidth ty) a k) * intOf S (element (intWidth ty) b k) / 2 ^ intWidth ty) := by
  simp only [mulHighOp, element_packWord _ _ hk, ofNat_wrapInt, elem_eq_toNat, elemInt_eq_intOf (intWidth_pos ty) hS]

omit hS in
theorem madOp_element : element (intWidth ty) (madOp ty a b d) k =
    element (intWidth ty) a k * element (intWidth ty) b k + element (intWidth ty) d k := by
  simp only [madOp, element_packWord _ _ hk, elem_eq_toNat, BitVec.ofNat_add, BitVec.ofNat_mul, BitVec.ofNat_toNat,
    BitVec.setWidth_eq]

end

end Sys2Proof.Machine
end

section
/-! SUPPORT. The rows of the integer arithmetic table of R117. -/

namespace Sys2Proof.Machine

section
variable {s : State} {w : Warp} {f : VForm} {i : Instr} {fn : BitVec 6}

/-- An operation on an element of A, of B and of the old destination. -/
abbrev ElementOp (n : Nat) : Type := BitVec n → BitVec n → BitVec n → BitVec n

/-- Element by element, values that an operation makes of A, B and the old destination. -/
def ElementWise (s : State) (w : Warp) (f : VForm) (op : ElementOp (intWidth f.ty)) (g : Nat → Word) : Prop :=
  ∀ th k, k < 32 / intWidth f.ty → element (intWidth f.ty) (g th) k =
    op (element _ (s.opA w f th) k) (element _ (s.opB w f th) k) (element _ (s.opD w f th) k)

/-- A row whose instruction wraps the integer result `G` of A and B. -/
theorem vectorRow_wrapOp (G : Int → Int → Int) {S : Prop} [Decidable S] (hS : intSigned f.ty = true ↔ S)
    {op : ElementOp (intWidth f.ty)} (hw : s.curWarp = some w)
    (hG : ∀ x y z, BitVec.ofInt _ (G (intOf S x) (intOf S y)) = op x y z) (hi : rawOf i = some (.v 0x41 fn f))
    (he : exec i s = vectorPlain (.v 0x41 fn f) f (fun x th => wrapOp f.ty G (s.opA x f th) (s.opB x f th)) s) :
    VectorRow s w f (fun _ => 0) i (ElementWise s w f op) :=
  vectorRow_plain hw hi he (fun _ _ hk => (wrapOp_element hS G _ _ hk).trans (hG ..)) (.inl rfl)

/-- A row whose instruction wraps the integer result `G` of B alone. -/
theorem vectorRow_wrapOp_unary (G : Int → Int) {S : Prop} [Decidable S] (hS : intSigned f.ty = true ↔ S)
    {op : BitVec (intWidth f.ty) → BitVec (intWidth f.ty)} (hw : s.curWarp = some w)
    (hG : ∀ y, BitVec.ofInt _ (G (intOf S y)) = op y) (hi : rawOf i = some (.v 0x41 fn f))
    (he : exec i s = vectorPlain (.v 0x41 fn f) f (fun x th => wrapOp f.ty (fun _ b => G b) 0 (s.opB x f th)) s) :
    VectorRow s w f (fun _ => 0) i (ElementWise s w f fun _ y _ => op y) :=
  vectorRow_plain hw hi he (fun _ _ hk => (wrapOp_element hS _ _ _ hk).trans (hG _)) (.inl rfl)

end

/-! ### Saturation (R67) -/

/-- The least and the greatest integer of an element format. -/
def lowestInt (n : Nat) (S : Prop) [Decidable S] : Int := if S then -2 ^ (n - 1) else 0
def highestInt (n : Nat) (S : Prop) [Decidable S] : Int := if S then 2 ^ (n - 1) - 1 else 2 ^ n - 1

section
variable {n : Nat} {S : Prop} [Decidable S]

theorem lowestInt_le_highestInt : lowestInt n S ≤ highestInt n S := by
  have h1 : (0 : Int) < 2 ^ (n - 1) := by positivity
  have h2 : (0 : Int) < 2 ^ n := by positivity
  unfold lowestInt highestInt
  split <;> omega

theorem intOf_ofInt (hn : 0 < n) {v : Int} (hl : lowestInt n S ≤ v) (hh : v ≤ highestInt n S) : intOf S (BitVec.ofInt n v) = v := by
  unfold lowestInt at hl
  unfold highestInt at hh
  unfold intOf
  have hhalf : (2 : Int) ^ n = 2 * 2 ^ (n - 1) := by rw [← pow_succ', Nat.sub_add_cancel hn]
  split at hl
  · rw [if_pos ‹S›, BitVec.toInt_ofInt]
    rw [if_pos ‹S›] at hh
    exact Int.bmod_eq_of_le_mul_two (by push_cast; omega) (by push_cast; omega)
  · rw [if_neg ‹¬S›, BitVec.toNat_ofInt]
    rw [if_neg ‹¬S›] at hh
    push_cast
    rw [Int.emod_eq_of_lt hl (by omega), Int.toNat_of_nonneg hl]

section
variable {sgn : Bool} (hS : sgn = true ↔ S) (v : Int)
include hS

theorem clampInt_eq : clampInt n sgn v =
    if v < lowestInt n S then (wrapInt n (lowestInt n S), true)
    else if highestInt n S < v then (wrapInt n (highestInt n S), true) else (wrapInt n v, false) := by
  have hl : (if sgn = true then -(2 ^ (n - 1) : Int) else 0) = lowestInt n S := if_congr hS rfl rfl
  have hh : (if sgn = true then (2 ^ (n - 1) : Int) - 1 else 2 ^ n - 1) = highestInt n S := if_congr hS rfl rfl
  simp only [clampInt, hl, hh]

theorem clampInt_fst :
    BitVec.ofNat n (clampInt n sgn v).1 = BitVec.ofInt n (max (lowestInt n S) (min (highestInt n S) v)) := by
  have hle := lowestInt_le_highestInt (n := n) (S := S)
  rw [clampInt_eq hS]
  split_ifs with hlow hhigh
  · rw [ofNat_wrapInt, max_eq_left (by omega)]
  · rw [ofNat_wrapInt, min_eq_left hhigh.le, max_eq_right hle]
  · rw [ofNat_wrapInt, min_eq_right (by omega), max_eq_right (by omega)]

theorem clampInt_snd : (clampInt n sgn v).2 = true ↔ v < lowestInt n S ∨ highestInt n S < v := by
  rw [clampInt_eq hS]
  split_ifs with hlow hhigh <;> simp [*]

end

end

/-- The exact result of element `k` (R67). -/
def exactElement (ty : BitVec 3) (S : Prop) [Decidable S] (g : Int → Int → Int) (a b : Word) (k : Nat) : Int :=
  g (intOf S (element (intWidth ty) a k)) (intOf S (element (intWidth ty) b k))

/-- The exact result of element `k` lies outside the range of its format. -/
abbrev Clamped (ty : BitVec 3) (S : Prop) [Decidable S] (g : Int → Int → Int) (a b : Word) (k : Nat) : Prop :=
  exactElement ty S g a b k < lowestInt (intWidth ty) S ∨ highestInt (intWidth ty) S < exactElement ty S g a b k

section
variable {ty : BitVec 3} {S : Prop} [Decidable S] (hS : intSigned ty = true ↔ S) (g : Int → Int → Int) (a b : Word)
include hS

theorem satOp_element {k : Nat} (hk : k < 32 / intWidth ty) :
    intOf S (element (intWidth ty) (satOp ty g a b).1 k) =
      max (lowestInt (intWidth ty) S) (min (highestInt (intWidth ty) S) (exactElement ty S g a b k)) := by
  have hn := intWidth_pos ty
  simp only [satOp, element_packWord _ _ hk, elem_eq_toNat, elemInt_eq_intOf hn hS, clampInt_fst hS]
  exact intOf_ofInt hn (le_max_left ..) (max_le lowestInt_le_highestInt (min_le_left ..))

theorem satOp_flags :
    (satOp ty g a b).2 = if ∃ k < 32 / intWidth ty, Clamped ty S g a b k then 0x20 else 0 := by
  simp only [satOp, flagIf, elem_eq_toNat, elemInt_eq_intOf (intWidth_pos ty) hS]
  refine if_congr ?_ rfl rfl
  simp only [List.any_eq_true, List.mem_range, clampInt_snd hS]
  rfl

end

/-- A row whose instruction clamps the exact integer result `G` of A and B. -/
theorem vectorRow_satOp (G : Int → Int → Int) {s : State} {w : Warp} {f : VForm} {i : Instr} {fn : BitVec 6} {S : Prop} [Decidable S]
    (hS : intSigned f.ty = true ↔ S) (hw : s.curWarp = some w) (hi : rawOf i = some (.v 0x41 fn f))
    (he : exec i s = vectorOp (.v 0x41 fn f) f (fun x th => satOp f.ty G (s.opA x f th) (s.opB x f th)) s) :
    VectorRow s w f (fun th => if ∃ k < 32 / intWidth f.ty, Clamped f.ty S G (s.opA w f th) (s.opB w f th) k then 0x20 else 0) i fun g =>
      ∀ th k, k < 32 / intWidth f.ty → intOf S (element (intWidth f.ty) (g th) k) =
        max (lowestInt (intWidth f.ty) S) (min (highestInt (intWidth f.ty) S) (exactElement f.ty S G (s.opA w f th) (s.opB w f th) k)) :=
  vectorRow_flags hw hi he (fun _ => satOp_flags hS G _ _) (fun _ _ hk => satOp_element hS G _ _ hk) (.inl rfl)

end Sys2Proof.Machine

namespace Sys2Proof

open Machine

/-- Settles O10: the wrapping operations element by element as operations of R117 on bit vectors, and the saturating ones through the
clamp of R67. -/
theorem vectorInteger : Obligations.VectorInteger := by
  constructor <;> intro s w f hw n signed
  · intro rows
    suffices h : ∀ p ∈ rows, VectorRow s w f (fun _ => 0) p.1 (ElementWise s w f p.2) from h
    have hS : intSigned f.ty = true ↔ signed := intSigned_iff f.ty
    simp only [rows, List.forall_mem_cons, List.not_mem_nil, false_imp_iff, implies_true, and_true]
    exact ⟨
      vectorRow_wrapOp (· + ·) hS hw (fun _ _ _ => ofInt_add_intOf signed ..) rfl rfl,
      vectorRow_wrapOp (· - ·) hS hw (fun _ _ _ => ofInt_sub_intOf signed ..) rfl rfl,
      vectorRow_wrapOp (· * ·) hS hw (fun _ _ _ => ofInt_mul_intOf signed ..) rfl rfl,
      vectorRow_plain hw rfl rfl (fun _ _ hk => (mulHighOp_element hS _ _ hk).trans (ofInt_mul_div_intOf signed ..)),
      vectorRow_plain hw rfl rfl (fun _ _ hk => madOp_element _ _ _ hk),
      vectorRow_wrapOp min hS hw (fun _ _ _ => ofInt_min_intOf signed ..) rfl rfl,
      vectorRow_wrapOp max hS hw (fun _ _ _ => ofInt_max_intOf signed ..) rfl rfl,
      vectorRow_wrapOp_unary (fun b => b.natAbs) hS hw (ofInt_natAbs_intOf signed) rfl rfl,
      vectorRow_wrapOp_unary (fun b => -b) hS hw (ofInt_neg_intOf signed) rfl rfl⟩
  · intro low high value
    have hS : intSigned f.ty = true ↔ signed = true := (intSigned_iff f.ty).trans decide_eq_true_iff.symm
    simp only [List.forall_mem_cons, List.not_mem_nil, false_imp_iff, implies_true, and_true]
    exact ⟨vectorRow_satOp (· + ·) hS hw rfl rfl, vectorRow_satOp (· - ·) hS hw rfl rfl⟩

end Sys2Proof
end

section
/-! SUPPORT. The bit operations of R118 and R119, and the rows of the logic and move tables. -/

namespace Sys2Proof.Machine

/-! ### Counting and reversing bits -/

theorem getLsbD_wordOf (f : Nat → Bool) {i : Nat} (h : i < 32) : (wordOf f).getLsbD i = f i := by
  rw [wordOf, BitVec.getLsbD_ofNat, (sumBits_testBit f 32).2 i h, decide_eq_true h, Bool.true_and]

theorem reverseBits_eq (x : Word) : reverseBits x = x.reverse := by
  refine BitVec.eq_of_getLsbD_eq fun i hi => ?_
  rw [reverseBits, getLsbD_wordOf _ hi, BitVec.getLsbD_reverse, BitVec.getMsbD, decide_eq_true hi, Bool.true_and]

theorem leadingZeros_eq (x : Word) : leadingZeros x = x.clz := by
  unfold leadingZeros
  split
  · subst_vars; rfl
  · have hx : x.toNat ≠ 0 := fun h => ‹¬x = 0› (BitVec.eq_of_toNat_eq h)
    have htop := Nat.ge_two_pow_of_testBit (BitVec.getLsbD_true_clz_of_ne_zero (x := x) (by decide) ‹¬x = 0›)
    have hlt := BitVec.toNat_lt_two_pow_sub_clz (x := x)
    have hne : x.clz.toNat < 32 := by
      by_contra h
      rw [Nat.sub_eq_zero_of_le (by omega)] at hlt
      omega
    have hlog : x.toNat.log2 = 31 - x.clz.toNat :=
      (Nat.log2_eq_iff hx).mpr ⟨htop, by rwa [show 31 - x.clz.toNat + 1 = 32 - x.clz.toNat by omega]⟩
    rw [hlog, show 31 - (31 - x.clz.toNat) = x.clz.toNat by omega, BitVec.ofNat_toNat, BitVec.setWidth_eq]

/-- Counting from the lowest bit up and from the highest down gives the same number. -/
theorem cpopNatRec_eq_foldl (x : Word) (n : Nat) :
    x.cpopNatRec n 0 = (List.range n).foldl (fun c i => c + if x.getLsbD i then 1 else 0) 0 := by
  induction n with
  | zero => rfl
  | succ n ih =>
    rw [BitVec.cpopNatRec_succ, BitVec.cpopNatRec_eq, ih, List.range_succ, List.foldl_append, List.foldl_cons, List.foldl_nil,
      Nat.zero_add, Bool.toNat]
    cases x.getLsbD n <;> rfl

theorem oneBits_eq (x : Word) : oneBits x = x.cpop := by
  rw [oneBits, BitVec.cpop, cpopNatRec_eq_foldl]

/-! ### Bit fields (R119) -/

/-- The position and the length of the field that a control word names. -/
def fieldPos (b : Word) : Nat := b.toNat % 32
def fieldLen (b : Word) : Nat := min (b.toNat / 2 ^ 8 % 64) (32 - fieldPos b)

theorem fieldPos_add_fieldLen (b : Word) : fieldPos b + fieldLen b ≤ 32 := by
  unfold fieldLen fieldPos; omega

/-- The field as a number. -/
def fieldNat (a b : Word) : Nat := a.toNat / 2 ^ fieldPos b % 2 ^ fieldLen b

theorem testBit_fieldNat (a b : Word) (i : Nat) :
    (fieldNat a b).testBit i = (decide (i < fieldLen b) && a.getLsbD (fieldPos b + i)) := by
  rw [fieldNat, Nat.testBit_mod_two_pow, Nat.testBit_div_two_pow, Nat.add_comm]; rfl

theorem fieldNat_lt (a b : Word) : fieldNat a b < 2 ^ fieldLen b := Nat.mod_lt _ (Nat.two_pow_pos _)

/-- The top bit of the field is its last bit of A. -/
theorem half_le_fieldNat_iff (a b : Word) (hn : 0 < fieldLen b) :
    2 ^ (fieldLen b - 1) ≤ fieldNat a b ↔ a.getLsbD (fieldPos b + fieldLen b - 1) = true := by
  have hbit : (fieldNat a b).testBit (fieldLen b - 1) = a.getLsbD (fieldPos b + fieldLen b - 1) := by
    rw [testBit_fieldNat, decide_eq_true (by omega), Bool.true_and, Nat.add_sub_assoc hn]
  rw [← hbit]
  refine ⟨fun h => Nat.testBit_of_two_pow_le_and_two_pow_add_one_gt h ?_, Nat.ge_two_pow_of_testBit⟩
  rw [Nat.sub_add_cancel hn]
  exact fieldNat_lt a b

theorem bitField_eq (a b : Word) : bitField a b =
    if fieldLen b = 0 then 0
    else if (b.getLsbD 16 && decide (2 ^ (fieldLen b - 1) ≤ fieldNat a b)) = true
      then BitVec.ofNat 32 (fieldNat a b + (2 ^ 32 - 2 ^ fieldLen b))
    else BitVec.ofNat 32 (fieldNat a b) := by
  have hpos : (b.extractLsb' 0 5).toNat = fieldPos b := by simp [fieldPos]
  have hlen : (b.extractLsb' 8 6).toNat = b.toNat / 2 ^ 8 % 64 := by simp [Nat.shiftRight_eq_div_pow]
  simp only [bitField, hpos, hlen]
  rfl

theorem getLsbD_bitField (a b : Word) {i : Nat} (hi : i < 32) : (bitField a b).getLsbD i =
    if i < fieldLen b then a.getLsbD (fieldPos b + i)
    else b.getLsbD 16 && decide (0 < fieldLen b) && a.getLsbD (fieldPos b + fieldLen b - 1) := by
  rw [bitField_eq]
  by_cases hn : fieldLen b = 0
  · simp [hn]
  have hpos : 0 < fieldLen b := Nat.pos_of_ne_zero hn
  rw [if_neg hn, decide_eq_true hpos, Bool.and_true]
  simp only [half_le_fieldNat_iff a b hpos, Bool.decide_eq_true]
  by_cases hsign : (b.getLsbD 16 && a.getLsbD (fieldPos b + fieldLen b - 1)) = true
  · have hle : fieldLen b ≤ 32 := by have := fieldPos_add_fieldLen b; omega
    have hones : fieldNat a b + (2 ^ 32 - 2 ^ fieldLen b) = 2 ^ fieldLen b * (2 ^ (32 - fieldLen b) - 1) + fieldNat a b := by
      rw [Nat.mul_sub_one, ← Nat.pow_add, Nat.add_sub_cancel' hle, Nat.add_comm]
    rw [if_pos hsign, hsign, hones, BitVec.getLsbD_ofNat, Nat.testBit_two_pow_mul_add _ (fieldNat_lt a b),
      Nat.testBit_two_pow_sub_one, testBit_fieldNat, decide_eq_true hi, Bool.true_and]
    by_cases hin : i < fieldLen b
    · simp only [if_pos hin, decide_eq_true hin, Bool.true_and]
    · rw [if_neg hin, if_neg hin, decide_eq_true (by omega)]
  · rw [if_neg hsign, Bool.eq_false_iff.mpr hsign, BitVec.getLsbD_ofNat, testBit_fieldNat, decide_eq_true hi, Bool.true_and]
    by_cases hin : i < fieldLen b
    · rw [if_pos hin, decide_eq_true hin, Bool.true_and]
    · rw [if_neg hin, decide_eq_false hin, Bool.false_and]

/-! ### Operands of a move -/

/-- The low three bits of a field name a predicate (R32). -/
theorem extractLsb'_three {n : Nat} (x : BitVec n) : (x.extractLsb' 0 3).toNat = x.toNat % 8 := by
  simp [BitVec.extractLsb'_toNat]

theorem lowestThread_eq (m : BitVec 96) : lowestThread m = ((List.range 96).find? fun th => m.getLsbD th).getD 0 := by
  rw [lowestThread, threadsOf, List.headD_eq_head?_getD, List.head?_filter]

end Sys2Proof.Machine

namespace Sys2Proof

open Machine

/-- Settles O11: each row runs in the plain frame of a vector destination, with the bit operation of the row. -/
theorem vectorWords : Obligations.VectorWords := by
  intro s w f hw a b lowest rows
  refine ⟨?_, ?_⟩
  · suffices h : ∀ p ∈ rows, VectorRow s w f (fun _ => 0) p.1 (fun g => ∀ th < 96, g th = p.2 th) from h
    simp only [rows, List.forall_mem_cons, List.not_mem_nil, false_imp_iff, implies_true, and_true]
    exact ⟨
      vectorRow_plain hw rfl rfl fun _ _ => rfl,
      vectorRow_plain hw rfl rfl fun _ _ => rfl,
      vectorRow_plain hw rfl rfl fun _ _ => rfl,
      vectorRow_plain hw rfl rfl fun _ _ => rfl,
      vectorRow_plain hw rfl rfl fun _ _ => rfl,
      vectorRow_plain hw rfl rfl fun _ _ => congrArg (_ <<< ·) (shiftAmount_eq_mod _),
      vectorRow_plain hw rfl rfl fun _ _ => congrArg (_ >>> ·) (shiftAmount_eq_mod _),
      vectorRow_plain hw rfl rfl fun _ _ => congrArg (BitVec.sshiftRight _) (shiftAmount_eq_mod _),
      vectorRow_plain hw rfl rfl fun _ _ => congrArg (BitVec.rotateLeft _) (shiftAmount_eq_mod _),
      vectorRow_plain hw rfl rfl fun _ _ => leadingZeros_eq _,
      vectorRow_plain hw rfl rfl fun _ _ => oneBits_eq _,
      vectorRow_plain hw rfl rfl fun _ _ => reverseBits_eq _,
      vectorRow_plain hw rfl rfl fun _ _ => rfl,
      vectorRow_plain hw rfl rfl fun th _ => by simp only [extractLsb'_three]; rfl,
      vectorRow_plain hw rfl rfl fun _ _ => congrArg a (lowestThread_eq _),
      vectorRow_plain hw rfl rfl fun _ _ => rfl⟩
  · exact vectorRow_plain hw rfl rfl fun _ _ hi => getLsbD_bitField _ _ hi

end Sys2Proof
end

section
/-! SUPPORT. Folds over the threads that take part: the integer reductions of R132 and the integer scans of R134. -/

namespace Sys2Proof.Machine

/-! ### The threads of a mask -/

theorem threadsOf_ne_nil {m : BitVec 96} (h : m ≠ 0) : threadsOf m ≠ [] := fun hnil => h <| by
  refine BitVec.eq_of_getLsbD_eq fun t ht => ?_
  have := List.filter_eq_nil_iff.mp hnil t (List.mem_range.mpr ht)
  rw [Bool.eq_false_iff.mpr this]
  simp

/-- A thread of a mask stands in the list of its threads behind those below it. -/
theorem threadsOf_split {m : BitVec 96} {t : Nat} (ht : t < 96) (hm : m.getLsbD t = true) :
    ∃ post, threadsOf m = ((List.range t).filter fun u => m.getLsbD u) ++ t :: post := by
  obtain ⟨d, hd⟩ := Nat.exists_eq_add_of_lt ht
  refine ⟨((List.range d).map (t + 1 + ·)).filter fun u => m.getLsbD u, ?_⟩
  have hrange : List.range 96 = List.range t ++ t :: (List.range d).map (t + 1 + ·) := by
    rw [hd, Nat.add_right_comm, List.range_add, List.range_succ, List.append_assoc, List.singleton_append]
  rw [threadsOf, hrange, List.filter_append, List.filter_cons_of_pos hm]

/-! ### Reductions -/

section
variable {m : BitVec 96} {a : Nat → Word} {g : Word → Word → Word}

theorem reduceWith_cons {t : Nat} {rest : List Nat} (h : threadsOf m = t :: rest) :
    reduceWith m a g = rest.foldl (fun acc u => g acc (a u)) (a t) := by
  rw [reduceWith, h]

/-- A reduction is a fold from the identity of its operation. -/
theorem reduceWith_eq_foldl (hm : m ≠ 0) (e : Word) (he : ∀ x, g e x = x) :
    reduceWith m a g = (threadsOf m).foldl (fun acc u => g acc (a u)) e := by
  obtain ⟨t, rest, h⟩ := List.exists_cons_of_ne_nil (threadsOf_ne_nil hm)
  rw [reduceWith_cons h, h, List.foldl_cons, he]

theorem reduceWith_add (hm : m ≠ 0) :
    reduceWith m a (· + ·) = BitVec.ofNat 32 ((threadsOf m).map fun u => (a u).toNat).sum := by
  rw [reduceWith_eq_foldl hm 0 BitVec.zero_add, List.sum_eq_foldl, List.foldl_map]
  exact List.foldl_hom (BitVec.ofNat 32) fun x u => by rw [BitVec.ofNat_add, BitVec.ofNat_toNat, BitVec.setWidth_eq]

/-- A bit of a fold of bitwise operations is the fold of the bits. -/
theorem getLsbD_reduceWith (hm : m ≠ 0) (e : Word) (he : ∀ x, g e x = x) {i : Nat} {op : Bool → Bool → Bool}
    (hop : ∀ x y, (g x y).getLsbD i = op (x.getLsbD i) (y.getLsbD i)) : (reduceWith m a g).getLsbD i =
      (threadsOf m).foldl (fun c u => op c ((a u).getLsbD i)) (e.getLsbD i) := by
  rw [reduceWith_eq_foldl hm e he]
  exact (List.foldl_hom (fun x : Word => x.getLsbD i) fun x u => (hop x (a u)).symm).symm

end

section
variable {α : Type} (l : List α) (p : α → Bool) (c : Bool)

theorem foldl_and_eq_all : l.foldl (fun c u => c && p u) c = (c && l.all p) := by
  induction l generalizing c with
  | nil => simp
  | cons u l ih => rw [List.foldl_cons, ih, List.all_cons, Bool.and_assoc]

theorem foldl_or_eq_any : l.foldl (fun c u => c || p u) c = (c || l.any p) := by
  induction l generalizing c with
  | nil => simp
  | cons u l ih => rw [List.foldl_cons, ih, List.any_cons, Bool.or_assoc]

/-- An exclusive or over a list says whether an odd number of its members hold. -/
theorem foldl_xor_eq_parity : l.foldl (fun c u => c ^^ p u) c = (c ^^ decide (l.countP p % 2 = 1)) := by
  induction l generalizing c with
  | nil => simp
  | cons u l ih =>
    rw [List.foldl_cons, ih, List.countP_cons, Bool.xor_assoc]
    cases p u
    · simp
    · congr 1
      rcases Nat.mod_two_eq_zero_or_one (l.countP p) with h | h <;> simp [h, Nat.add_mod]

end

section
variable {m : BitVec 96} (a : Nat → Word) {i : Nat} (hm : m ≠ 0)
include hm

theorem getLsbD_reduceWith_and (hi : i < 32) :
    (reduceWith m a (· &&& ·)).getLsbD i = (threadsOf m).all fun u => (a u).getLsbD i := by
  rw [getLsbD_reduceWith hm (BitVec.allOnes 32) (fun _ => BitVec.allOnes_and) fun _ _ => BitVec.getLsbD_and, foldl_and_eq_all,
    BitVec.getLsbD_allOnes, decide_eq_true hi, Bool.true_and]

theorem getLsbD_reduceWith_or : (reduceWith m a (· ||| ·)).getLsbD i = (threadsOf m).any fun u => (a u).getLsbD i := by
  rw [getLsbD_reduceWith hm 0 (fun _ => BitVec.zero_or) fun _ _ => BitVec.getLsbD_or, foldl_or_eq_any]
  exact (congrArg (· || _) BitVec.getLsbD_zero).trans (Bool.false_or _)

theorem getLsbD_reduceWith_xor :
    (reduceWith m a (· ^^^ ·)).getLsbD i = decide ((threadsOf m).countP (fun u => (a u).getLsbD i) % 2 = 1) := by
  rw [getLsbD_reduceWith hm 0 (fun _ => BitVec.zero_xor) fun _ _ => BitVec.getLsbD_xor, foldl_xor_eq_parity]
  exact (congrArg (· ^^ _) BitVec.getLsbD_zero).trans (Bool.false_xor _)

end

/-! ### The least and the greatest -/

theorem intLess_iff (ty : BitVec 3) (x y : Word) : intLess ty x y = true ↔ intOf (ty = 0) x < intOf (ty = 0) y := by
  unfold intLess intOf
  split
  · exact BitVec.slt_iff_toInt_lt
  · rw [BitVec.ult_iff_toNat_lt, Nat.cast_lt]

section
variable {r : Word → Word → Prop} (hrefl : ∀ x, r x x) (htrans : ∀ x y z, r x y → r y z → r x z) {g : Word → Word → Word}
  (hg : ∀ x y, (g x y = x ∧ r x y) ∨ (g x y = y ∧ r y x))
include hrefl htrans hg

/-- A fold that keeps one of its two operands, that which stands first in a preorder, comes to a member that stands before all of them. -/
theorem foldl_select (a : Nat → Word) (l : List Nat) (x : Word) :
    (l.foldl (fun acc u => g acc (a u)) x = x ∨ ∃ u ∈ l, l.foldl (fun acc u => g acc (a u)) x = a u) ∧
    r (l.foldl (fun acc u => g acc (a u)) x) x ∧ ∀ u ∈ l, r (l.foldl (fun acc u => g acc (a u)) x) (a u) := by
  induction l generalizing x with
  | nil => exact ⟨.inl rfl, hrefl x, by simp⟩
  | cons u l ih =>
    obtain ⟨hmem, hx, hl⟩ := ih (g x (a u))
    rw [List.foldl_cons]
    generalize l.foldl (fun acc u => g acc (a u)) (g x (a u)) = v at hmem hx hl ⊢
    simp only [List.forall_mem_cons, List.exists_mem_cons_iff]
    rcases hg x (a u) with ⟨he, hr⟩ | ⟨he, hr⟩ <;> rw [he] at hmem hx
    · exact ⟨hmem.imp_right .inr, hx, htrans _ _ _ hx hr, hl⟩
    · exact ⟨.inr hmem, htrans _ _ _ hx hr, hx, hl⟩

theorem reduceWith_select {m : BitVec 96} {a : Nat → Word} (hm : m ≠ 0) :
    (∃ u ∈ threadsOf m, reduceWith m a g = a u) ∧ ∀ u ∈ threadsOf m, r (reduceWith m a g) (a u) := by
  obtain ⟨t, rest, h⟩ := List.exists_cons_of_ne_nil (threadsOf_ne_nil hm)
  obtain ⟨hmem, hx, hl⟩ := foldl_select hrefl htrans hg a rest (a t)
  rw [reduceWith_cons h, h, List.forall_mem_cons, List.exists_mem_cons_iff]
  exact ⟨hmem, hx, hl⟩

end

/-- The operations of `vrmin` and `vrmax`. -/
def lesser (ty : BitVec 3) (x y : Word) : Word := if intLess ty x y then x else y
def greater (ty : BitVec 3) (x y : Word) : Word := if intLess ty x y then y else x

theorem reduceWith_lesser (ty : BitVec 3) {m : BitVec 96} {a : Nat → Word} (hm : m ≠ 0) :
    (∃ u ∈ threadsOf m, reduceWith m a (lesser ty) = a u) ∧
    ∀ u ∈ threadsOf m, intOf (ty = 0) (reduceWith m a (lesser ty)) ≤ intOf (ty = 0) (a u) := by
  refine reduceWith_select (r := fun x y => intOf (ty = 0) x ≤ intOf (ty = 0) y) (fun _ => le_rfl) (fun _ _ _ => le_trans)
    (fun x y => ?_) hm
  simp only [lesser, intLess_iff]
  split
  · exact .inl ⟨rfl, ‹_ < _›.le⟩
  · exact .inr ⟨rfl, not_lt.mp ‹_›⟩

theorem reduceWith_greater (ty : BitVec 3) {m : BitVec 96} {a : Nat → Word} (hm : m ≠ 0) :
    (∃ u ∈ threadsOf m, reduceWith m a (greater ty) = a u) ∧
    ∀ u ∈ threadsOf m, intOf (ty = 0) (a u) ≤ intOf (ty = 0) (reduceWith m a (greater ty)) := by
  refine reduceWith_select (r := fun x y => intOf (ty = 0) y ≤ intOf (ty = 0) x) (fun _ => le_rfl) (fun _ _ _ => ge_trans)
    (fun x y => ?_) hm
  simp only [greater, intLess_iff]
  split
  · exact .inr ⟨rfl, ‹_ < _›.le⟩
  · exact .inl ⟨rfl, not_lt.mp ‹_›⟩

/-- One row of a table: the instruction completes, and its scalar destination takes a value that has a property where some thread takes
part. -/
def ScalarGatherRow (s : State) (w : Warp) (f : VForm) (i : Instr) (P : Word → Prop) : Prop :=
  Ready s w i → ∃ t v, exec i s = .next t ∧ GatherResult s w t f v 0 ∧ (s.takes w f.pred f.pneg ≠ 0 → P v)

/-- A row whose instruction combines A over the threads that take part. -/
theorem scalarGatherRow_reduceWith (g : Word → Word → Word) {s : State} {w : Warp} {f : VForm} {i : Instr} {fn : BitVec 6}
    {P : Word → Prop} (hw : s.curWarp = some w) (hi : rawOf i = some (.v 0x4A fn f))
    (he : exec i s = toScalar (.v 0x4A fn f) f (fun x take => (reduceWith take (s.opA x f) g, 0)) s)
    (hP : s.takes w f.pred f.pneg ≠ 0 → P (reduceWith (s.takes w f.pred f.pneg) (s.opA w f) g)) : ScalarGatherRow s w f i P :=
  fun hr =>
    have ⟨t, ht, hres⟩ := gatherResult_of (fun x take => reduceWith take (s.opA x f) g) hw hi he rfl hr
    ⟨t, _, ht, hres, hP⟩

/-! ### Scans -/

/-- What a scan writes at a thread is the fold over the threads before it, with its own element where inclusive. -/
theorem scanAt_append (a : Nat → Word) (g : Word → Word → Word) (inclusive : Bool) {t : Nat} {pre : List Nat} (post : List Nat)
    (c : Word) (hpre : t ∉ pre) : scanAt (scanSteps (pre ++ t :: post) a g c) inclusive t =
      (if inclusive then pre ++ [t] else pre).foldl (fun acc u => g acc (a u)) c := by
  induction pre generalizing c with
  | nil => cases inclusive <;> simp [scanAt, scanSteps]
  | cons u pre ih =>
    obtain ⟨hne, hpre⟩ := not_or.mp (mt List.mem_cons.mpr hpre)
    have hstep : scanAt (scanSteps (u :: pre ++ t :: post) a g c) inclusive t =
        scanAt (scanSteps (pre ++ t :: post) a g (g c (a u))) inclusive t := by
      simp [scanAt, scanSteps, Ne.symm hne]
    rw [hstep, ih _ hpre]
    cases inclusive <;> rfl

theorem scanAt_threadsOf (a : Nat → Word) (g : Word → Word → Word) (inclusive : Bool) {m : BitVec 96} {t : Nat} (c : Word)
    (ht : t < 96) (hm : m.getLsbD t = true) : scanAt (scanSteps (threadsOf m) a g c) inclusive t =
      ((List.range (if inclusive then t + 1 else t)).filter fun u => m.getLsbD u).foldl (fun acc u => g acc (a u)) c := by
  obtain ⟨post, h⟩ := threadsOf_split ht hm
  rw [h, scanAt_append a g inclusive post c (by simp)]
  cases inclusive
  · rfl
  · simp [List.range_succ, hm]

theorem vectorRow_scanOp {s : State} {w : Warp} {f : VForm} {i : Instr} {fn : BitVec 6} {g : Word → Word → Word} (identity : Word)
    (inclusive : Bool) (hw : s.curWarp = some w) (hi : rawOf i = some (.v 0x4B fn f))
    (he : exec i s = scanOp fn f g identity inclusive s) :
    VectorRow s w f (fun _ => 0) i fun v => ∀ th < 96, (s.takes w f.pred f.pneg).getLsbD th = true → v th =
      ((List.range (if inclusive then th + 1 else th)).filter fun u => (s.takes w f.pred f.pneg).getLsbD u).foldl
        (fun acc u => g acc (s.opA w f u)) (if f.vb = 0x7F then w.sreg f.sb else identity) :=
  vectorRow_plain hw hi he (fun _ => scanAt_threadsOf _ g inclusive _) (.inl rfl)

end Sys2Proof.Machine

namespace Sys2Proof

open Machine

/-- Settles O13: a reduction is a fold over the threads that take part, and a scan the same fold over those up to each. -/
theorem integerReductions : Obligations.IntegerReductions := by
  constructor <;> intro s w f hw
  · intro a ts le rows
    suffices h : ∀ p ∈ rows, ScalarGatherRow s w f p.1 p.2 from h
    simp only [rows, List.forall_mem_cons, List.not_mem_nil, false_imp_iff, implies_true, and_true]
    have hle (x y : Word) : le x y = true ↔ intOf (f.ty = 0) x ≤ intOf (f.ty = 0) y := by
      simp only [le, intOf]; split <;> simp
    exact ⟨
      scalarGatherRow_reduceWith (· + ·) hw rfl rfl reduceWith_add,
      scalarGatherRow_reduceWith (lesser f.ty) hw rfl rfl fun hm =>
        (reduceWith_lesser f.ty hm).imp id fun h th hth => (hle ..).mpr (h th hth),
      scalarGatherRow_reduceWith (greater f.ty) hw rfl rfl fun hm =>
        (reduceWith_greater f.ty hm).imp id fun h th hth => (hle ..).mpr (h th hth),
      scalarGatherRow_reduceWith (· &&& ·) hw rfl rfl fun hm _ => getLsbD_reduceWith_and a hm,
      scalarGatherRow_reduceWith (· ||| ·) hw rfl rfl fun hm _ _ => getLsbD_reduceWith_or a hm,
      scalarGatherRow_reduceWith (· ^^^ ·) hw rfl rfl fun hm _ _ => getLsbD_reduceWith_xor a hm⟩
  · intro take larger rows
    have hlarger : greater f.ty = larger := funext fun x => funext fun y =>
      if_congr ((intLess_iff f.ty x y).trans (intOf_lt_iff ..)) rfl rfl
    simp only [rows, List.forall_mem_cons, List.not_mem_nil, false_imp_iff, implies_true, and_true]
    exact ⟨
      vectorRow_scanOp 0 true hw rfl rfl,
      vectorRow_scanOp 0 false hw rfl rfl,
      vectorRow_scanOp 0 true hw rfl rfl,
      vectorRow_scanOp 0 false hw rfl rfl,
      vectorRow_scanOp _ true hw rfl (congrArg (scanOp 4 f · _ true s) hlarger)⟩

end Sys2Proof
end

section
/-! SUPPORT. The carry-less operations of R135 as parities, and the predicate operations of R136. -/

namespace Sys2Proof.Machine

/-! ### Carry-less operations -/

/-- A bit of the product over GF(2): the parity of the terms that meet there. -/
theorem getLsbD_carryless (a b : Word) {j : Nat} (hj : j < 64) : (carryless a b).getLsbD j =
    decide (((List.range 32).countP fun i => decide (i ≤ j) && b.getLsbD i && a.getLsbD (j - i)) % 2 = 1) := by
  have hstep (acc : DWord) (i : Nat) : (acc.getLsbD j ^^ (decide (i ≤ j) && b.getLsbD i && a.getLsbD (j - i))) =
      (if b.getLsbD i then acc ^^^ (a.zeroExtend 64 <<< i) else acc).getLsbD j := by
    cases b.getLsbD i
    · simp only [Bool.and_false, Bool.false_and, Bool.xor_false, Bool.false_eq_true, if_false]
    · rw [if_pos rfl, BitVec.getLsbD_xor, BitVec.getLsbD_shiftLeft, BitVec.getLsbD_setWidth, decide_eq_true hj,
        decide_eq_true (Nat.lt_of_le_of_lt (Nat.sub_le j i) hj), ← decide_not]
      simp only [not_lt, Bool.true_and, Bool.and_true]
  rw [carryless, ← List.foldl_hom (fun x : DWord => x.getLsbD j)
    (g₂ := fun c i => c ^^ (decide (i ≤ j) && b.getLsbD i && a.getLsbD (j - i))) hstep, foldl_xor_eq_parity]
  exact (congrArg (· ^^ _) BitVec.getLsbD_zero).trans (Bool.false_xor _)

theorem getLsbD_prefixXor (b : Word) {j : Nat} (hj : j < 32) :
    (prefixXor b).getLsbD j = decide (((List.range (j + 1)).countP fun i => b.getLsbD i) % 2 = 1) := by
  rw [prefixXor, getLsbD_wordOf _ hj, foldl_xor_eq_parity, Bool.false_xor]

/-! ### Predicates as sources -/

section
variable (w : Warp) (f : VForm)

theorem predA_eq (t : Nat) : predA w f t = (w.predicate (f.va.toNat % 8)).getLsbD t := by
  rw [predA, extractLsb'_three]

theorem predB_eq (t : Nat) : predB w f t = (w.predicate (f.vb.toNat % 8)).getLsbD t := by
  rw [predB, extractLsb'_three]

theorem predTaken_eq (take : BitVec 96) : predTaken w f take = take &&& w.predicate (f.va.toNat % 8) := by
  rw [predTaken, extractLsb'_three]

end

theorem threadsOf_and (m n : BitVec 96) :
    threadsOf (m &&& n) = (List.range 96).filter fun t => m.getLsbD t && n.getLsbD t :=
  List.filter_congr fun _ _ => BitVec.getLsbD_and

/-- What `pfirst` answers for the threads that hold. -/
def firstOrOnes (l : List Nat) : Word := (l.head?.map (BitVec.ofNat 32 ·)).getD 0xFFFFFFFF

theorem execPfirst_eq (f : VForm) (s : State) : execPfirst f s =
    toScalar (.v 0x4D 7 f) f (fun w take => (firstOrOnes (threadsOf (predTaken w f take)), 0)) s := by
  unfold execPfirst
  congr
  funext w take
  cases threadsOf (predTaken w f take) <;> rfl

/-! ### The three registers of `ptos` -/

theorem setS_only (w : Warp) (r : BitVec 6) (v : Word) : ∃ sc ti, w.setS r v = { w with scalars := sc, tinfo := ti } := by
  unfold Warp.setS
  split
  · exact ⟨w.scalars, w.tinfo, rfl⟩
  · split
    · exact ⟨w.scalars, _, rfl⟩
    · exact ⟨_, w.tinfo, rfl⟩

/-- A warp whose scalar registers and TINFO alone have changed has kept the rest when its instruction is complete. -/
theorem keeps_scalars (w : Warp) (sc : List Word) (ti : Word) : Keeps w ({ w with scalars := sc, tinfo := ti } : Warp).advance where
  identity := by constructor <;> simp
  specials := by constructor <;> simp
  latches := SamePlace.sameLatches ⟨rfl, rfl, rfl, rfl, rfl⟩ rfl rfl rfl rfl
  stack := by constructor <;> simp
  units := by constructor <;> simp
  moved := SamePlace.movedOn ⟨rfl, rfl, rfl, rfl, rfl⟩

/-- The three registers from number `n` on take the three words of a mask. -/
def setThree (w : Warp) (n : Nat) (r : BitVec 96) : Warp :=
  ((w.setS (BitVec.ofNat 6 n) (r.extractLsb' 0 32)).setS (BitVec.ofNat 6 (n + 1)) (r.extractLsb' 32 32)).setS
    (BitVec.ofNat 6 (n + 2)) (r.extractLsb' 64 32)

section
variable (w : Warp) {n : Nat} (r : BitVec 96)

theorem setThree_only : ∃ sc ti, setThree w n r = { w with scalars := sc, tinfo := ti } := by
  obtain ⟨sc, ti, h0⟩ := setS_only w (BitVec.ofNat 6 n) (r.extractLsb' 0 32)
  obtain ⟨sc', ti', h1⟩ := setS_only { w with scalars := sc, tinfo := ti } (BitVec.ofNat 6 (n + 1)) (r.extractLsb' 32 32)
  rw [setThree, h0, h1]
  exact setS_only _ _ _

theorem setS_tinfo_fixed (d : BitVec 6) (v : Word) : (w.setS d v).tinfo = if Fixed d then w.tinfo ||| 1 else w.tinfo := by
  rw [Warp.setS_tinfo, if_congr (fixed_iff d) rfl rfl]

theorem ite_or_one_twice (p q : Prop) [Decidable p] [Decidable q] (x : Word) :
    (if q then (if p then x ||| 1 else x) ||| 1 else if p then x ||| 1 else x) = if p ∨ q then x ||| 1 else x := by
  by_cases hp : p
  · simp only [hp, if_true, true_or, BitVec.or_assoc, BitVec.or_self, ite_self]
  · simp only [hp, if_false, false_or]

theorem setThree_tinfo : (setThree w n r).tinfo =
    if ∃ i < 3, Fixed (BitVec.ofNat 6 (n + i)) then w.tinfo ||| 1 else w.tinfo := by
  simp only [setThree, setS_tinfo_fixed, ite_or_one_twice]
  refine if_congr ?_ rfl rfl
  simp only [show ∀ i, i < 3 ↔ i = 0 ∨ i = 1 ∨ i = 2 by omega, or_and_right, exists_or, exists_eq_left, Nat.add_zero, or_assoc]

theorem sreg_setS_ofNat (hn : n < 64) (v : Word) (q : BitVec 6) : (w.setS (BitVec.ofNat 6 n) v).sreg q =
    if q.toNat = n ∧ q ≠ 0 ∧ ¬ Fixed q then v else w.sreg q := by
  have hq : q = BitVec.ofNat 6 n ↔ q.toNat = n := by
    rw [← BitVec.toNat_inj, BitVec.toNat_ofNat, Nat.mod_eq_of_lt hn]
  rw [Warp.sreg_setS]
  refine if_congr ?_ rfl rfl
  rw [hq]
  refine and_congr_right fun h => ?_
  rw [hq.mpr h, fixed_iff]

theorem setThree_sreg (hn : n ≤ 61) (q : BitVec 6) : (setThree w n r).sreg q =
    if q ≠ 0 ∧ n ≤ q.toNat ∧ q.toNat < n + 3 ∧ ¬ Fixed q then r.extractLsb' (32 * (q.toNat - n)) 32 else w.sreg q := by
  simp only [setThree, sreg_setS_ofNat _ (show n < 64 by omega), sreg_setS_ofNat _ (show n + 1 < 64 by omega),
    sreg_setS_ofNat _ (show n + 2 < 64 by omega)]
  by_cases hin : n ≤ q.toNat ∧ q.toNat < n + 3
  · obtain ⟨d, hd⟩ := Nat.exists_eq_add_of_le hin.1
    have hd3 : d < 3 := by omega
    simp only [hd, Nat.add_sub_cancel_left]
    interval_cases d <;> simp
  · have hne (d : Nat) (hd : d < 3) : q.toNat ≠ n + d := by omega
    rw [if_neg fun h => hne 2 (by decide) h.1, if_neg fun h => hne 1 (by decide) h.1, if_neg fun h => hne 0 (by decide) h.1,
      if_neg fun ⟨_, hlow, hhigh, _⟩ => hin ⟨hlow, hhigh⟩]

end

/-- The warp that `ptos` leaves, before it goes on: with no thread taking part it has no effect (R114). -/
def ptosWarp (w : Warp) (f : VForm) (take : BitVec 96) : Warp :=
  if take = 0 then w else setThree w f.vd.toNat (take &&& w.predicate (f.va.toNat % 8))

section
variable (w : Warp) (f : VForm) (take : BitVec 96)

theorem ptosWarp_only : ∃ sc ti, ptosWarp w f take = { w with scalars := sc, tinfo := ti } := by
  unfold ptosWarp
  split
  · exact ⟨w.scalars, w.tinfo, rfl⟩
  · exact setThree_only w _

theorem ptosWarp_tinfo : (ptosWarp w f take).tinfo =
    if take ≠ 0 ∧ ∃ i < 3, Fixed (BitVec.ofNat 6 (f.vd.toNat + i)) then w.tinfo ||| 1 else w.tinfo := by
  by_cases h : take = 0
  · rw [ptosWarp, if_pos h, if_neg fun hc => hc.1 h]
  · rw [ptosWarp, if_neg h, setThree_tinfo]
    exact if_congr (and_iff_right h).symm rfl rfl

theorem ptosWarp_sreg (hd : f.vd.toNat ≤ 61) (q : BitVec 6) : (ptosWarp w f take).sreg q =
    if take ≠ 0 ∧ q ≠ 0 ∧ f.vd.toNat ≤ q.toNat ∧ q.toNat < f.vd.toNat + 3 ∧ ¬ Fixed q then
      (take &&& w.predicate (f.va.toNat % 8)).extractLsb' (32 * (q.toNat - f.vd.toNat)) 32
    else w.sreg q := by
  by_cases h : take = 0
  · rw [ptosWarp, if_pos h, if_neg fun hc => hc.1 h]
  · rw [ptosWarp, if_neg h, setThree_sreg w _ hd]
    exact if_congr (and_iff_right h).symm rfl rfl

end

/-- The operand rules allow s0 to s61 as the first of the three registers (R32). -/
theorem ptos_vd_le {s : State} {w : Warp} {f : VForm} (h : s.ready w (.v 0x4D 5 f) = true) : f.vd.toNat ≤ 61 := by
  simp only [State.ready, operandsOk, vOperandsOk, Bool.and_eq_true] at h
  obtain ⟨⟨⟨⟨-, hvd⟩, -⟩, -⟩, -⟩ := h
  simpa using hvd

theorem exec_ptos {s : State} {w : Warp} {f : VForm} (hw : s.curWarp = some w) (h : s.ready w (.v 0x4D 5 f) = true) :
    exec (.ptos f) s = .next (s.finish (ptosWarp w f (s.takes w f.pred f.pneg))) := by
  have hd : f.vd.extractLsb' 0 6 = BitVec.ofNat 6 f.vd.toNat := rfl
  refine (checked_ready hw h).trans (congrArg _ ?_)
  simp only [hd, predTaken_eq, ptosWarp, setThree, BitVec.ofNat_add]
  split <;> rfl

end Sys2Proof.Machine

namespace Sys2Proof

open Machine

/-- Settles O14: the bits of a carry-less product and of `vpxor` are parities of lists of terms, and the predicate operations run in the
frames of a predicate, of a scalar and, for `ptos`, of three scalars. -/
theorem predicatesAndCarryless : Obligations.PredicatesAndCarryless := by
  constructor <;> intro s w f hw
  · intro term rows
    suffices h : ∀ p ∈ rows, VectorRow s w f (fun _ => 0) p.1 (fun g => ∀ th j, j < 32 → (g th).getLsbD j = p.2 th j) from h
    simp only [rows, List.forall_mem_cons, List.not_mem_nil, false_imp_iff, implies_true, and_true]
    exact ⟨
      vectorRow_plain hw rfl rfl fun th j hj => by
        rw [BitVec.getLsbD_extractLsb', decide_eq_true hj, Bool.true_and, Nat.zero_add, getLsbD_carryless _ _ (by omega)],
      vectorRow_plain hw rfl rfl fun th j hj => by
        rw [BitVec.getLsbD_extractLsb', decide_eq_true hj, Bool.true_and, Nat.add_comm, getLsbD_carryless _ _ (by omega)],
      vectorRow_plain hw rfl rfl fun th j hj => getLsbD_prefixXor _ hj⟩
  · intro take a b ts rows
    refine ⟨?_, ?_, ?_⟩
    · simp only [rows, List.forall_mem_cons, List.not_mem_nil, false_imp_iff, implies_true, and_true]
      exact ⟨
        predicateRow_of hw rfl rfl fun th => by rw [predA_eq, predB_eq],
        predicateRow_of hw rfl rfl fun th => by rw [predA_eq, predB_eq],
        predicateRow_of hw rfl rfl fun th => by rw [predA_eq, predB_eq],
        predicateRow_of hw rfl rfl fun th => by rw [predA_eq],
        predicateRow_of hw rfl rfl fun th => rfl⟩
    · simp only [List.forall_mem_cons, List.not_mem_nil, false_imp_iff, implies_true, and_true]
      exact ⟨
        gatherResult_of (fun x m => BitVec.ofNat 32 (threadsOf (predTaken x f m)).length) hw rfl rfl
          (by rw [predTaken_eq, threadsOf_and]),
        gatherResult_of (fun x m => firstOrOnes (threadsOf (predTaken x f m))) hw rfl (execPfirst_eq f s)
          (by rw [predTaken_eq, threadsOf_and]; rfl)⟩
    · intro hr
      have hready := ready_of_raw hr rfl
      obtain ⟨sc, ti, hx⟩ := ptosWarp_only w f take
      refine ⟨_, (ptosWarp w f take).advance, exec_ptos hw hready, onlyCurrent_finish s _, curWarp_finish s _, ?_, ?_, ?_, ?_, ?_, ?_⟩
      · rw [hx]; exact ⟨Warp.advance_vregs _, Warp.advance_preds _⟩
      · rw [hx]; exact SamePlace.sameTemps ⟨rfl, rfl, rfl, rfl, rfl⟩ rfl rfl
      · rw [hx]; exact Warp.advance_flags _
      · rw [hx]; exact keeps_scalars w sc ti
      · rw [Warp.advance_tinfo]; exact ptosWarp_tinfo w f take
      · intro q; rw [Warp.advance_sreg]; exact ptosWarp_sreg w f take (ptos_vd_le hready) q

end Sys2Proof
end
